-- ==== Sys2Proof/Word.lean ====
section
/-! DEFINITION. Words, addresses and times of the TX62, and the fixed-size table that holds a
numbered set of like things (R1, R108; Conventions of 00_scope.md). -/

namespace Sys2Proof

/-- A word is 8 bytes, little-endian, aligned to 8 (00_scope.md, Conventions). -/
abbrev Word := BitVec 64

/-- The smallest addressable unit of the cell bus. -/
abbrev Byte := BitVec 8

/-- A byte address of 32 bits (R1). -/
abbrev Addr := BitVec 32

/-- A value of the millisecond time counter, which wraps in 32 bits (R108). -/
abbrev Time := BitVec 32

/-- A requester tag, 0-15 (R1). -/
abbrev Tag := Fin 16

/-- `n` like things numbered from 0: the part's cups, lanes, stations, entries and tags. -/
structure Table (n : Nat) (α : Type) where
  vals : List α
  size : vals.length = n
deriving DecidableEq, Repr

namespace Table

variable {n : Nat} {α : Type}

/-- Item `i` of a table. -/
def get (t : Table n α) (i : Fin n) : α :=
  t.vals[i.val]'(by rw [t.size]; exact i.isLt)

/-- The table with item `i` replaced. -/
def set (t : Table n α) (i : Fin n) (x : α) : Table n α :=
  ⟨t.vals.set i.val x, by rw [List.length_set, t.size]⟩

/-- A table of `n` equal items. -/
def replicate (n : Nat) (x : α) : Table n α :=
  ⟨List.replicate n x, List.length_replicate⟩

/-- The table whose item `i` is `f i`. -/
def ofFn (f : Fin n → α) : Table n α :=
  ⟨List.ofFn f, List.length_ofFn⟩

/-- The numbers of the items that pass a test, lowest first. -/
def indices (t : Table n α) (p : α → Bool) : List (Fin n) :=
  (List.finRange n).filter fun i => p (t.get i)

/-- The lowest-numbered item that passes a test. -/
def firstIndex (t : Table n α) (p : α → Bool) : Option (Fin n) :=
  (List.finRange n).find? fun i => p (t.get i)

/-- Whether some item passes a test. -/
def any (t : Table n α) (p : α → Bool) : Bool := t.vals.any p

end Table

/-- The number `k` as an index below `n`, where it is one. -/
def asFin (n k : Nat) : Option (Fin n) :=
  if h : k < n then some ⟨k, h⟩ else none

end Sys2Proof
end

