-- ==== Sys2Proof/Syntax.lean ====
section
/-! DEFINITION. The commands of the block: one constructor of `Instr` for each row of
spec/opcode_table.json. A row that is a cycle on the cell bus carries the cycle (R1); a row in which
the part itself reads or writes cell memory carries memory's answers to those accesses; the other
rows have no operand. -/

namespace Sys2Proof

/-- The size of a cycle: 1, 2, 4 or 8 bytes (R1). -/
inductive Size where
  | b1 | b2 | b4 | b8
deriving DecidableEq, Repr

/-- A size in bytes. -/
def Size.bytes : Size → Nat
  | .b1 => 1
  | .b2 => 2
  | .b4 => 4
  | .b8 => 8

/-- What a cycle asks for: a READ, or a WRITE with its data in the low bytes of `data` (R1). -/
inductive BusOp where
  | read
  | write (data : Word)
deriving DecidableEq, Repr

/-- A cycle that arrives on the master-side bus (R1). -/
structure Cycle where
  tag  : Tag
  addr : Addr
  size : Size
  op   : BusOp
deriving DecidableEq, Repr

/-- What goes on in the part beside the Engine while a request of the Engine is under way: a TIMEBASE
pulse (R108), a cycle that arrives on the master-side bus (R1), a grant of the downstream port to
another source (R20), and the start and the end of a walker's job (R53). -/
inductive Meanwhile where
  | timebase
  | arrival (c : Cycle)
  | portCycle (visits : Nat) (hard : Bool)
  | jobStart
  | jobEnd
deriving DecidableEq, Repr

/-- One downstream cycle that the Engine issues inside a request: whether memory answers it HARD, and
what goes on beside it, in order: before the Engine presents the cycle, while it waits for the port's
grant, and while memory has it (R20, R81, R186; notes/assumptions/4.md). -/
structure MemAnswer where
  hard   : Bool
  early  : List Meanwhile := []
  late   : List Meanwhile := []
  during : List Meanwhile := []
deriving DecidableEq, Repr

/-- One constructor for each row of spec/opcode_table.json. `answers` lists memory's answers to the
downstream cycles that the Engine issues in that step, in the order it issues them; a cycle beyond
the end of the list is answered DONE, and nothing goes on beside it but the grants that the rotation
puts before it (notes/assumptions/4.md). -/
inductive Instr where
  /-- RESET_N (R21). -/
  | resetN
  /-- TIMEBASE (R108). -/
  | timebase
  /-- MISALIGNED_CYCLE (R1). -/
  | misalignedCycle (c : Cycle)
  /-- PASS_READ (R6). -/
  | passRead (tag : Tag) (addr : Addr) (size : Size)
  /-- BOARD_TABLE_READ (R47). -/
  | boardTableRead (tag : Tag) (addr : Addr) (size : Size)
  /-- PASS_WRITE (R16). -/
  | passWrite (tag : Tag) (addr : Addr) (size : Size) (data : Word)
  /-- GUARD_REFUSAL (R14). -/
  | guardRefusal (c : Cycle)
  /-- PATH_REFUSAL (R15). -/
  | pathRefusal (tag : Tag) (addr : Addr) (size : Size) (data : Word)
  /-- HELD_WRITE (R17). -/
  | heldWrite (tag : Tag) (addr : Addr) (size : Size) (data : Word)
  /-- PORT_CYCLE (R20): `visits` is how many cache entries a running flush job's scan takes up
  before this grant, `hard` whether memory answers the granted cycle HARD. -/
  | portCycle (visits : Nat) (hard : Bool)
  /-- ROOT_RECORD_LOAD (R186). -/
  | rootRecordLoad (answers : List MemAnswer)
  /-- CUT (R87). -/
  | cut (answers : List MemAnswer)
  /-- PICK (R90). -/
  | pick (answers : List MemAnswer)
  /-- PLACE (R92). -/
  | place (answers : List MemAnswer)
  /-- DISCARD (R98). -/
  | discard (answers : List MemAnswer)
  /-- TRIAL_COMMAND (R100). -/
  | trialCommand (answers : List MemAnswer)
  /-- NEST_STOP (R68). -/
  | nestStop (answers : List MemAnswer)
  /-- NEST_RESUME (R69). -/
  | nestResume (answers : List MemAnswer)
  /-- NEST_SYNC (R71). -/
  | nestSync (answers : List MemAnswer)
  /-- NEST_RELEASE (R73). -/
  | nestRelease (answers : List MemAnswer)
  /-- LANE_STOP (R151). -/
  | laneStop (answers : List MemAnswer)
  /-- LANE_RESUME (R152). -/
  | laneResume (answers : List MemAnswer)
  /-- STATION_RESET (R153). -/
  | stationReset (answers : List MemAnswer)
  /-- SLOT_SET (R154). -/
  | slotSet (answers : List MemAnswer)
  /-- RESOLVE (R161). -/
  | resolve (answers : List MemAnswer)
  /-- FORGET (R165). -/
  | forget (answers : List MemAnswer)
  /-- CUP_CLEAR (R166). -/
  | cupClear (answers : List MemAnswer)
  /-- CELL_CLEAR (R167). -/
  | cellClear (answers : List MemAnswer)
  /-- TRIAL_SERVICE_COMMAND (R159). -/
  | trialServiceCommand (answers : List MemAnswer)
  /-- CUT_END (R122). -/
  | cutEnd (answers : List MemAnswer)
  /-- PICK_END (R123). -/
  | pickEnd (answers : List MemAnswer)
  /-- DISCARD_END (R124). -/
  | discardEnd (answers : List MemAnswer)
  /-- PLACE_END (R125). -/
  | placeEnd (answers : List MemAnswer)
  /-- PRESENT_END (R125). -/
  | presentEnd (answers : List MemAnswer)
  /-- ARRIVED (R134). -/
  | arrived (answers : List MemAnswer)
  /-- REMOVED (R137). -/
  | removed (answers : List MemAnswer)
  /-- EXPIRY (R111). -/
  | expiry
  /-- PAIR_EXPIRY (R112). -/
  | pairExpiry
  /-- CAPTURE_RELEASE (R176). -/
  | captureRelease
  /-- FLAG_CLEAR (R179). -/
  | flagClear
  /-- BOARD_EDIT (R36). -/
  | boardEdit (answers : List MemAnswer)
  /-- WALKER_JOB_START (R53). -/
  | walkerJobStart
  /-- LOAD_JOB_END (R54). -/
  | loadJobEnd
  /-- SYNC_JOB_END (R56). -/
  | syncJobEnd
  /-- RELEASE_JOB_END (R57). -/
  | releaseJobEnd
  /-- LOAD_COMPLETION (R63). -/
  | loadCompletion
  /-- SYNC_COMPLETION (R72). -/
  | syncCompletion
  /-- RELEASE_COMPLETION (R75). -/
  | releaseCompletion
  /-- BAD_KIND_POST (R82). -/
  | badKindPost (answers : List MemAnswer)
  /-- REPORT_KIND_MISMATCH (R117). -/
  | reportKindMismatch (answers : List MemAnswer)
deriving DecidableEq, Repr

end Sys2Proof
end

