-- ==== Sys2Proof/Config.lean ====
section
/-! DEFINITION. What is fixed for the machine: the places and sizes the manual gives by number, and
the model's one choice about cell memory that nothing has written (notes/assumptions/2.md). -/

namespace Sys2Proof.Config

/-- What a byte of cell memory that nothing has written reads as (DESIGN CHOICE, unsafe:
notes/assumptions/2.md; the manual says nothing of memory's contents before the first write). -/
def unwrittenByte : Byte := 0

/-- First byte of the Root Record (R185). -/
def rootBase : Nat := 0x800

/-- Bytes of the Root Record (R185). -/
def rootSize : Nat := 0x200

/-- Bytes of the Image Area (R5). -/
def imageSize : Nat := 0xA00

/-- Bytes of one ring record or board record (00_scope.md, Conventions). -/
def recordSize : Nat := 32

/-- Bytes of the address space (R1). -/
def addressSpace : Nat := 0x100000000

/-- Most boards of one nest (R59). -/
def maxBoards : Nat := 96

/-- Most slots of one magazine (R129). -/
def maxSlots : Nat := 80

end Sys2Proof.Config
end

