-- ==== Sys2Proof/Machine/State.lean ====
section
/-! DEFINITION. The state of the TX62 as plain data, block by block as the manual's overview gives the
blocks, with its values after RESET_N (`State.reset`), and the reasons a step can stop. -/

namespace Sys2Proof.Machine

/-! ### Names of modes, roles and answers -/

/-- The operating mode (R4). -/
inductive Mode where
  | openPath | guarded
deriving DecidableEq, Repr

/-- A requester role (R3). -/
inductive Role where
  | none | proc | router | picker | stacker | plain
deriving DecidableEq, Repr

/-- The owner of a capture (R3, R172). -/
inductive Source where
  | proc | router | picker | stacker
deriving DecidableEq, Repr

/-- An acknowledge (R2). -/
inductive Ack where
  | done | soft | hard
deriving DecidableEq, Repr

/-- The kind of a cycle (R1). -/
inductive AccessKind where
  | read | write
deriving DecidableEq, Repr

/-- One of the two nests (R58). -/
inductive Nest where
  | a | b
deriving DecidableEq, Repr

/-- The four command rings (R77). -/
inductive CmdRing where
  | router | picker | service | stacker
deriving DecidableEq, Repr

/-- The three report rings (R115). -/
inductive RepRing where
  | router | picker | stacker
deriving DecidableEq, Repr

/-- A board: nest and position (R22). -/
structure BoardRef where
  nest : Nest
  pos  : Nat
deriving DecidableEq, Repr

/-! ### Causes (R170) -/

/-- Every cause of a refusal, dispute or expiry (R170). -/
inductive Cause where
  | narrowWrite | imageWrite | reportForged | protectedField
  | badKind | ringOrder | slotInUse
  | nestEmpty | nestLoading | nestIllegal | nestStopped | nestComplete | nestReleasing
  | nestClaimed | positionRange
  | boardBusy | holdLocked | holdCutOnly | holdConfirm | xoutLeft | xoutDiscard | notFree
  | nothingToCut | spanInvalid | boardGone | boardUncertain | goodBoard
  | cupRange | cupEmpty | cupBusy | cupSuspect
  | laneMismatch | laneKind | laneClosed | lanePaused | laneStopped | laneExhausted
  | tableFull | stackerRingFull
  | serviceState | serviceRange
  | loadInvalid | loadNotPermitted | loadIncomplete
  | noEntry | late | kindMismatch | outOfSpan | arrivalConflict | stationDisabled
  | nothingToRemove
  | expired | skipped | disputed | memory
deriving DecidableEq, Repr

/-- The cause with which an entry expired (R105). -/
inductive ExpiryCause where
  | expired | skipped | disputed | memory
deriving DecidableEq, Repr

/-! ### Configuration held from the Root Record -/

/-- Base and slot count of one ring (R77, R197). -/
structure Ring where
  base  : Addr
  slots : Nat
deriving DecidableEq, Repr

/-- The seven rings of S1 (R185). -/
structure RingLayout where
  router        : Ring
  picker        : Ring
  service       : Ring
  stacker       : Ring
  routerReport  : Ring
  pickerReport  : Ring
  stackerReport : Ring
deriving DecidableEq, Repr

/-- What becomes of a nest's XOUT boards (R35). -/
inductive XoutPolicy where
  | leave | sort | discard
deriving DecidableEq, Repr

/-- A nest descriptor (R59). -/
structure Descriptor where
  panelId    : BitVec 32
  tableBase  : Addr
  count      : Nat
  typeBase   : Addr
  rejectLane : Fin 16
  policy     : XoutPolicy
deriving DecidableEq, Repr

/-- A hold code (R33). -/
inductive HoldCode where
  | locked | cutOnly | confirm | isOpen
deriving DecidableEq, Repr

/-- One entry of a Type Store (R60). -/
structure TypeEntry where
  isDefined : Bool
  lane      : Fin 16
  hold      : HoldCode
deriving DecidableEq, Repr

/-- One entry of the Magazine Type Table (R129). -/
structure MagType where
  isDefined : Bool
  code      : BitVec 8
  slotCount : Nat
  pitch     : Nat
deriving DecidableEq, Repr

/-- The five expiry limits in milliseconds (R109). -/
structure Limits where
  cutBase : Nat
  cutTab  : Nat
  pick    : Nat
  pair    : Nat
  discard : Nat
deriving DecidableEq, Repr

/-! ### Cycles and requests on the path -/

/-- A master's side of the bus: no cycle, a cycle without its acknowledge yet, or the acknowledge of
its last cycle, with read data where that was a READ answered DONE (R1, R2). -/
inductive MasterPort where
  | idle
  | waiting
  | answered (ack : Ack) (data : Option Word)
deriving DecidableEq, Repr

/-- The class of a held write (R17), with what the Classifier found out about its address. -/
inductive RequestClass where
  | load
  | admission (ring : CmdRing)
  | service
  | report (ring : RepRing)
  | captureRelease (source : Source)
  | flagClear
  | boardEdit (board : BoardRef)
deriving DecidableEq, Repr

/-- A held write at the Engine's arbiter (R17). Its size is always 8 bytes (R13), and its tag is the
arbiter position it waits at (R18). -/
structure Request where
  addr : Addr
  data : Word
  role : Option Role
  cls  : RequestClass
deriving DecidableEq, Repr

/-- An image record of the Image Area (R20, R194). -/
inductive ImageId where
  | status
  | capture (source : Source)
  | cup (c : Fin 4)
  | nest (n : Nest)
  | entry (i : Fin 32)
  | lane (l : Fin 16)
  | station (s : Fin 8)
deriving DecidableEq, Repr

/-- A cycle whose acknowledge waits for image writes (R183). -/
structure Wait where
  tag    : Tag
  ack    : Ack
  images : List ImageId
deriving DecidableEq, Repr

/-- What the Engine is doing: nothing, a request taken at an arbiter position (tags 0-15, 16 the
expiry position, 17 the walker position; R18), or a held write whose acknowledge waits for its
images (R183). -/
inductive EngineState where
  | idle
  | serving (position : Fin 18)
  | finishing (wait : Wait)
deriving DecidableEq, Repr

/-- The four sources of the downstream port (R20). -/
inductive PortSource where
  | pass | engine | walker | image
deriving DecidableEq, Repr

/-- The last-guard record (R14). -/
structure GuardRecord where
  addr : Addr
  tag  : Tag
  kind : AccessKind
deriving DecidableEq, Repr

/-! ### Boards and the Board Cache -/

/-- The thirteen board states (R24). -/
inductive BoardState where
  | intact | partCut | cutting | free | picking | held | placing | discarding
  | stacked | scrapped | left | lost | uncertain
deriving DecidableEq, Repr

/-- The cause of a board's last becoming UNCERTAIN or LOST (R27). -/
inductive LastCause where
  | expired | skipped | disputed | memory | cleared | collision | stationChanged | dropped
  | resolved
deriving DecidableEq, Repr

/-- The grade of a board (R32). -/
inductive Grade where
  | good | xout | reject
deriving DecidableEq, Repr

/-- The four words of a board record (R22). -/
structure BoardWords where
  w0 : Word
  w1 : Word
  w2 : Word
  w3 : Word
deriving DecidableEq, Repr

/-- A valid Board Cache entry (R41). -/
structure CacheLine where
  board     : BoardRef
  words     : BoardWords
  dirty     : Bool
  writeBack : Bool
deriving DecidableEq, Repr

/-! ### The background walker -/

/-- A job of the walker (R52). A LOAD job carries the descriptor it was queued with, because a
cancelled job may outlive it (R54, R74). -/
inductive Job where
  | load (n : Nest) (d : Descriptor)
  | sync (n : Nest)
  | release (n : Nest)
deriving DecidableEq, Repr

/-- How the work of a LOAD job came to its end: `failed none` names the type table (R53, R54). -/
inductive LoadEnd where
  | ok
  | invalid (pos : Nat)
  | failed (pos : Option Nat)
deriving DecidableEq, Repr

/-- Where a failing downstream cycle of a job stood (R52). -/
inductive FailStep where
  | typeTable
  | position (pos : Nat)
  | entry (i : Nat)
deriving DecidableEq, Repr

/-- What the walker has in hand: the next type entry to read, the words of the record at the scan
point read so far, the writes of a normalised record, a flush between two visits, a write-back in
flight with the board and the words of its snapshot, or the end of a load. `stored` counts the
writes that have completed. -/
inductive JobPhase where
  | types (next : Nat)
  | record (words : List Word)
  | storing (stored : Nat) (words : BoardWords)
  | scanning
  | flushing (stored : Nat) (pos : Nat) (words : BoardWords)
  | ended (result : LoadEnd)
deriving DecidableEq, Repr

/-- The running job (R52). `counted` is the load's count of records that are not LEFT (R62). -/
structure RunningJob where
  job       : Job
  scan      : Nat
  cancelled : Bool
  redirtied : Bool
  failure   : Option FailStep
  counted   : Nat
  phase     : JobPhase
deriving DecidableEq, Repr

/-- A completion request (R53). -/
inductive Completion where
  | load (n : Nest) (result : LoadEnd) (count : Nat)
  | sync (n : Nest) (clean : Bool) (failed : Bool)
  | release (n : Nest) (failed : Bool)
deriving DecidableEq, Repr

/-- The walker: idle, working a job, or with a completion that the Engine has not taken (R53). -/
inductive Walker where
  | idle
  | running (j : RunningJob)
  | waiting (c : Completion)
deriving DecidableEq, Repr

/-! ### Nests -/

/-- The nest states (R58). -/
inductive NestState where
  | empty | loading | illegal | active | stopping | stopped | complete | releasing
deriving DecidableEq, Repr

/-- The image status of a nest (R70). -/
inductive ImageStatus where
  | off | initial | dirty | clean
deriving DecidableEq, Repr

/-- The claim of a nest (R66). -/
inductive Claim where
  | none | router | picker
deriving DecidableEq, Repr

/-- The load result of a nest (R58). -/
inductive NestLoadResult where
  | none | ok | invalid | failed
deriving DecidableEq, Repr

/-- A Nest Context (R58). -/
structure NestContext where
  descriptor : Option Descriptor
  types      : Table 64 TypeEntry
  typesValid : Bool
  state      : NestState
  status     : ImageStatus
  claim      : Claim
  remaining  : Nat
  loadResult : NestLoadResult
  firstBad   : Option Nat
deriving DecidableEq, Repr

/-! ### The Open Command Table -/

/-- The state of an entry in use, with its expiry cause while EXPIRED (R105). -/
inductive EntryState where
  | isOpen
  | half
  | expired (cause : ExpiryCause)
deriving DecidableEq, Repr

/-- The action of an entry (R105). -/
inductive EntryKind where
  | cut | pick | place | present | discard
deriving DecidableEq, Repr

/-- The destination of a placement pair, chosen at admission (R105). -/
structure Destination where
  station    : Fin 8
  lane       : Fin 16
  slot       : Nat
  generation : BitVec 8
  serial     : BitVec 16
deriving DecidableEq, Repr

/-- The result a picker report carries (R115). -/
inductive Result where
  | done | fail | abort | dropped
deriving DecidableEq, Repr

/-- What the stacker saw (R115). -/
structure Observation where
  slot       : Nat
  obstructed : Bool
  serial     : BitVec 16
deriving DecidableEq, Repr

/-- The payload of a pair's stored report: a PLACE_END or a PRESENT_END (R105). -/
inductive StoredPayload where
  | placeEnd (result : Result)
  | presentEnd (obs : Observation)
deriving DecidableEq, Repr

/-- A pair's first report (R105, R125). -/
structure StoredReport where
  payload  : StoredPayload
  ringSlot : Nat
  time     : Time
deriving DecidableEq, Repr

/-- An effective span: first tab and count (R88). -/
structure Span where
  first : Nat
  count : Nat
deriving DecidableEq, Repr

/-- An OCT entry in use (R105). Its due mark is kept in `State.due`. -/
structure Entry where
  state    : EntryState
  ring     : CmdRing
  slot     : Nat
  sequence : BitVec 8
  kind     : EntryKind
  board    : BoardRef
  cup      : Option (Fin 4)
  dest     : Option Destination
  span     : Option Span
  partner  : Option (Fin 32)
  admitted : Time
  expiry   : Option Time
  stored   : Option StoredReport
deriving DecidableEq, Repr

/-- The cursors of the four command rings (R79). -/
structure Cursors where
  router  : Nat
  picker  : Nat
  service : Nat
  stacker : Nat
deriving DecidableEq, Repr

/-! ### The Cup Table -/

/-- The state of a cup (R38). -/
inductive CupState where
  | empty | reserved | loaded | reservedOut | suspect
deriving DecidableEq, Repr

/-- A cup (R38). -/
structure Cup where
  state : CupState
  ref   : Option BoardRef
deriving DecidableEq, Repr

/-! ### The Stacking Map -/

/-- The state of a slot of a magazine (R138). -/
inductive SlotState where
  | free | reserved | occupied | blocked | suspect
deriving DecidableEq, Repr

/-- Why a station is FAULTED (R130). -/
inductive FaultCause where
  | labelUnreadable | typeUnknown | typeNotAllowed | collision
deriving DecidableEq, Repr

/-- The state of a station, with its fault cause while FAULTED (R130, R131). -/
inductive StationState where
  | disabled | vacant | identifying | ready | filling | full
  | faulted (cause : FaultCause)
deriving DecidableEq, Repr

/-- A magazine label as reported (R130). -/
structure RawLabel where
  code    : BitVec 8
  serial  : BitVec 16
  inhibit : BitVec 8
  check   : BitVec 16
deriving DecidableEq, Repr

/-- The magazine a station holds; its slot count is the length of `slots` (R130). -/
structure Magazine where
  typeIndex : Fin 16
  serial    : BitVec 16
  pitch     : Nat
  inhibited : Bool
  slots     : List SlotState
deriving DecidableEq, Repr

/-- A station record (R130). -/
structure Station where
  state      : StationState
  mask       : BitVec 16
  generation : BitVec 8
  attempts   : Nat
  label      : Option RawLabel
  magazine   : Option Magazine
deriving DecidableEq, Repr

/-- The kind of a lane (R140). -/
inductive LaneKind where
  | normal | reject
deriving DecidableEq, Repr

/-- The order in which a lane fills slots (R140). -/
inductive LaneOrder where
  | up | down
deriving DecidableEq, Repr

/-- The state of a lane (R141). -/
inductive LaneState where
  | closed | isOpen | exhausted | paused | stopped
deriving DecidableEq, Repr

/-- The condition of a stop request (R141). -/
inductive StopCondition where
  | now | atStationEnd
deriving DecidableEq, Repr

/-- The notice of a stop request (R141). -/
inductive StopNotice where
  | atStop | atDrain
deriving DecidableEq, Repr

/-- A stop request (R141). -/
structure StopRequest where
  condition : StopCondition
  notice    : StopNotice
deriving DecidableEq, Repr

/-- A lane (R140, R141). -/
structure Lane where
  enabled  : Bool
  kind     : LaneKind
  order    : LaneOrder
  stations : List (Fin 8)
  state    : LaneState
  current  : Nat
  pending  : Nat
  stop     : Option StopRequest
deriving DecidableEq, Repr

/-! ### The Condition Unit -/

/-- The cycle an event came from (R172). -/
structure CycleRef where
  tag  : Tag
  kind : AccessKind
  addr : Addr
deriving DecidableEq, Repr

/-- The references of a capture, each separately absent or present (R172). -/
structure Refs where
  nest    : Option Nest := none
  pos     : Option Nat := none
  cup     : Option (Fin 4) := none
  lane    : Option (Fin 16) := none
  station : Option (Fin 8) := none
  slot    : Option Nat := none
  entry   : Option (Fin 32) := none
deriving DecidableEq, Repr

/-- The fields of a HELD capture (R172); `sect` is the section number of a load cause. -/
structure Capture where
  cause : Cause
  sect  : Option Nat
  cycle : Option CycleRef
  refs  : Refs
  time  : Time
deriving DecidableEq, Repr

/-- The last load result, with the failing section of a refusal (R182). -/
inductive LoadStatus where
  | none
  | ok
  | invalid (sect : Nat)
  | notPermitted (sect : Nat)
  | incomplete (sect : Nat)
deriving DecidableEq, Repr

/-- The flags and routing of the last status block write that completed (R181). -/
structure Published where
  flags  : BitVec 24
  routeA : BitVec 24
  routeB : BitVec 24
deriving DecidableEq, Repr

/-! ### The whole part -/

/-- The TX62 and the cell memory behind it. -/
structure State where
  /-- Operating mode (R4). -/
  mode       : Mode
  /-- Requester role table, none while not set (R3). -/
  roles      : Option (Table 16 Role)
  /-- Ring layouts of S1, none before the first load (R5). -/
  rings      : Option RingLayout
  /-- Image Area base of S2, none before the first load (R5). -/
  imageBase  : Option Addr
  /-- Each master's cycle and acknowledge (R1, R2). -/
  masters    : Table 16 MasterPort
  /-- Classifier refusals whose acknowledge waits for images (R14, R15, R183). -/
  waits      : List Wait
  /-- The pass-through source: at most one cycle of each tag (R16). -/
  pass       : Table 16 (Option Cycle)
  /-- The tag whose cycle the pass-through source last forwarded (R16). -/
  passLast   : Tag
  /-- Held writes at the Engine's arbiter, by tag (R17, R18). -/
  requests   : Table 16 (Option Request)
  /-- The Engine (R17). -/
  engine     : EngineState
  /-- The arbiter position last served (R18). -/
  lastServed : Fin 18
  /-- The port source last granted (R20). -/
  portLast   : PortSource
  /-- The image queue, oldest write first (R20). -/
  images     : List ImageId
  /-- The Board Cache, none for an invalid entry (R41). -/
  cache      : Table 64 (Option CacheLine)
  /-- The recency order of the valid entries, most recent first (R42). -/
  recency    : List (Fin 64)
  /-- The background walker (R53). -/
  walker     : Walker
  /-- The walker's job queue (R52). -/
  jobs       : List Job
  /-- Nest Context A (R58). -/
  nestA      : NestContext
  /-- Nest Context B (R58). -/
  nestB      : NestContext
  /-- The OCT entries, none for a free one (R105). -/
  entries    : Table 32 (Option Entry)
  /-- The entries in use in admission order (R106). -/
  order      : List (Fin 32)
  /-- The entries whose due mark is set, in the order they became due (R110). -/
  due        : List (Fin 32)
  /-- The time counter (R108). -/
  time       : Time
  /-- The expiry limits (R109). -/
  limits     : Limits
  /-- The ring cursors (R79). -/
  cursors    : Cursors
  /-- The Cup Table (R38). -/
  cups       : Table 4 Cup
  /-- The lanes (R140, R141). -/
  lanes      : Table 16 Lane
  /-- The stations (R130). -/
  stations   : Table 8 Station
  /-- The Magazine Type Table (R129). -/
  magTypes   : Table 16 MagType
  /-- The condition flags 0-23 (R177). -/
  flags      : BitVec 24
  /-- The captures in the order PROC, ROUTER, PICKER, STACKER, none while EMPTY (R172). -/
  captures   : Table 4 (Option Capture)
  /-- The last-guard record (R14). -/
  lastGuard  : Option GuardRecord
  /-- Last applied generation (R182). -/
  loadGen    : BitVec 16
  /-- Last load result and section (R182). -/
  loadStatus : LoadStatus
  /-- Enables of the flags for LINE_A (R181). -/
  routeA     : BitVec 24
  /-- Enables of the flags for LINE_B (R181). -/
  routeB     : BitVec 24
  /-- What the lines follow (R181). -/
  published  : Published
  /-- Cell memory behind the downstream port, in canonical form (notes/assumptions/2.md). -/
  mem        : List Host.Cell
  /-- The commands that are waiting, first in, first out (notes/assumptions/1.md). -/
  pending    : List Instr
deriving DecidableEq, Repr

/-- Why a step can stop the machine. -/
inductive Fault where
  /-- Raised by the seven cycle commands when a cycle arrives from a tag whose earlier cycle has not
  been acknowledged, which R1 relies on never happening. Safe: the model stops where the manual says
  nothing (notes/assumptions/7.md). -/
  | tagOutstanding (tag : Tag)
deriving DecidableEq, Repr

/-- Why a step can be refused by the model. -/
inductive Refusal where
  /-- A command that has no meaning yet, by its mnemonic; raised only by an arm of `exec`. Safe. -/
  | notModelled (mnemonic : String)
deriving DecidableEq, Repr

/-- A Nest Context after RESET_N (R58). The Type Store is invalid; what stands in it under that mark
is a DESIGN CHOICE (notes/assumptions/14.md). -/
def NestContext.reset : NestContext where
  descriptor := none
  types := Table.replicate 64 ⟨false, 0, .locked⟩
  typesValid := false
  state := .empty
  status := .off
  claim := .none
  remaining := 0
  loadResult := .none
  firstBad := none

/-- A lane after RESET_N (R140, R141). -/
def Lane.reset : Lane where
  enabled := false
  kind := .normal
  order := .up
  stations := []
  state := .closed
  current := 0
  pending := 0
  stop := none

/-- A station after RESET_N (R130). -/
def Station.reset : Station where
  state := .disabled
  mask := 0
  generation := 0
  attempts := 0
  label := none
  magazine := none

/-- The part after RESET_N (R21, R38, R41, R42, R52, R58, R79, R106, R108, R109, R129, R130, R140,
R141, R172, R177, R181, R196), with cell memory in which nothing has been written and no command
waiting. -/
def State.reset : State where
  mode := .openPath
  roles := none
  rings := none
  imageBase := none
  masters := Table.replicate 16 .idle
  waits := []
  pass := Table.replicate 16 none
  passLast := 15
  requests := Table.replicate 16 none
  engine := .idle
  lastServed := 17
  portLast := .image
  images := []
  cache := Table.replicate 64 none
  recency := []
  walker := .idle
  jobs := []
  nestA := .reset
  nestB := .reset
  entries := Table.replicate 32 none
  order := []
  due := []
  time := 0
  limits := ⟨0, 0, 0, 0, 0⟩
  cursors := ⟨0, 0, 0, 0⟩
  cups := Table.replicate 4 ⟨.empty, none⟩
  lanes := Table.replicate 16 .reset
  stations := Table.replicate 8 .reset
  magTypes := Table.replicate 16 ⟨false, 0, 0, 0⟩
  flags := 0
  captures := Table.replicate 4 none
  lastGuard := none
  loadGen := 0
  loadStatus := .none
  routeA := 0
  routeB := 0
  published := ⟨0, 0, 0⟩
  mem := []
  pending := []

end Sys2Proof.Machine
end

