-- ==== Sys2Proof/Machine/Operands.lean ====
section
/-! DEFINITION. Record Layouts (11_record_layouts.md): how the fields of every record that the part
reads stand in its words, and the numeric code of every name. -/

namespace Sys2Proof.Machine

/-! ### Fields of a word (R197) -/

/-- The unsigned number in the `width` bits of a word from bit `lo` on. -/
def bits (w : Word) (lo width : Nat) : Nat := w.toNat / 2 ^ lo % 2 ^ width

/-- One bit of a word as a mark. -/
def bit (w : Word) (lo : Nat) : Bool := bits w lo 1 == 1

/-- A field to be written: lowest bit, width and value. -/
structure Field where
  lo    : Nat
  width : Nat
  value : Nat
deriving DecidableEq, Repr

/-- The number that a list of fields makes, zero in every bit no field names. -/
def fieldsSum : List Field → Nat
  | [] => 0
  | f :: fs => f.value % 2 ^ f.width * 2 ^ f.lo + fieldsSum fs

/-- A word written whole: its fields, and zero in every other bit (R197). -/
def pack (fs : List Field) : Word := BitVec.ofNat 64 (fieldsSum fs)

/-- A mark as a field value. -/
def markOf (b : Bool) : Nat := if b then 1 else 0

/-- The presence bit of an optional field. -/
def presence {α : Type} (o : Option α) : Nat := markOf o.isSome

/-- The value bits of an optional field, zero while it is absent (R197). -/
def valueOf {α : Type} (o : Option α) (code : α → Nat) : Nat :=
  match o with
  | none => 0
  | some x => code x

/-! ### Codes -/

/-- VALID, as a mark code. -/
def markValid : Nat := 1

/-- TRIED, as a mark code. -/
def markTried : Nat := 2

/-- The code of a nest. -/
def Nest.code : Nest → Nat
  | .a => 0
  | .b => 1

/-- The nest a code names; 2 and 3 name none (R198). -/
def Nest.ofCode : Nat → Option Nest
  | 0 => some .a
  | 1 => some .b
  | _ => none

/-- The role a code of S0 names (R188). -/
def Role.ofCode : Nat → Option Role
  | 0 => some .none
  | 1 => some .proc
  | 2 => some .router
  | 3 => some .picker
  | 4 => some .stacker
  | 5 => some .plain
  | _ => none

/-- The code of a board state. -/
def BoardState.code : BoardState → Nat
  | .intact => 0
  | .partCut => 1
  | .cutting => 2
  | .free => 3
  | .picking => 4
  | .held => 5
  | .placing => 6
  | .discarding => 7
  | .stacked => 8
  | .scrapped => 9
  | .left => 10
  | .lost => 11
  | .uncertain => 12

/-- The board state a code names. -/
def BoardState.ofCode : Nat → Option BoardState
  | 0 => some .intact
  | 1 => some .partCut
  | 2 => some .cutting
  | 3 => some .free
  | 4 => some .picking
  | 5 => some .held
  | 6 => some .placing
  | 7 => some .discarding
  | 8 => some .stacked
  | 9 => some .scrapped
  | 10 => some .left
  | 11 => some .lost
  | 12 => some .uncertain
  | _ => none

/-- The grade a code names; 3 names none (R198). -/
def Grade.ofCode : Nat → Option Grade
  | 0 => some .good
  | 1 => some .xout
  | 2 => some .reject
  | _ => none

/-- The code of a last cause. -/
def LastCause.code : LastCause → Nat
  | .expired => 1
  | .skipped => 2
  | .disputed => 3
  | .memory => 4
  | .cleared => 5
  | .collision => 6
  | .stationChanged => 7
  | .dropped => 8
  | .resolved => 9

/-- The last cause a code names. -/
def LastCause.ofCode : Nat → Option LastCause
  | 1 => some .expired
  | 2 => some .skipped
  | 3 => some .disputed
  | 4 => some .memory
  | 5 => some .cleared
  | 6 => some .collision
  | 7 => some .stationChanged
  | 8 => some .dropped
  | 9 => some .resolved
  | _ => none

/-- The code of a result. -/
def Result.code : Result → Nat
  | .done => 0
  | .fail => 1
  | .abort => 2
  | .dropped => 3

/-- The result a two-bit code names. -/
def Result.ofCode : Nat → Result
  | 0 => .done
  | 1 => .fail
  | 2 => .abort
  | _ => .dropped

/-- The X-out policy a code names. -/
def XoutPolicy.ofCode : Nat → Option XoutPolicy
  | 0 => some .leave
  | 1 => some .sort
  | 2 => some .discard
  | _ => none

/-- The hold code of a two-bit code. -/
def HoldCode.ofCode : Nat → HoldCode
  | 0 => .locked
  | 1 => .cutOnly
  | 2 => .confirm
  | _ => .isOpen

/-- The code of a cup state. -/
def CupState.code : CupState → Nat
  | .empty => 0
  | .reserved => 1
  | .loaded => 2
  | .reservedOut => 3
  | .suspect => 4

/-- The code of a nest state. -/
def NestState.code : NestState → Nat
  | .empty => 0
  | .loading => 1
  | .illegal => 2
  | .active => 3
  | .stopping => 4
  | .stopped => 5
  | .complete => 6
  | .releasing => 7

/-- The code of an image status. -/
def ImageStatus.code : ImageStatus → Nat
  | .off => 0
  | .initial => 1
  | .dirty => 2
  | .clean => 3

/-- The code of a claim. -/
def Claim.code : Claim → Nat
  | .none => 0
  | .router => 1
  | .picker => 2

/-- The code of a nest load result. -/
def NestLoadResult.code : NestLoadResult → Nat
  | .none => 0
  | .ok => 1
  | .invalid => 2
  | .failed => 3

/-- The code of the last load result. -/
def LoadStatus.code : LoadStatus → Nat
  | .none => 0
  | .ok => 1
  | .invalid _ => 2
  | .notPermitted _ => 3
  | .incomplete _ => 4

/-- The section of the last load result, present for a refusal (R182). -/
def LoadStatus.sect : LoadStatus → Option Nat
  | .none => Option.none
  | .ok => Option.none
  | .invalid k => some k
  | .notPermitted k => some k
  | .incomplete k => some k

/-- The code of an entry state. -/
def EntryState.code : EntryState → Nat
  | .isOpen => 0
  | .half => 1
  | .expired _ => 2

/-- The expiry cause, present exactly while the entry is EXPIRED (R105). -/
def EntryState.cause : EntryState → Option ExpiryCause
  | .isOpen => none
  | .half => none
  | .expired c => some c

/-- The code of an expiry cause in the OCT image. -/
def ExpiryCause.code : ExpiryCause → Nat
  | .expired => 0
  | .skipped => 1
  | .disputed => 2
  | .memory => 3

/-- The cause under which a capture records an expiry (R170, R173). -/
def ExpiryCause.cause : ExpiryCause → Cause
  | .expired => .expired
  | .skipped => .skipped
  | .disputed => .disputed
  | .memory => .memory

/-- The last cause that an expiry gives its board (R27). -/
def ExpiryCause.lastCause : ExpiryCause → LastCause
  | .expired => .expired
  | .skipped => .skipped
  | .disputed => .disputed
  | .memory => .memory

/-- The command kind code of an entry. -/
def EntryKind.code : EntryKind → Nat
  | .cut => 1
  | .pick => 2
  | .place => 3
  | .discard => 4
  | .present => 5

/-- The code of a command ring. -/
def CmdRing.code : CmdRing → Nat
  | .router => 0
  | .picker => 1
  | .service => 2
  | .stacker => 3

/-- The code of a lane kind. -/
def LaneKind.code : LaneKind → Nat
  | .normal => 0
  | .reject => 1

/-- The code of a lane order. -/
def LaneOrder.code : LaneOrder → Nat
  | .up => 0
  | .down => 1

/-- The code of a lane state. -/
def LaneState.code : LaneState → Nat
  | .closed => 0
  | .isOpen => 1
  | .exhausted => 2
  | .paused => 3
  | .stopped => 4

/-- The code of a stop condition. -/
def StopCondition.code : StopCondition → Nat
  | .now => 0
  | .atStationEnd => 1

/-- The stop condition a code names (R151). -/
def StopCondition.ofCode : Nat → Option StopCondition
  | 0 => some .now
  | 1 => some .atStationEnd
  | _ => none

/-- The code of a stop notice. -/
def StopNotice.code : StopNotice → Nat
  | .atStop => 0
  | .atDrain => 1

/-- The stop notice a code names (R151). -/
def StopNotice.ofCode : Nat → Option StopNotice
  | 0 => some .atStop
  | 1 => some .atDrain
  | _ => none

/-- The code of a station state. -/
def StationState.code : StationState → Nat
  | .disabled => 0
  | .vacant => 1
  | .identifying => 2
  | .ready => 3
  | .filling => 4
  | .full => 5
  | .faulted _ => 6

/-- The fault cause, present exactly while the station is FAULTED (R130). -/
def StationState.fault : StationState → Option FaultCause
  | .faulted c => some c
  | .disabled | .vacant | .identifying | .ready | .filling | .full => none

/-- The code of a fault cause. -/
def FaultCause.code : FaultCause → Nat
  | .labelUnreadable => 0
  | .typeUnknown => 1
  | .typeNotAllowed => 2
  | .collision => 3

/-- The code of a slot state; 0 stands for no slot. -/
def SlotState.code : SlotState → Nat
  | .free => 1
  | .reserved => 2
  | .occupied => 3
  | .blocked => 4
  | .suspect => 5

/-- The code of a cause. -/
def Cause.code : Cause → Nat
  | .narrowWrite => 1
  | .imageWrite => 2
  | .reportForged => 3
  | .protectedField => 4
  | .badKind => 8
  | .ringOrder => 9
  | .slotInUse => 10
  | .nestEmpty => 16
  | .nestLoading => 17
  | .nestIllegal => 18
  | .nestStopped => 19
  | .nestComplete => 20
  | .nestReleasing => 21
  | .nestClaimed => 22
  | .positionRange => 23
  | .boardBusy => 32
  | .holdLocked => 33
  | .holdCutOnly => 34
  | .holdConfirm => 35
  | .xoutLeft => 36
  | .xoutDiscard => 37
  | .notFree => 38
  | .nothingToCut => 39
  | .spanInvalid => 40
  | .boardGone => 41
  | .boardUncertain => 42
  | .goodBoard => 43
  | .cupRange => 48
  | .cupEmpty => 49
  | .cupBusy => 50
  | .cupSuspect => 51
  | .laneMismatch => 56
  | .laneKind => 57
  | .laneClosed => 58
  | .lanePaused => 59
  | .laneStopped => 60
  | .laneExhausted => 61
  | .tableFull => 64
  | .stackerRingFull => 65
  | .serviceState => 72
  | .serviceRange => 73
  | .loadInvalid => 80
  | .loadNotPermitted => 81
  | .loadIncomplete => 82
  | .noEntry => 88
  | .late => 89
  | .kindMismatch => 90
  | .outOfSpan => 91
  | .arrivalConflict => 92
  | .stationDisabled => 93
  | .nothingToRemove => 94
  | .expired => 96
  | .skipped => 97
  | .disputed => 98
  | .memory => 99

/-- The code of an access kind. -/
def AccessKind.code : AccessKind → Nat
  | .read => 0
  | .write => 1

/-- A capture source's place in the order of R172. -/
def Source.idx : Source → Fin 4
  | .proc => 0
  | .router => 1
  | .picker => 2
  | .stacker => 3

/-- The capture source that a role bears (R3). -/
def Role.source : Role → Option Source
  | .proc => some .proc
  | .router => some .router
  | .picker => some .picker
  | .stacker => some .stacker
  | .plain => Option.none
  | .none => Option.none

/-! ### Kinds of ring records -/

/-- PRESENT, as a kind code. -/
def kindPresent : Nat := 5

/-- The kinds of physical commands that belong to a command ring (R77, R82). -/
inductive Physical where
  | cut | pick | place | discard
deriving DecidableEq, Repr

/-- The twelve service kinds (R157). -/
inductive ServiceKind where
  | nestStop | nestResume | nestSync | nestRelease | laneStop | laneResume | stationReset
  | slotSet | resolve | forget | cupClear | cellClear
deriving DecidableEq, Repr

/-- The report kinds (R115). -/
inductive ReportKind where
  | cutEnd | pickEnd | placeEnd | discardEnd | presentEnd | arrived | removed
deriving DecidableEq, Repr

/-- The physical kind that a code names on a command ring (R82). -/
def physicalKind (ring : CmdRing) (code : Nat) : Option Physical :=
  match ring, code with
  | .router, 1 => some .cut
  | .picker, 2 => some .pick
  | .picker, 3 => some .place
  | .picker, 4 => some .discard
  | _, _ => none

/-- The service kind that a code names (R158). -/
def serviceKind : Nat → Option ServiceKind
  | 16 => some .nestStop
  | 17 => some .nestResume
  | 18 => some .nestSync
  | 19 => some .nestRelease
  | 20 => some .laneStop
  | 21 => some .laneResume
  | 22 => some .stationReset
  | 23 => some .slotSet
  | 24 => some .resolve
  | 25 => some .forget
  | 26 => some .cupClear
  | 27 => some .cellClear
  | _ => none

/-- The report kind that a code names on a report ring (R115, R117). -/
def reportKind (ring : RepRing) (code : Nat) : Option ReportKind :=
  match ring, code with
  | .router, 33 => some .cutEnd
  | .picker, 34 => some .pickEnd
  | .picker, 35 => some .placeEnd
  | .picker, 36 => some .discardEnd
  | .stacker, 37 => some .presentEnd
  | .stacker, 48 => some .arrived
  | .stacker, 49 => some .removed
  | _, _ => none

/-- The command ring that a report ring answers (R115). -/
def RepRing.answers : RepRing → CmdRing
  | .router => .router
  | .picker => .picker
  | .stacker => .stacker

/-- The capture source of a report ring's owner (R3, R116). -/
def RepRing.source : RepRing → Source
  | .router => .router
  | .picker => .picker
  | .stacker => .stacker

/-- The role that owns a report ring (R11). -/
def RepRing.owner : RepRing → Role
  | .router => .router
  | .picker => .picker
  | .stacker => .stacker

/-- The report kind that answers an entry (R119). -/
def EntryKind.answeredBy : EntryKind → ReportKind
  | .cut => .cutEnd
  | .pick => .pickEnd
  | .place => .placeEnd
  | .present => .presentEnd
  | .discard => .discardEnd

/-! ### Word 0 of a ring record -/

/-- The mark of word 0. -/
def ringMark (w : Word) : Nat := bits w 0 2

/-- The TRIAL flag of word 0. -/
def ringTrial (w : Word) : Bool := bit w 2

/-- The kind code of word 0. -/
def ringKind (w : Word) : Nat := bits w 8 8

/-- The sequence of word 0. -/
def ringSequence (w : Word) : BitVec 8 := BitVec.ofNat 8 (bits w 16 8)

/-- The answered slot of a solicited report. -/
def ringAnswered (w : Word) : Nat := bits w 24 8

/-- The station of an ARRIVED or REMOVED. -/
def ringStation (w : Word) : Nat := bits w 32 4

/-- Word 0 with its mark changed and every other field as written (R78, R100). -/
def withMark (w : Word) (mark : Nat) : Word :=
  BitVec.ofNat 64 (w.toNat / 4 * 4 + mark % 4)

/-! ### Word 1 of commands -/

/-- Nest code of a command. -/
def cmdNest (w : Word) : Nat := bits w 0 2

/-- Entry index of a FORGET: six bits, so that an index above 31 can be written. -/
def cmdEntry (w : Word) : Nat := bits w 2 6

/-- Position of a command. -/
def cmdPosition (w : Word) : Nat := bits w 8 7

/-- Cup of a command. -/
def cmdCup (w : Word) : Nat := bits w 16 3

/-- Station of a service command. -/
def cmdStation (w : Word) : Nat := bits w 20 4

/-- Lane of a command; 31 is AUTO (R198). -/
def cmdLane (w : Word) : Nat := bits w 24 5

/-- AUTO, as a lane code. -/
def laneAuto : Nat := 31

/-- Written span of a CUT. -/
def cmdSpan (w : Word) : Span := ⟨bits w 32 4, bits w 40 4⟩

/-- Slot of a service command. -/
def cmdSlot (w : Word) : Nat := bits w 32 7

/-- Target code of a RESOLVE or SLOT_SET. -/
def cmdTarget (w : Word) : Nat := bits w 40 4

/-- Stop condition code of a NEST_STOP or LANE_STOP. -/
def cmdCondition (w : Word) : Nat := bits w 44 2

/-- Stop notice code of a LANE_STOP. -/
def cmdNotice (w : Word) : Nat := bits w 46 2

/-- Cut mask of a RESOLVE. -/
def cmdMask (w : Word) : BitVec 12 := BitVec.ofNat 12 (bits w 48 12)

/-! ### Words the part writes into ring records -/

/-- Word 2 of a CUT: the effective span. -/
def cutTranslation (sp : Span) : Word := pack [⟨0, 4, sp.first⟩, ⟨8, 4, sp.count⟩]

/-- Word 2 of a PLACE: station, slot and stacker ring slot. -/
def placeTranslation (station : Fin 8) (slot stackerSlot : Nat) : Word :=
  pack [⟨0, 3, station.val⟩, ⟨8, 7, slot⟩, ⟨16, 8, stackerSlot⟩]

/-- Word 3 with the verdict ADMITTED; the entry is absent for a service command (R158). -/
def verdictAdmitted (entry : Option (Fin 32)) (t : Time) : Word :=
  pack [⟨0, 3, 1⟩, ⟨4, 1, presence entry⟩, ⟨8, 5, valueOf entry Fin.val⟩, ⟨32, 32, t.toNat⟩]

/-- Word 3 with the verdict TRIED_OK, with station and slot for a PLACE (R100). -/
def verdictTried (dest : Option (Fin 8 × Nat)) (t : Time) : Word :=
  pack [⟨0, 3, 2⟩, ⟨3, 1, presence dest⟩, ⟨5, 3, valueOf dest fun d => d.1.val⟩,
    ⟨24, 7, valueOf dest fun d => d.2⟩, ⟨32, 32, t.toNat⟩]

/-- Word 3 with the verdict REFUSED (R84). -/
def verdictRefused (c : Cause) (t : Time) : Word :=
  pack [⟨0, 3, 3⟩, ⟨16, 8, c.code⟩, ⟨32, 32, t.toNat⟩]

/-- Word 3 of a report with the verdict APPLIED (R116). -/
def verdictApplied (t : Time) : Word := pack [⟨0, 3, 4⟩, ⟨32, 32, t.toNat⟩]

/-- Word 3 of a report with the verdict DISPUTED (R116). -/
def verdictDisputed (c : Cause) (t : Time) : Word :=
  pack [⟨0, 3, 5⟩, ⟨16, 8, c.code⟩, ⟨32, 32, t.toNat⟩]

/-- Word 0 of a PRESENT record, with a mark (R80, R96). -/
def presentWord0 (mark : Nat) (sequence : BitVec 8) : Word :=
  pack [⟨0, 2, mark⟩, ⟨8, 8, kindPresent⟩, ⟨16, 8, sequence.toNat⟩]

/-- Word 1 of a PRESENT record (R96). -/
def presentWord1 (station : Fin 8) (slot : Nat) (serial : BitVec 16) (pitch : Nat) : Word :=
  pack [⟨0, 3, station.val⟩, ⟨8, 7, slot⟩, ⟨16, 16, serial.toNat⟩, ⟨32, 4, pitch⟩]

/-- Word 2 of a PRESENT record (R96). -/
def presentWord2 (board : BoardRef) (pickerSlot : Nat) : Word :=
  pack [⟨0, 2, board.nest.code⟩, ⟨8, 7, board.pos⟩, ⟨16, 8, pickerSlot⟩]

/-! ### Report payloads -/

/-- Done count of a CUT_END. -/
def cutEndDone (w : Word) : Nat := bits w 0 4

/-- Whether the stop reason of a CUT_END is TOOL_FAULT. -/
def cutEndToolFault (w : Word) : Bool := bits w 8 2 == 1

/-- Result of a picker report. -/
def reportResult (w : Word) : Result := Result.ofCode (bits w 0 2)

/-- Observation of a PRESENT_END. -/
def presentEndObs (w : Word) : Observation :=
  ⟨bits w 0 8, bit w 8, BitVec.ofNat 16 (bits w 16 16)⟩

/-- Label of an ARRIVED. -/
def arrivedLabel (w : Word) : RawLabel :=
  ⟨BitVec.ofNat 8 (bits w 0 8), BitVec.ofNat 16 (bits w 8 16), BitVec.ofNat 8 (bits w 24 8),
    BitVec.ofNat 16 (bits w 32 16)⟩

/-! ### The board record -/

/-- A placement: station, slot and magazine serial (R22). -/
structure Placement where
  station : Fin 8
  slot    : Nat
  serial  : BitVec 16
deriving DecidableEq, Repr

/-- The fields of the hardware words 0, 2 and 3 of a board record (R22). -/
structure BoardHw where
  position  : Nat
  type      : Nat
  state     : BoardState
  tabs      : Nat
  cutMask   : BitVec 12
  untouched : Bool
  relocated : Bool
  cup       : Option (Fin 4)
  placement : Option Placement
  lastCause : Option LastCause
  time      : Time
deriving DecidableEq, Repr

/-- The fields of the hardware words of a record. A state code that names no state is read as
UNCERTAIN and a last cause that names none as absent (notes/assumptions/15.md). -/
def BoardWords.hw (b : BoardWords) : BoardHw where
  position := bits b.w0 0 7
  type := bits b.w0 8 6
  state := (BoardState.ofCode (bits b.w0 16 4)).getD .uncertain
  tabs := bits b.w0 20 4
  cutMask := BitVec.ofNat 12 (bits b.w0 24 12)
  untouched := bit b.w0 40
  relocated := bit b.w0 41
  cup := if bit b.w2 0 then asFin 4 (bits b.w2 1 2) else none
  placement :=
    if bit b.w2 8 then
      (asFin 8 (bits b.w2 9 3)).map fun st =>
        ⟨st, bits b.w2 16 7, BitVec.ofNat 16 (bits b.w2 32 16)⟩
    else none
  lastCause := if bit b.w3 0 then LastCause.ofCode (bits b.w3 8 4) else none
  time := BitVec.ofNat 32 (bits b.w3 32 32)

/-- Word 0 of a board record, written whole. -/
def BoardHw.word0 (h : BoardHw) : Word :=
  pack [⟨0, 7, h.position⟩, ⟨8, 6, h.type⟩, ⟨16, 4, h.state.code⟩, ⟨20, 4, h.tabs⟩,
    ⟨24, 12, h.cutMask.toNat⟩, ⟨40, 1, markOf h.untouched⟩, ⟨41, 1, markOf h.relocated⟩]

/-- Word 2 of a board record, written whole. -/
def BoardHw.word2 (h : BoardHw) : Word :=
  pack [⟨0, 1, presence h.cup⟩, ⟨1, 2, valueOf h.cup Fin.val⟩, ⟨8, 1, presence h.placement⟩,
    ⟨9, 3, valueOf h.placement fun p => p.station.val⟩,
    ⟨16, 7, valueOf h.placement fun p => p.slot⟩,
    ⟨32, 16, valueOf h.placement fun p => p.serial.toNat⟩]

/-- Word 3 of a board record, written whole. -/
def BoardHw.word3 (h : BoardHw) : Word :=
  pack [⟨0, 1, presence h.lastCause⟩, ⟨8, 4, valueOf h.lastCause LastCause.code⟩,
    ⟨32, 32, h.time.toNat⟩]

/-- A record with its hardware words written anew and word 1 as it stands (R49, R50). -/
def BoardWords.withHw (b : BoardWords) (h : BoardHw) : BoardWords :=
  ⟨h.word0, b.w1, h.word2, h.word3⟩

/-- The grade in word 1 (R32); code 3 is read as none (notes/assumptions/15.md). -/
def boardGrade (w1 : Word) : Option Grade := Grade.ofCode (bits w1 0 2)

/-- The hold override in word 1 (R33). -/
def boardHold (w1 : Word) : Option HoldCode :=
  if bit w1 8 then some (HoldCode.ofCode (bits w1 9 2)) else none

/-- The lane override in word 1 (R34); a value of 16 to 31 names no lane (R198). -/
def boardLane (w1 : Word) : Option Nat := if bit w1 16 then some (bits w1 17 5) else none

/-- A word 1 that R36 and R61 accept: a named grade, and no lane override of 16 or more. -/
def boardWord1Valid (w1 : Word) : Bool :=
  (boardGrade w1).isSome && (boardLane w1).all (· < 16)

/-- Whether tab `t` is in a cut mask. -/
def tabCut (mask : BitVec 12) (t : Nat) : Bool := mask.getLsbD t

/-- The mask that holds every tab of a tab count (R23). -/
def fullMask (tabs : Nat) : BitVec 12 := BitVec.ofNat 12 (2 ^ tabs - 1)

/-- A cut mask holds no index at or above the tab count (R23). -/
def maskWithin (mask : BitVec 12) (tabs : Nat) : Bool := mask.toNat < 2 ^ tabs

/-- The state derived from a cut mask: INTACT, PARTIAL or FREE; a board with no tabs is FREE (R24). -/
def derivedState (tabs : Nat) (mask : BitVec 12) : BoardState :=
  if mask = fullMask tabs then .free else if mask = 0 then .intact else .partCut

/-- STACKED, SCRAPPED, LEFT and LOST are terminal (R25). -/
def BoardState.terminal : BoardState → Bool
  | .stacked | .scrapped | .left | .lost => true
  | .intact | .partCut | .cutting | .free | .picking | .held | .placing | .discarding
  | .uncertain => false

/-- A type entry as a nest's type table holds it; every pattern names one (R60). -/
def typeEntryOf (w : Word) : TypeEntry :=
  ⟨bit w 0, Fin.ofNat 16 (bits w 8 4), HoldCode.ofCode (bits w 16 2)⟩

end Sys2Proof.Machine
end

