-- ==== Sys2Proof/Machine/Images.lean ====
section
/-! DEFINITION. The images (R76, R107, R155, R172, R182; 11_record_layouts.md, Images): where each
record lies in the Image Area and what words it holds, computed from the state as it stands. -/

namespace Sys2Proof.Machine

/-- The Nest Context of a nest (R58). -/
def State.nest (s : State) : Nest → NestContext
  | .a => s.nestA
  | .b => s.nestB

/-- A nest's number, as in the order A, B. -/
def Nest.idx : Nest → Nat
  | .a => 0
  | .b => 1

/-- Offset of an image record from the Image Area base. -/
def ImageId.offset : ImageId → Nat
  | .status => 0x000
  | .capture src => 0x100 + 32 * src.idx.val
  | .cup c => 0x180 + 16 * c.val
  | .nest n => 0x1C0 + 32 * n.idx
  | .entry i => 0x200 + 32 * i.val
  | .lane l => 0x600 + 32 * l.val
  | .station st => 0x800 + 64 * st.val

/-- A lane owes a drain notice while it is STOPPED with an AT_DRAIN request (R146). -/
def Lane.owesNotice (l : Lane) : Bool :=
  l.state == .stopped && l.stop.any fun q => q.notice == .atDrain

/-- The routing of S9 as one word (R181). -/
def routingWord (a b : BitVec 24) : Word := pack [⟨0, 24, a.toNat⟩, ⟨32, 24, b.toNat⟩]

/-- The status block (R182). -/
def statusImage (s : State) : List Word :=
  [ pack [⟨0, 1, markOf (s.mode == .guarded)⟩],
    pack [⟨0, 16, s.loadGen.toNat⟩, ⟨16, 4, s.loadStatus.code⟩,
      ⟨20, 1, presence s.loadStatus.sect⟩, ⟨24, 4, valueOf s.loadStatus.sect id⟩],
    pack [⟨0, 32, s.time.toNat⟩],
    pack [⟨0, 8, s.cursors.router⟩, ⟨8, 8, s.cursors.picker⟩, ⟨16, 8, s.cursors.service⟩,
      ⟨24, 8, s.cursors.stacker⟩],
    pack [⟨0, 24, s.flags.toNat⟩],
    0,
    routingWord s.routeA s.routeB,
    pack [⟨0, 1, presence s.lastGuard⟩, ⟨8, 4, valueOf s.lastGuard fun g => g.tag.val⟩,
      ⟨12, 1, valueOf s.lastGuard fun g => g.kind.code⟩],
    pack [⟨0, 32, valueOf s.lastGuard fun g => g.addr.toNat⟩] ] ++ List.replicate 23 0

/-- Word 0 of a capture record. -/
def captureWord0 (c : Capture) : Word :=
  pack [⟨0, 2, 1⟩, ⟨8, 8, c.cause.code⟩, ⟨16, 4, valueOf c.sect id⟩, ⟨20, 1, presence c.sect⟩,
    ⟨24, 4, valueOf c.cycle fun y => y.tag.val⟩, ⟨28, 1, valueOf c.cycle fun y => y.kind.code⟩,
    ⟨29, 1, presence c.cycle⟩]

/-- Word 2 of a capture record: the references. -/
def captureWord2 (r : Refs) : Word :=
  pack [⟨0, 1, presence r.nest⟩, ⟨1, 1, valueOf r.nest Nest.code⟩,
    ⟨8, 1, presence r.pos⟩, ⟨9, 7, valueOf r.pos id⟩,
    ⟨16, 1, presence r.cup⟩, ⟨17, 2, valueOf r.cup Fin.val⟩,
    ⟨20, 1, presence r.lane⟩, ⟨21, 4, valueOf r.lane Fin.val⟩,
    ⟨28, 1, presence r.station⟩, ⟨29, 3, valueOf r.station Fin.val⟩,
    ⟨32, 1, presence r.slot⟩, ⟨33, 7, valueOf r.slot id⟩,
    ⟨40, 1, presence r.entry⟩, ⟨41, 5, valueOf r.entry Fin.val⟩]

/-- A capture record (R172): an EMPTY capture has every field absent. -/
def captureImage : Option Capture → List Word
  | none => [0, 0, 0, 0]
  | some c =>
    [captureWord0 c, pack [⟨0, 32, valueOf c.cycle fun y => y.addr.toNat⟩], captureWord2 c.refs,
      pack [⟨32, 32, c.time.toNat⟩]]

/-- A cup record (R40). -/
def cupImage (c : Cup) : List Word :=
  [ pack [⟨0, 3, c.state.code⟩, ⟨8, 1, presence c.ref⟩, ⟨9, 1, valueOf c.ref fun b => b.nest.code⟩,
      ⟨16, 7, valueOf c.ref fun b => b.pos⟩], 0 ]

/-- A nest summary (R76). -/
def nestImage (c : NestContext) : List Word :=
  [ pack [⟨0, 4, c.state.code⟩, ⟨8, 2, c.status.code⟩, ⟨16, 2, c.claim.code⟩,
      ⟨24, 7, c.remaining⟩, ⟨32, 2, c.loadResult.code⟩, ⟨40, 1, presence c.firstBad⟩,
      ⟨48, 7, valueOf c.firstBad id⟩],
    pack [⟨0, 32, valueOf c.descriptor fun d => d.panelId.toNat⟩, ⟨32, 1, presence c.descriptor⟩],
    0, 0 ]

/-- The observation of a stored report, if it is a PRESENT_END. -/
def StoredReport.obs (r : StoredReport) : Option Observation :=
  match r.payload with
  | .placeEnd _ => none
  | .presentEnd o => some o

/-- The result of a stored report, if it is a PLACE_END. -/
def StoredReport.result (r : StoredReport) : Option Result :=
  match r.payload with
  | .placeEnd x => some x
  | .presentEnd _ => none

/-- Word 0 of an OCT entry record. -/
def entryWord0 (e : Entry) (isDue : Bool) : Word :=
  pack [⟨0, 1, 1⟩, ⟨1, 2, e.state.code⟩, ⟨3, 2, e.ring.code⟩, ⟨5, 1, markOf isDue⟩,
    ⟨6, 1, presence e.expiry⟩, ⟨7, 1, presence e.state.cause⟩, ⟨8, 4, e.kind.code⟩,
    ⟨12, 4, valueOf e.state.cause ExpiryCause.code⟩, ⟨16, 8, e.slot⟩, ⟨24, 8, e.sequence.toNat⟩,
    ⟨32, 1, e.board.nest.code⟩, ⟨33, 1, presence e.cup⟩, ⟨34, 2, valueOf e.cup Fin.val⟩,
    ⟨36, 1, presence e.span⟩, ⟨40, 7, e.board.pos⟩, ⟨48, 4, valueOf e.span fun x => x.first⟩,
    ⟨52, 4, valueOf e.span fun x => x.count⟩]

/-- Word 2 of an OCT entry record. -/
def entryWord2 (e : Entry) : Word :=
  pack [⟨0, 1, presence e.dest⟩, ⟨1, 3, valueOf e.dest fun d => d.station.val⟩,
    ⟨4, 4, valueOf e.dest fun d => d.lane.val⟩, ⟨8, 7, valueOf e.dest fun d => d.slot⟩,
    ⟨16, 8, valueOf e.dest fun d => d.generation.toNat⟩,
    ⟨24, 16, valueOf e.dest fun d => d.serial.toNat⟩,
    ⟨40, 1, presence e.partner⟩, ⟨41, 5, valueOf e.partner Fin.val⟩,
    ⟨48, 16, valueOf (e.stored.bind StoredReport.obs) fun o => o.serial.toNat⟩]

/-- Word 3 of an OCT entry record. -/
def entryWord3 (e : Entry) : Word :=
  pack [⟨0, 1, presence e.stored⟩, ⟨1, 1, presence (e.stored.bind StoredReport.obs)⟩,
    ⟨2, 2, valueOf (e.stored.bind StoredReport.result) Result.code⟩,
    ⟨4, 1, valueOf (e.stored.bind StoredReport.obs) fun o => markOf o.obstructed⟩,
    ⟨8, 8, valueOf e.stored fun r => r.ringSlot⟩,
    ⟨16, 8, valueOf (e.stored.bind StoredReport.obs) fun o => o.slot⟩,
    ⟨32, 32, valueOf e.stored fun r => r.time.toNat⟩]

/-- An OCT entry record; a free entry's is all zero (R107). -/
def entryImage (e : Option Entry) (isDue : Bool) : List Word :=
  match e with
  | none => [0, 0, 0, 0]
  | some e =>
    [entryWord0 e isDue,
      pack [⟨0, 32, e.admitted.toNat⟩, ⟨32, 32, valueOf e.expiry BitVec.toNat⟩],
      entryWord2 e, entryWord3 e]

/-- The station list of a lane as the fields of S5. -/
def listFields : Nat → List (Fin 8) → List Field
  | _, [] => []
  | i, st :: rest => ⟨8 + 4 * i, 4, st.val⟩ :: listFields (i + 1) rest

/-- A lane record (R155). -/
def laneImage (l : Lane) : List Word :=
  [ pack ([⟨0, 1, markOf l.enabled⟩, ⟨1, 1, l.kind.code⟩, ⟨2, 1, l.order.code⟩,
      ⟨4, 4, l.stations.length⟩] ++ listFields 0 l.stations),
    pack [⟨0, 3, l.state.code⟩, ⟨8, 3, l.current⟩, ⟨16, 6, l.pending⟩,
      ⟨24, 1, presence l.stop⟩, ⟨25, 1, valueOf l.stop fun q => q.condition.code⟩,
      ⟨26, 1, valueOf l.stop fun q => q.notice.code⟩, ⟨27, 1, markOf l.owesNotice⟩],
    0, 0 ]

/-- Sixteen slot positions of a station record from slot `16 * k` on. -/
def slotWord (slots : List SlotState) (k : Nat) : Word :=
  pack ((List.range 16).map fun j => ⟨4 * j, 4, valueOf slots[16 * k + j]? SlotState.code⟩)

/-- A station record (R155). -/
def stationImage (st : Station) : List Word :=
  let slots := (st.magazine.map fun m => m.slots).getD []
  [ pack [⟨0, 3, st.state.code⟩, ⟨4, 1, presence st.state.fault⟩,
      ⟨5, 2, valueOf st.state.fault FaultCause.code⟩, ⟨16, 16, st.mask.toNat⟩,
      ⟨32, 8, st.generation.toNat⟩, ⟨40, 3, st.attempts⟩],
    pack [⟨0, 1, presence st.magazine⟩, ⟨4, 4, valueOf st.magazine fun m => m.typeIndex.val⟩,
      ⟨8, 7, slots.length⟩, ⟨16, 4, valueOf st.magazine fun m => m.pitch⟩,
      ⟨20, 1, valueOf st.magazine fun m => markOf m.inhibited⟩,
      ⟨32, 16, valueOf st.magazine fun m => m.serial.toNat⟩],
    pack [⟨0, 1, presence st.label⟩, ⟨8, 8, valueOf st.label fun l => l.code.toNat⟩,
      ⟨16, 16, valueOf st.label fun l => l.serial.toNat⟩,
      ⟨32, 8, valueOf st.label fun l => l.inhibit.toNat⟩,
      ⟨40, 16, valueOf st.label fun l => l.check.toNat⟩],
    slotWord slots 0, slotWord slots 1, slotWord slots 2, slotWord slots 3, slotWord slots 4 ]

/-- The words of an image record, as the part holds its contents now (R182, R194). -/
def State.image (s : State) : ImageId → List Word
  | .status => statusImage s
  | .capture src => captureImage (s.captures.get src.idx)
  | .cup c => cupImage (s.cups.get c)
  | .nest n => nestImage (s.nest n)
  | .entry i => entryImage (s.entries.get i) (s.due.contains i)
  | .lane l => laneImage (s.lanes.get l)
  | .station st => stationImage (s.stations.get st)

/-- Every record of the full image but the status block, in the order of R194. -/
def fullImageRecords : List ImageId :=
  [.capture .proc, .capture .router, .capture .picker, .capture .stacker] ++
  (List.finRange 4).map .cup ++ [.nest .a, .nest .b] ++ (List.finRange 32).map .entry ++
  (List.finRange 16).map .lane ++ (List.finRange 8).map .station

end Sys2Proof.Machine
end

