-- ==== Sys2Proof/Machine/Ops.lean ====
section
/-! DEFINITION. The shared operations: cell memory, the image queue, a step in progress (`Run`), the
acknowledge, the Engine's arbiter, and the one place each register of the part is changed. -/

namespace Sys2Proof.Machine

/-! ### Cell memory -/

/-- The byte at an address (notes/assumptions/2.md). -/
def Memory.read (m : List Host.Cell) (a : Nat) : Byte :=
  match m with
  | [] => Config.unwrittenByte
  | c :: rest => if c.1 = a then c.2 else Memory.read rest a

/-- Memory with one byte written; a byte that equals what an unlisted address reads as is not
listed. -/
def Memory.write (m : List Host.Cell) (a : Nat) (b : Byte) : List Host.Cell :=
  match m with
  | [] => if b = Config.unwrittenByte then [] else [(a, b)]
  | c :: rest =>
    if a < c.1 then if b = Config.unwrittenByte then c :: rest else (a, b) :: c :: rest
    else if a = c.1 then if b = Config.unwrittenByte then rest else (a, b) :: rest
    else c :: Memory.write rest a b

/-- The canonical form: addresses strictly rising, and no entry equal to what an unlisted address
reads as. -/
abbrev Memory.wf (m : List Host.Cell) : Prop :=
  m.Pairwise (fun c d => c.1 < d.1) ∧ ∀ c ∈ m, c.2 ≠ Config.unwrittenByte

/-- Byte `k` of a word, little-endian. -/
def byteOf (w : Word) (k : Nat) : Byte := BitVec.ofNat 8 (w.toNat / 256 ^ k)

/-- `n` bytes from address `a` on, as a little-endian number. -/
def Memory.readNat (m : List Host.Cell) (a : Nat) : Nat → Nat
  | 0 => 0
  | n + 1 => (Memory.read m a).toNat + 256 * Memory.readNat m (a + 1) n

/-- The low `n` bytes of a word written from address `a` on, little-endian. -/
def Memory.writeBytes (m : List Host.Cell) (a : Nat) (w : Word) : Nat → List Host.Cell
  | 0 => m
  | n + 1 => Memory.write (Memory.writeBytes m a w n) (a + n) (byteOf w n)

/-- The word at an address. -/
def Memory.readWord (m : List Host.Cell) (a : Nat) : Word := BitVec.ofNat 64 (Memory.readNat m a 8)

/-- A list of words written from address `a` on. -/
def Memory.writeWords (m : List Host.Cell) (a : Nat) : List Word → List Host.Cell
  | [] => m
  | w :: ws => Memory.writeWords (Memory.writeBytes m a w 8) (a + 8) ws

/-- The bytes of a read, from the word they lie in: `size` bytes at offset `off` (R47). -/
def bytesOf (w : Word) (off size : Nat) : Word :=
  BitVec.ofNat 64 (w.toNat / 256 ^ off % 256 ^ size)

/-! ### The state, field by field -/

/-- A Nest Context replaced. -/
def State.withNest (s : State) (n : Nest) (c : NestContext) : State :=
  match n with
  | .a => { s with nestA := c }
  | .b => { s with nestB := c }

/-- Whether the part is in GUARDED mode (R4). -/
def State.guarded (s : State) : Bool := s.mode == .guarded

/-- An image write joins the queue, or meets the write of its record that waits there and leaves its
contents to it (R20). Nothing is queued in OPEN_PATH mode (R4). -/
def State.enqueue (s : State) (id : ImageId) : State :=
  if s.guarded && !s.images.contains id then { s with images := s.images ++ [id] } else s

/-- A cycle's acknowledge is given to its master (R2). -/
def State.acknowledge (s : State) (t : Tag) (a : Ack) (data : Option Word) : State :=
  { s with masters := s.masters.set t (.answered a data) }

/-! ### The Engine's arbiter (R18) -/

/-- The expiry position. -/
def expiryPosition : Fin 18 := 16

/-- The walker position. -/
def walkerPosition : Fin 18 := 17

/-- Whether a request waits at an arbiter position: a held write at its tag, an expiry request while
an entry is due (R110), a completion of the walker (R53). -/
def State.requestWaits (s : State) (p : Fin 18) : Bool :=
  match asFin 16 p.val with
  | some t => (s.requests.get t).isSome
  | none =>
    if p = expiryPosition then !s.due.isEmpty
    else match s.walker with
      | .waiting _ => true
      | .idle | .running _ => false

/-- The first waiting position after the one last served (R18). -/
def State.nextPosition (s : State) : Option (Fin 18) :=
  ((List.range 18).map fun k => Fin.ofNat 18 (s.lastServed.val + 1 + k)).find? s.requestWaits

/-- An idle Engine takes the next request at once; a busy one leaves requests waiting (R18). -/
def State.takeNext (s : State) : State :=
  match s.engine with
  | .idle =>
    match s.nextPosition with
    | some p => { s with engine := .serving p, lastServed := p }
    | none => s
  | .serving _ => s
  | .finishing _ => s

/-- The held write that the Engine has in hand, with its tag. -/
def State.heldInHand (s : State) : Option (Tag × Request) :=
  match s.engine with
  | .serving p => (asFin 16 p.val).bind fun t => (s.requests.get t).map fun q => (t, q)
  | .idle => none
  | .finishing _ => none

/-- Whether the Engine has the request of the expiry or of the walker position in hand. -/
def State.serves (s : State) (p : Fin 18) : Bool := s.engine == .serving p

/-! ### Time (R108, R110) -/

/-- Whether an entry becomes due on the pulse that brings the counter to `now`. -/
def Entry.becomesDue (e : Entry) (now : Time) : Bool :=
  e.expiry == some now &&
    match e.state with
    | .isOpen | .half => true
    | .expired _ => false

/-- The entries that become due at `now`, in list order. -/
def State.newlyDue (s : State) (now : Time) : List (Fin 32) :=
  s.order.filter fun i =>
    !s.due.contains i && (s.entries.get i).any fun e => e.becomesDue now

/-- One TIMEBASE pulse: the counter rises by one, and the entries whose expiry time it reaches become
due, each with its image queued. -/
def State.tick (s : State) : State :=
  let now := s.time + 1
  let fresh := s.newlyDue now
  fresh.foldl (fun s i => s.enqueue (.entry i)) { s with time := now, due := s.due ++ fresh }

/-- A number of TIMEBASE pulses. -/
def State.ticks (s : State) : Nat → State
  | 0 => s
  | n + 1 => (s.ticks n).tick

/-! ### A step in progress -/

/-- An event that the Condition Unit takes into a capture (R172, R173). -/
structure Event where
  source : Source
  cause  : Cause
  sect   : Option Nat := none
  cycle  : Option CycleRef := none
  refs   : Refs := {}
deriving DecidableEq, Repr

/-- A step in progress: the state as it stands, memory's answers still to come, the image writes that
the step has collected, to be queued after its last downstream cycle and waited for by its acknowledge
(R80, R83, R183), and what is left for the end of the request: the stacker ring slots to be marked
EMPTY with their sequences (R80), the disputes and expiries to be handed to the Condition Unit (R116,
R113), and whether the lanes are to be re-evaluated (R144). -/
structure Run where
  st      : State
  answers : List MemAnswer
  images  : List ImageId
  empties : List (Nat × BitVec 8)
  events  : List Event
  lanes   : Bool

/-- A step begins. -/
def Run.start (s : State) (answers : List MemAnswer) : Run := ⟨s, answers, [], [], [], false⟩

/-- A change of the state that no image shows. -/
def Run.modify (r : Run) (f : State → State) : Run := { r with st := f r.st }

/-- An image write is collected, in GUARDED mode (R4, R183). -/
def Run.image (r : Run) (id : ImageId) : Run :=
  if r.st.guarded && !r.images.contains id then { r with images := r.images ++ [id] } else r

/-- The state with the collected image writes queued in order (R20, R80, R83). -/
def Run.queued (r : Run) : State := r.images.foldl State.enqueue r.st

/-- A Nest Context is replaced; its summary is queued if it changed (R76, R83). The requests that queue it in
any case ask for it themselves (R63, R72, R75, R95, R99, R111, R112, R127, R164;
notes/assumptions/27.md). -/
def Run.setNest (r : Run) (n : Nest) (c : NestContext) : Run :=
  if r.st.nest n = c then r else (r.modify fun s => s.withNest n c).image (.nest n)

/-- A cup is replaced; its record is queued if it changed (R40). -/
def Run.setCup (r : Run) (i : Fin 4) (c : Cup) : Run :=
  if r.st.cups.get i = c then r
  else (r.modify fun s => { s with cups := s.cups.set i c }).image (.cup i)

/-- A lane is replaced; its record is queued if it changed (R155). -/
def Run.setLane (r : Run) (i : Fin 16) (l : Lane) : Run :=
  if r.st.lanes.get i = l then r
  else (r.modify fun s => { s with lanes := s.lanes.set i l }).image (.lane i)

/-- The lanes are to be re-evaluated at the end of the request (R144). -/
def Run.touchLanes (r : Run) : Run := { r with lanes := true }

/-- A station is replaced; its record is queued if it changed, and the lanes are re-evaluated at the
end of the request (R144, R155). -/
def Run.setStation (r : Run) (i : Fin 8) (st : Station) : Run :=
  if r.st.stations.get i = st then r
  else
    ((r.modify fun s => { s with stations := s.stations.set i st }).image (.station i)).touchLanes

/-- An OCT entry is replaced; its record is queued (R107). -/
def Run.setEntry (r : Run) (i : Fin 32) (e : Option Entry) : Run :=
  (r.modify fun s => { s with entries := s.entries.set i e }).image (.entry i)

/-- Cursors are replaced; the status block is queued if one changed (R79). -/
def Run.setCursors (r : Run) (c : Cursors) : Run :=
  if r.st.cursors = c then r else (r.modify fun s => { s with cursors := c }).image .status

/-- The slot after a slot of a ring, from the last slot back to 0 (R79). -/
def Ring.after (ring : Ring) (k : Nat) : Nat := if k + 1 < ring.slots then k + 1 else 0

/-! ### Checks in order -/

/-- The cause of the first check of an ordered table that fails. -/
def firstFailing : List (Bool × Cause) → Option Cause
  | [] => none
  | (passes, cause) :: rest => if passes then firstFailing rest else some cause

/-- How a judgement ends: every check passed, refused with the references it reached (R84), or
abandoned for a downstream HARD (R102). -/
inductive Judged (α : Type) where
  | pass (x : α)
  | refuse (cause : Cause) (refs : Refs)
  | abandon

end Sys2Proof.Machine
end

