-- ==== Sys2Proof/Machine/Flags.lean ====
section
/-! DEFINITION. The Condition Unit (R170 to R182): the 24 condition flags, the captures with their
escalation, the last-guard record and the condition lines. -/

namespace Sys2Proof.Machine

/-! ### Condition flags (R177) -/

/-- The 24 condition flags by name. -/
inductive Flag where
  | capture (source : Source)
  | hard (source : Source)
  | guard
  | memory
  | loadDone
  | nestReady (n : Nest)
  | nestStopped (n : Nest)
  | nestComplete (n : Nest)
  | nestSynced (n : Nest)
  | laneStopped
  | laneExhausted
  | stationChange
  | relocated
  | uncertain
deriving DecidableEq, Repr

/-- The number of a flag in the table of R177. -/
def Flag.number : Flag → Nat
  | .capture src => src.idx.val
  | .hard src => 4 + src.idx.val
  | .guard => 8
  | .memory => 9
  | .loadDone => 10
  | .nestReady n => 11 + n.idx
  | .nestStopped n => 13 + n.idx
  | .nestComplete n => 15 + n.idx
  | .nestSynced n => 17 + n.idx
  | .laneStopped => 19
  | .laneExhausted => 20
  | .stationChange => 21
  | .relocated => 22
  | .uncertain => 23

/-- The set that holds one flag. -/
def Flag.bits (f : Flag) : BitVec 24 := BitVec.twoPow 24 f.number

/-- Whether a flag is set. -/
def State.flag (s : State) (f : Flag) : Bool := s.flags.getLsbD f.number

/-- A flag is raised: set, with the status block queued, if it was clear; nothing otherwise, and
nothing in OPEN_PATH mode (R177). -/
def Run.raise (r : Run) (f : Flag) : Run :=
  if r.st.guarded && !r.st.flag f then
    (r.modify fun s => { s with flags := s.flags ||| f.bits }).image .status
  else r

/-- A flag is raised outside a request, and the image this calls for is queued (R20, R180). -/
def State.raise (s : State) (f : Flag) : State := ((Run.start s []).raise f).queued

/-- The flags that a flag-clear write clears: those of 4-23 whose bit it carries (R179). -/
def clearable (data : Word) : BitVec 24 := BitVec.ofNat 24 data.toNat &&& 0xFFFFF0#24

/-! ### Captures (R172 to R175) -/

/-- The capture of a source. -/
def State.captureOf (s : State) (src : Source) : Option Capture := s.captures.get src.idx

/-- An event fills its source's capture, which was EMPTY (R173). -/
def Run.fillCapture (r : Run) (ev : Event) : Run :=
  let c : Capture := ⟨ev.cause, ev.sect, ev.cycle, ev.refs, r.st.time⟩
  (((r.modify fun s =>
    { s with captures := s.captures.set ev.source.idx (some c) }).image
      (.capture ev.source)).raise (.capture ev.source)).image .status

/-- A dispute or an expiry is handed to the Condition Unit: it fills an EMPTY capture and leaves a
HELD one as it is (R113, R116, R173). -/
def Run.noteEvent (r : Run) (ev : Event) : Run :=
  if r.st.guarded then
    match r.st.captureOf ev.source with
    | none => r.fillCapture ev
    | some _ => r
  else r

/-- A refusal is handed to the Condition Unit: SOFT without a capture in OPEN_PATH mode, SOFT with
the capture filled, or HARD with the source's HARD flag set while the capture is HELD (R171, R174). -/
def Run.refusal (r : Run) (ev : Event) : Ack × Run :=
  if r.st.guarded then
    match r.st.captureOf ev.source with
    | none => (.soft, r.fillCapture ev)
    | some _ => (.hard, (r.raise (.hard ev.source)).image .status)
  else (.soft, r)

/-- A guard refusal is taken: the last-guard record is replaced, GUARD is set and the status block is
queued (R14). -/
def Run.guardRefusal (r : Run) (g : GuardRecord) : Run :=
  ((r.modify fun s => { s with lastGuard := some g }).raise .guard).image .status

/-- A HELD capture is released: it becomes EMPTY and its flag clears (R176, R178). -/
def Run.releaseCapture (r : Run) (src : Source) : Run :=
  ((r.modify fun s =>
    { s with
      captures := s.captures.set src.idx none
      flags := s.flags &&& ~~~(Flag.capture src).bits }).image (.capture src)).image .status

/-! ### Condition lines (R181) -/

/-- LINE_A is asserted while a flag routed to it is set in the published flags. -/
def State.lineA (s : State) : Bool := s.published.flags &&& s.published.routeA != 0

/-- LINE_B is asserted while a flag routed to it is set in the published flags. -/
def State.lineB (s : State) : Bool := s.published.flags &&& s.published.routeB != 0

end Sys2Proof.Machine
end

