-- ==== Sys2Proof/Machine/Lines.lean ====
section
/-! DEFINITION. The entries of the Board Cache (R41 to R45): which one holds a board's record, which
may be a victim, and where a record lies in memory. -/

namespace Sys2Proof.Machine

/-! ### Entries -/

/-- The cache entry that holds a board's record (R41). -/
def State.lineOf (s : State) (b : BoardRef) : Option (Fin 64) :=
  s.cache.firstIndex fun l => l.any fun l => l.board == b

/-- The record that the cache holds for a board. -/
def State.cached (s : State) (b : BoardRef) : Option CacheLine :=
  (s.lineOf b).bind s.cache.get

/-- A cache entry replaced. -/
def State.setLine (s : State) (i : Fin 64) (l : Option CacheLine) : State :=
  { s with cache := s.cache.set i l }

/-- An entry becomes the most recent (R42). -/
def State.touch (s : State) (i : Fin 64) : State :=
  { s with recency := i :: s.recency.erase i }

/-- An entry becomes invalid and leaves the recency order (R42). -/
def State.invalidate (s : State) (i : Fin 64) : State :=
  { s.setLine i none with recency := s.recency.erase i }

/-- Whether an OCT entry in any state names a board (R26, R36). -/
def State.boardBusy (s : State) (b : BoardRef) : Bool :=
  s.entries.any fun e => e.any fun e => e.board == b

/-- A board is pinned while an OCT entry or a cup names it (R43). -/
def State.pinned (s : State) (b : BoardRef) : Bool :=
  s.boardBusy b || s.cups.any fun c => c.ref == some b

/-- Whether a valid entry may be taken as victim: not pinned, and no write-back in flight (R45). -/
def State.evictable (s : State) (i : Fin 64) : Bool :=
  (s.cache.get i).any fun l => !s.pinned l.board && !l.writeBack

/-- The victim of a fill: the lowest invalid entry, else the least recent that may be taken (R45). -/
def State.victim (s : State) : Option (Fin 64) :=
  match s.cache.firstIndex fun l => l.isNone with
  | some i => some i
  | none => s.recency.reverse.find? s.evictable

/-- The address of a board's record (R22, R59). -/
def State.boardAddr (s : State) (b : BoardRef) : Nat :=
  (((s.nest b.nest).descriptor.map fun d => d.tableBase.toNat).getD 0) + Config.recordSize * b.pos

/-- The three writes of a write-back, at the record's address (R51). -/
def BoardWords.writeBack (w : BoardWords) (a : Nat) : List (Nat × Word) :=
  [(a, w.w0), (a + 16, w.w2), (a + 24, w.w3)]

/-- The board count of a nest (R59). -/
def State.boardCount (s : State) (n : Nest) : Nat :=
  ((s.nest n).descriptor.map fun d => d.count).getD 0

/-- A nest is loaded while it is ACTIVE, STOPPING, STOPPED or COMPLETE (R58). -/
def NestState.loaded : NestState → Bool
  | .active | .stopping | .stopped | .complete => true
  | .empty | .loading | .illegal | .releasing => false

end Sys2Proof.Machine
end

