-- ==== Sys2Proof/WellFormed.lean ====
section
/-! DEFINITION. Which commands a master, memory or the part can produce at all: three checks on the
operands (R1, R55), which what goes on beside a request has to pass too. What a command does is
defined whether or not it is well formed. -/

namespace Sys2Proof

/-- A cycle is aligned when its address is a multiple of its size (R1). -/
def Cycle.aligned (c : Cycle) : Bool := c.addr.toNat % c.size.bytes == 0

/-- The write data are of the stated size: no bit stands above it (R1). -/
def Cycle.dataFits (c : Cycle) : Bool :=
  match c.op with
  | .read => true
  | .write d => d.toNat < 2 ^ (8 * c.size.bytes)

/-- What goes on beside a request is well formed when the data of an arriving write have the stated size,
and a port cycle takes up no more than the 64 cache entries there are. -/
def Meanwhile.wf : Meanwhile → Bool
  | .arrival c => c.dataFits
  | .portCycle v _ => v ≤ 64
  | .timebase => true
  | .jobStart => true
  | .jobEnd => true

/-- Everything that goes on beside a cycle of the Engine is well formed. -/
def MemAnswer.wf (a : MemAnswer) : Bool :=
  a.early.all Meanwhile.wf && a.late.all Meanwhile.wf && a.during.all Meanwhile.wf

/-- A command is well formed when the data of a write have the stated size, a MISALIGNED_CYCLE is
misaligned and the cycles of the other classified rows are not (a guard refusal may be either), a port
cycle takes up no more than the 64 cache entries there are, and what goes on beside a request is well
formed. -/
def Instr.wf : Instr → Bool
  | .misalignedCycle c => c.dataFits && !c.aligned
  | .passRead t a z => Cycle.aligned ⟨t, a, z, .read⟩
  | .boardTableRead t a z => Cycle.aligned ⟨t, a, z, .read⟩
  | .passWrite t a z d => Cycle.aligned ⟨t, a, z, .write d⟩ && Cycle.dataFits ⟨t, a, z, .write d⟩
  | .guardRefusal c => c.dataFits
  | .pathRefusal t a z d => Cycle.aligned ⟨t, a, z, .write d⟩ && Cycle.dataFits ⟨t, a, z, .write d⟩
  | .heldWrite t a z d => Cycle.aligned ⟨t, a, z, .write d⟩ && Cycle.dataFits ⟨t, a, z, .write d⟩
  | .portCycle v _ => v ≤ 64
  | .resetN => true
  | .timebase => true
  | .rootRecordLoad answers => answers.all MemAnswer.wf
  | .cut answers => answers.all MemAnswer.wf
  | .pick answers => answers.all MemAnswer.wf
  | .place answers => answers.all MemAnswer.wf
  | .discard answers => answers.all MemAnswer.wf
  | .trialCommand answers => answers.all MemAnswer.wf
  | .nestStop answers => answers.all MemAnswer.wf
  | .nestResume answers => answers.all MemAnswer.wf
  | .nestSync answers => answers.all MemAnswer.wf
  | .nestRelease answers => answers.all MemAnswer.wf
  | .laneStop answers => answers.all MemAnswer.wf
  | .laneResume answers => answers.all MemAnswer.wf
  | .stationReset answers => answers.all MemAnswer.wf
  | .slotSet answers => answers.all MemAnswer.wf
  | .resolve answers => answers.all MemAnswer.wf
  | .forget answers => answers.all MemAnswer.wf
  | .cupClear answers => answers.all MemAnswer.wf
  | .cellClear answers => answers.all MemAnswer.wf
  | .trialServiceCommand answers => answers.all MemAnswer.wf
  | .cutEnd answers => answers.all MemAnswer.wf
  | .pickEnd answers => answers.all MemAnswer.wf
  | .discardEnd answers => answers.all MemAnswer.wf
  | .placeEnd answers => answers.all MemAnswer.wf
  | .presentEnd answers => answers.all MemAnswer.wf
  | .arrived answers => answers.all MemAnswer.wf
  | .removed answers => answers.all MemAnswer.wf
  | .expiry => true
  | .pairExpiry => true
  | .captureRelease => true
  | .flagClear => true
  | .boardEdit answers => answers.all MemAnswer.wf
  | .walkerJobStart => true
  | .loadJobEnd => true
  | .syncJobEnd => true
  | .releaseJobEnd => true
  | .loadCompletion => true
  | .syncCompletion => true
  | .releaseCompletion => true
  | .badKindPost answers => answers.all MemAnswer.wf
  | .reportKindMismatch answers => answers.all MemAnswer.wf

end Sys2Proof
end

