-- ==== Sys2Proof/Machine/Classifier.lean ====
section
/-! DEFINITION. The Cycle Classifier (R1 to R17, R47, R48): the region map, the permission table, and
the seven commands that are a cycle on the master-side bus. What becomes of a cycle is the
Classifier's decision, whichever of the seven rows names it (notes/assumptions/6.md). -/

namespace Sys2Proof.Machine

/-! ### The region map (R5) -/

/-- The region of an address, with the word of its record. -/
inductive Region where
  | loadWord
  | rootBody
  | captureWord (source : Source)
  | flagClearWord
  | imageOther
  | command (ring : CmdRing) (slot word : Nat)
  | report (ring : RepRing) (word : Nat)
  | board (b : BoardRef) (word : Nat)
  | elsewhere
deriving DecidableEq, Repr

/-- The offset of an address in an extent, where it lies in it. -/
def offsetIn (base size a : Nat) : Option Nat :=
  if base ≤ a ∧ a < base + size then some (a - base) else none

/-- The size of a ring in bytes (R5). -/
def Ring.size (ring : Ring) : Nat := Config.recordSize * ring.slots

/-- The ring of a layout that a command ring has (R77). -/
def RingLayout.command (l : RingLayout) : CmdRing → Ring
  | .router => l.router
  | .picker => l.picker
  | .service => l.service
  | .stacker => l.stacker

/-- The ring of a layout that a report ring has (R115). -/
def RingLayout.report (l : RingLayout) : RepRing → Ring
  | .router => l.routerReport
  | .picker => l.pickerReport
  | .stacker => l.stackerReport

/-- The region of an offset in the Image Area (R8, 11_record_layouts.md). -/
def imageRegion (o : Nat) : Region :=
  if o / 8 = 0x028 / 8 then .flagClearWord
  else if o / 8 = 0x100 / 8 then .captureWord .proc
  else if o / 8 = 0x120 / 8 then .captureWord .router
  else if o / 8 = 0x140 / 8 then .captureWord .picker
  else if o / 8 = 0x160 / 8 then .captureWord .stacker
  else .imageOther

/-- The region of an address in a command ring. -/
def RingLayout.commandRegion (l : RingLayout) (a : Nat) (ring : CmdRing) : Option Region :=
  (offsetIn (l.command ring).base.toNat (l.command ring).size a).map fun o =>
    .command ring (o / 32) (o % 32 / 8)

/-- The region of an address in a report ring. -/
def RingLayout.reportRegion (l : RingLayout) (a : Nat) (ring : RepRing) : Option Region :=
  (offsetIn (l.report ring).base.toNat (l.report ring).size a).map fun o =>
    .report ring (o % 32 / 8)

/-- The region of an address in the board table of a nest that is not EMPTY. -/
def State.boardRegion (s : State) (a : Nat) (n : Nest) : Option Region :=
  if (s.nest n).state = .empty then none
  else (s.nest n).descriptor.bind fun d =>
    (offsetIn d.tableBase.toNat (Config.recordSize * d.count) a).map fun o =>
      .board ⟨n, o / 32⟩ (o % 32 / 8)

/-- The region of an address in the Root Record. -/
def rootRegion (a : Nat) : Option Region :=
  (offsetIn Config.rootBase Config.rootSize a).map fun o => if o < 8 then .loadWord else .rootBody

/-- The region of an address in the Image Area. -/
def State.imageAreaRegion (s : State) (a : Nat) : Option Region :=
  s.imageBase.bind fun b => (offsetIn b.toNat Config.imageSize a).map imageRegion

/-- The region of an address in one of the seven rings. -/
def State.ringRegion (s : State) (a : Nat) : Option Region :=
  s.rings.bind fun l =>
    ([CmdRing.router, .picker, .service, .stacker].findSome? (l.commandRegion a)).or
      ([RepRing.router, .picker, .stacker].findSome? (l.reportRegion a))

/-- The region of an address (R5). -/
def State.regionOf (s : State) (a : Addr) : Region :=
  ((rootRegion a.toNat).or ((s.imageAreaRegion a.toNat).or ((s.ringRegion a.toNat).or
    ((s.boardRegion a.toNat .a).or (s.boardRegion a.toNat .b))))).getD .elsewhere

/-! ### Permissions (R6 to R13) -/

/-- What the Classifier makes of a cycle: forwarded; a board read; held for the Engine; a SOFT refusal
through the capture rule; a guard refusal; or, in OPEN_PATH mode, an answer without a trace. -/
inductive Fate where
  | pass
  | boardRead (b : BoardRef) (word : Nat)
  | held (cls : RequestClass)
  | refused (cause : Cause)
  | guarded
  | plain (ack : Ack)
deriving DecidableEq, Repr

/-- A write of a word that the width rule governs: held when it is 8 bytes wide (R13). -/
def wide (size : Size) (f : Fate) : Fate := if size = .b8 then f else .refused .narrowWrite

/-- Whether an entry in use names a ring and slot (R9, R82). -/
def State.slotNamed (s : State) (ring : CmdRing) (slot : Nat) : Bool :=
  s.entries.any fun e => e.any fun e => e.ring == ring && e.slot == slot

/-- A write of a command ring's record that is not a post (R9). -/
def State.unlessNamed (s : State) (ring : CmdRing) (slot : Nat) : Fate :=
  if s.slotNamed ring slot then .refused .slotInUse else .pass

/-- The request class of a post on a command ring (R17). -/
def postClass (ring : CmdRing) : RequestClass :=
  match ring with
  | .service => .service
  | .router | .picker | .stacker => .admission ring

/-- A WRITE from a PROC tag in GUARDED mode (R7 to R13). -/
def State.procWrite (s : State) (size : Size) (data : Word) : Region → Fate
  | .loadWord => wide size (.held .load)
  | .rootBody => .pass
  | .captureWord src => wide size (.held (.captureRelease src))
  | .flagClearWord => wide size (.held .flagClear)
  | .imageOther => .refused .imageWrite
  | .command ring slot word =>
    if ring = .stacker then .guarded
    else if word = 0 then
      wide size (if ringMark data = markValid then .held (postClass ring) else s.unlessNamed ring slot)
    else s.unlessNamed ring slot
  | .report _ word =>
    if word = 0 then
      wide size (if ringMark data = markValid then .refused .reportForged else .pass)
    else .pass
  | .board b word => if word = 1 then wide size (.held (.boardEdit b)) else .refused .protectedField
  | .elsewhere => .pass

/-- A WRITE from a tag whose role is neither NONE nor PROC, in GUARDED mode (R7 to R13). -/
def otherWrite (role : Role) (size : Size) (data : Word) : Region → Fate
  | .report ring word =>
    if role = ring.owner then
      if word = 0 then
        wide size (if ringMark data = markValid then .held (.report ring) else .pass)
      else .pass
    else .guarded
  | .elsewhere => .pass
  | .loadWord | .rootBody | .captureWord _ | .flagClearWord | .imageOther | .command _ _ _
  | .board _ _ => .guarded

/-- The role of a tag in GUARDED mode (R3). -/
def State.roleOf (s : State) (t : Tag) : Role := (s.roles.map fun r => r.get t).getD .none

/-- What becomes of a cycle in GUARDED mode (R6 to R14). -/
def State.classifyGuarded (s : State) (c : Cycle) : Fate :=
  if s.roleOf c.tag = .none then .guarded
  else if !c.aligned then .guarded
  else match c.op with
    | .read =>
      match s.regionOf c.addr with
      | .board b word => .boardRead b word
      | .loadWord | .rootBody | .captureWord _ | .flagClearWord | .imageOther | .command _ _ _
      | .report _ _ | .elsewhere => .pass
    | .write d =>
      if s.roleOf c.tag = .proc then s.procWrite c.size d (s.regionOf c.addr)
      else otherWrite (s.roleOf c.tag) c.size d (s.regionOf c.addr)

/-- What becomes of a cycle in OPEN_PATH mode (R1, R4). -/
def classifyOpen (c : Cycle) : Fate :=
  if !c.aligned then .plain .hard
  else match c.op with
    | .read => .pass
    | .write _ =>
      if rootRegion c.addr.toNat = some .loadWord then
        if c.size = .b8 then .held .load else .plain .soft
      else .pass

/-- What becomes of a cycle when it arrives (R4, R5). -/
def State.classify (s : State) (c : Cycle) : Fate :=
  if s.guarded then s.classifyGuarded c else classifyOpen c

/-! ### The cycle goes its way -/

/-- The kind of a cycle (R1). -/
def cycleKind (c : Cycle) : AccessKind :=
  match c.op with
  | .read => .read
  | .write _ => .write

/-- The write data of a cycle; 0 for a READ. -/
def cycleData (c : Cycle) : Word :=
  match c.op with
  | .read => 0
  | .write d => d

/-- The capture source of a tag's role; PROC where a role has none, which does not arise (R3). -/
def State.sourceOf (s : State) (t : Tag) : Source := (s.roleOf t).source.getD .proc

/-- A word of a board record (R22). -/
def BoardWords.word (w : BoardWords) (k : Nat) : Word :=
  if k = 0 then w.w0 else if k = 1 then w.w1 else if k = 2 then w.w2 else w.w3

/-- A cycle joins the pass-through source (R16). -/
def State.forward (s : State) (c : Cycle) : State := { s with pass := s.pass.set c.tag (some c) }

/-- A READ of a board record: answered from the entry that holds it, or forwarded (R47, R48). -/
def State.readBoard (s : State) (c : Cycle) (b : BoardRef) (word : Nat) : State :=
  match s.cached b with
  | some l =>
    s.acknowledge c.tag .done
      (some (bytesOf (l.words.word word) (c.addr.toNat % 8) c.size.bytes))
  | none => s.forward c

/-- A held write becomes a request at the Engine's arbiter (R17, R18). -/
def State.hold (s : State) (c : Cycle) (cls : RequestClass) : State :=
  let role := if s.guarded then some (s.roleOf c.tag) else none
  State.takeNext { s with requests := s.requests.set c.tag (some ⟨c.addr, cycleData c, role, cls⟩) }

/-- The images of a refusal are queued, and the refused cycle's acknowledge waits for them (R14, R15,
R183). -/
def Run.awaitImages (r : Run) (t : Tag) (a : Ack) : State :=
  { r.queued with waits := r.st.waits ++ [⟨t, a, r.images⟩] }

/-- A guard refusal of a cycle (R14). -/
def State.refuseGuard (s : State) (c : Cycle) : State :=
  ((Run.start s []).guardRefusal ⟨c.addr, c.tag, cycleKind c⟩).awaitImages c.tag .hard

/-- A SOFT refusal of a write by the Classifier, through the capture rule (R15). -/
def State.refusePath (s : State) (c : Cycle) (cause : Cause) : State :=
  let out := (Run.start s []).refusal
    { source := s.sourceOf c.tag, cause := cause, cycle := some ⟨c.tag, cycleKind c, c.addr⟩ }
  out.2.awaitImages c.tag out.1

/-- A classified cycle goes its way. -/
def State.dispatch (s : State) (c : Cycle) : Fate → State
  | .pass => s.forward c
  | .boardRead b word => s.readBoard c b word
  | .held cls => s.hold c cls
  | .refused cause => s.refusePath c cause
  | .guarded => s.refuseGuard c
  | .plain a => s.acknowledge c.tag a none

/-- A cycle is taken: its master waits, and the Classifier settles what becomes of it (R1, R4, R5). -/
def State.takeCycle (s : State) (c : Cycle) : State :=
  let s := { s with masters := s.masters.set c.tag .waiting }
  s.dispatch c (s.classify c)

/-- A cycle arrives. A tag whose earlier cycle has no acknowledge yet has none outstanding by R1
(notes/assumptions/7.md). -/
def arrive (c : Cycle) (s : State) : Host.Outcome State Fault Refusal :=
  if s.masters.get c.tag = .waiting then .fault (.tagOutstanding c.tag) else .next (s.takeCycle c)

/-! ### The commands -/

/-- MISALIGNED_CYCLE (R1): answered HARD, in GUARDED mode as a guard refusal. -/
def execMisalignedCycle (c : Cycle) (s : State) : Host.Outcome State Fault Refusal := arrive c s

/-- PASS_READ (R6, R16). -/
def execPassRead (tag : Tag) (addr : Addr) (size : Size) (s : State) :
    Host.Outcome State Fault Refusal := arrive ⟨tag, addr, size, .read⟩ s

/-- BOARD_TABLE_READ (R47, R48). -/
def execBoardTableRead (tag : Tag) (addr : Addr) (size : Size) (s : State) :
    Host.Outcome State Fault Refusal := arrive ⟨tag, addr, size, .read⟩ s

/-- PASS_WRITE (R4, R16). -/
def execPassWrite (tag : Tag) (addr : Addr) (size : Size) (data : Word) (s : State) :
    Host.Outcome State Fault Refusal := arrive ⟨tag, addr, size, .write data⟩ s

/-- GUARD_REFUSAL (R14). -/
def execGuardRefusal (c : Cycle) (s : State) : Host.Outcome State Fault Refusal := arrive c s

/-- PATH_REFUSAL (R15). -/
def execPathRefusal (tag : Tag) (addr : Addr) (size : Size) (data : Word) (s : State) :
    Host.Outcome State Fault Refusal := arrive ⟨tag, addr, size, .write data⟩ s

/-- HELD_WRITE (R17). -/
def execHeldWrite (tag : Tag) (addr : Addr) (size : Size) (data : Word) (s : State) :
    Host.Outcome State Fault Refusal := arrive ⟨tag, addr, size, .write data⟩ s

end Sys2Proof.Machine
end

