-- ==== Sys2Proof/Machine/Walker.lean ====
section
/-! DEFINITION. The background walker (R52 to R57, R60 to R62): its jobs, its downstream cycles, and
the start and end of a job. -/

namespace Sys2Proof.Machine

/-- The nest a job serves (R52). -/
def Job.nest : Job → Nest
  | .load n _ => n
  | .sync n => n
  | .release n => n

/-! ### A load job's work (R54, R61, R62) -/

/-- The checks of a record at a position, in the order of R61. -/
def recordValid (types : Table 64 TypeEntry) (pos : Nat) (w : BoardWords) : Bool :=
  let h := w.hw
  h.position == pos && (types.get (Fin.ofNat 64 h.type)).isDefined && decide (h.tabs ≤ 12) &&
    maskWithin h.cutMask h.tabs && boardWord1Valid w.w1

/-- The normalised hardware fields of a record (R62). -/
def BoardWords.normal (w : BoardWords) (policy : XoutPolicy) : BoardHw :=
  let h := w.hw
  { h with
    state := if boardGrade w.w1 = some .xout ∧ policy = .leave then .left
      else derivedState h.tabs h.cutMask
    untouched := true
    relocated := false
    cup := none
    placement := none
    lastCause := none }

/-- Whether every hardware field of a record is as another has it, whatever the names its codes have
(R62, notes/assumptions/15.md). -/
def BoardWords.sameFields (w v : BoardWords) : Bool :=
  w.hw == v.hw && bits w.w0 16 4 == bits v.w0 16 4 && bit w.w2 0 == bit v.w2 0 &&
    bit w.w2 8 == bit v.w2 8 && bit w.w3 0 == bit v.w3 0

/-- The running job is replaced. -/
def State.setJob (s : State) (j : RunningJob) : State := { s with walker := .running j }

/-- A load job has taken its position: it goes on to the next one, or ends (R54). A cancelled job ends
here. That the scan point stays at the last position when the job ends is the model's choice
(notes/assumptions/32.md). -/
def RunningJob.nextPosition (j : RunningJob) (d : Descriptor) (left : Bool) : RunningJob :=
  let counted := if left then j.counted else j.counted + 1
  if j.cancelled || decide (d.count ≤ j.scan + 1) then
    { j with counted := counted, phase := .ended .ok }
  else { j with counted := counted, scan := j.scan + 1, phase := .record [] }

/-- A load job has read the four words of a record: it judges and normalises them (R54, R61, R62). -/
def State.takeRecord (s : State) (j : RunningJob) (n : Nest) (d : Descriptor) (w : BoardWords) :
    State :=
  if recordValid (s.nest n).types j.scan w then
    let h := w.normal d.policy
    if w.sameFields (w.withHw h) then s.setJob (j.nextPosition d (h.state == .left))
    else s.setJob { j with phase := .storing 0 (w.withHw { h with time := s.time }) }
  else s.setJob { j with phase := .ended (.invalid j.scan) }

/-- A word of the type table has been read into the Type Store (R54, R60). -/
def State.takeType (s : State) (j : RunningJob) (n : Nest) (k : Nat) (w : Word) : State :=
  let c := s.nest n
  let s := s.withNest n { c with types := c.types.set (Fin.ofNat 64 k) (typeEntryOf w) }
  s.setJob { j with phase := if k + 1 < 64 then .types (k + 1) else .record [] }

/-- The address of the word that write `stored` of a write-back goes to, from the record's address:
words 0, 2 and 3 (R51). -/
def writeBackOffset (stored : Nat) : Nat := if stored = 0 then 0 else 8 * (stored + 1)

/-- The word that write `stored` of a write-back carries (R51). -/
def BoardWords.backWord (w : BoardWords) (stored : Nat) : Word :=
  if stored = 0 then w.w0 else if stored = 1 then w.w2 else w.w3

/-! ### A flush job's visits (R55 to R57) -/

/-- A dirty entry is taken up: a snapshot, dirty mark cleared, write-back mark set (R56, R57). -/
def State.startWriteBack (s : State) (j : RunningJob) (i : Fin 64) (l : CacheLine) : State :=
  (s.setLine i (some { l with dirty := false, writeBack := true })).setJob
    { j with phase := .flushing 0 l.board.pos l.words }

/-- The scan passes on to the next entry. -/
def RunningJob.passOn (j : RunningJob) : RunningJob := { j with scan := j.scan + 1, phase := .scanning }

/-- A clean entry of the job's nest is visited: a RELEASE job invalidates it (R56, R57). -/
def State.visitClean (s : State) (j : RunningJob) (i : Fin 64) : State :=
  match j.job with
  | .release _ => (s.invalidate i).setJob j.passOn
  | .sync _ | .load _ _ => s.setJob j.passOn

/-- One visit of a flush job that is between two visits (R55). -/
def State.visit (s : State) : State :=
  match s.walker with
  | .idle => s
  | .waiting _ => s
  | .running j =>
    match j.phase, asFin 64 j.scan with
    | .scanning, some i =>
      match s.cache.get i with
      | none => s.setJob j.passOn
      | some l =>
        if l.board.nest = j.job.nest then
          if l.dirty then s.startWriteBack j i l else s.visitClean j i
        else s.setJob j.passOn
    | _, _ => s

/-- A number of visits; a write-back in flight holds the scan (R55). -/
def State.scan (s : State) : Nat → State
  | 0 => s
  | n + 1 => s.visit.scan n

/-- The entry that a write-back was issued for, after the write-back: a SYNC job keeps it, dirty again
after a failure; a RELEASE job invalidates it (R56, R57). An entry whose mark is clear has meanwhile
been taken for another record by a fill of the Engine, and stays as it is (notes/assumptions/28.md). -/
def State.unmark (s : State) (job : Job) (i : Fin 64) (failed : Bool) : State :=
  match s.cache.get i with
  | none => s
  | some l =>
    if l.writeBack then
      match job with
      | .release _ => s.invalidate i
      | .sync _ | .load _ _ =>
        s.setLine i (some { l with dirty := l.dirty || failed, writeBack := false })
    else s

/-- A write-back has ended: its entry is unmarked, a failure is kept and counts against a SYNC job, and
the scan passes on (R56, R57). Of several failures in one job the latest is kept
(notes/assumptions/29.md). -/
def State.endWriteBack (s : State) (j : RunningJob) (failed : Bool) : State :=
  let s := match asFin 64 j.scan with
    | none => s
    | some i => s.unmark j.job i failed
  s.setJob
    { j.passOn with
      failure := if failed then some (.entry j.scan) else j.failure
      redirtied := match j.job with
        | .sync _ => j.redirtied || failed
        | .release _ | .load _ _ => j.redirtied }

/-! ### The walker at the port (R20, R53) -/

/-- Whether the walker has a cycle waiting. -/
def State.walkerPresents (s : State) : Bool :=
  match s.walker with
  | .idle => false
  | .waiting _ => false
  | .running j =>
    match j.phase with
    | .types _ | .record _ | .storing _ _ | .flushing _ _ _ => true
    | .scanning | .ended _ => false

/-- A load job's cycle has failed (R54). -/
def State.failLoad (s : State) (j : RunningJob) (pos : Option Nat) : State :=
  s.setJob
    { j with
      failure := some (match pos with
        | none => .typeTable
        | some p => .position p)
      phase := .ended (.failed pos) }

/-- A load job's cycle is answered. The addresses of the type table wrap in 32 bits
(notes/assumptions/18.md). -/
def State.loadCycle (s : State) (j : RunningJob) (n : Nest) (d : Descriptor) (hard : Bool) : State :=
  let a := d.tableBase.toNat + Config.recordSize * j.scan
  match j.phase with
  | .types k =>
    if hard then s.failLoad j none
    else
      s.takeType j n k
        (Memory.readWord s.mem ((d.typeBase.toNat + 8 * k) % Config.addressSpace))
  | .record ws =>
    if hard then s.failLoad j (some j.scan)
    else
      let ws := ws ++ [Memory.readWord s.mem (a + 8 * ws.length)]
      if ws.length < 4 then s.setJob { j with phase := .record ws }
      else s.takeRecord j n d ⟨ws.getD 0 0, ws.getD 1 0, ws.getD 2 0, ws.getD 3 0⟩
  | .storing k w =>
    if hard then s.failLoad j (some j.scan)
    else
      let s := { s with mem := Memory.writeBytes s.mem (a + writeBackOffset k) (w.backWord k) 8 }
      if k < 2 then s.setJob { j with phase := .storing (k + 1) w }
      else s.setJob (j.nextPosition d (w.hw.state == .left))
  | .scanning => s
  | .flushing _ _ _ => s
  | .ended _ => s

/-- A flush job's cycle is answered: one word of the write-back in flight (R51). -/
def State.flushCycle (s : State) (j : RunningJob) (hard : Bool) : State :=
  match j.phase with
  | .flushing k pos w =>
    if hard then s.endWriteBack j true
    else
      let a := s.boardAddr ⟨j.job.nest, pos⟩ + writeBackOffset k
      let s := { s with mem := Memory.writeBytes s.mem a (w.backWord k) 8 }
      if k < 2 then s.setJob { j with phase := .flushing (k + 1) pos w } else s.endWriteBack j false
  | .types _ => s
  | .record _ => s
  | .storing _ _ => s
  | .scanning => s
  | .ended _ => s

/-- The walker's cycle is granted and answered; a HARD raises MEMORY (R53, R180). -/
def State.grantWalker (s : State) (hard : Bool) : State :=
  match s.walker with
  | .idle => s
  | .waiting _ => s
  | .running j =>
    let s := match j.job with
      | .load n d => s.loadCycle j n d hard
      | .sync _ | .release _ => s.flushCycle j hard
    if hard then s.raise .memory else s

/-! ### The start and the end of a job (R53) -/

/-- A job as it starts (R53). -/
def Job.start (job : Job) : RunningJob where
  job := job
  scan := 0
  cancelled := false
  redirtied := false
  failure := none
  counted := 0
  phase := match job with
    | .load _ _ => .types 0
    | .sync _ | .release _ => .scanning

/-- An idle walker starts the oldest job (R53). -/
def State.startJob (s : State) : State :=
  match s.walker, s.jobs with
  | .idle, job :: rest => { s with walker := .running job.start, jobs := rest }
  | _, _ => s

/-- WALKER_JOB_START (R53). -/
def execWalkerJobStart (s : State) : Host.Outcome State Fault Refusal := .next s.startJob

/-- A LOAD job whose work has ended presents its completion; a cancelled one presents none (R54). -/
def State.endLoadJob (s : State) : State :=
  match s.walker with
  | .running j =>
    match j.job, j.phase with
    | .load n _, .ended result =>
      if j.cancelled then { s with walker := .idle }
      else State.takeNext { s with walker := .waiting (.load n result j.counted) }
    | _, _ => s
  | .idle | .waiting _ => s

/-- LOAD_JOB_END (R54). -/
def execLoadJobEnd (s : State) : Host.Outcome State Fault Refusal := .next s.endLoadJob

/-- A flush job whose scan has passed entry 63 (R55). -/
def RunningJob.scanEnded (j : RunningJob) : Bool := j.phase == .scanning && decide (64 ≤ j.scan)

/-- A SYNC job's scan takes up the entries that are left, and the job ends if none of them needs a
write-back (R56; notes/assumptions/9.md). -/
def State.endSyncJob (s : State) : State :=
  match (s.scan 64).walker with
  | .running j =>
    match j.job with
    | .sync n =>
      if j.scanEnded then
        State.takeNext
          { s.scan 64 with walker := .waiting (.sync n (!j.redirtied) j.failure.isSome) }
      else s
    | .load _ _ | .release _ => s
  | .idle | .waiting _ => s

/-- SYNC_JOB_END (R56). -/
def execSyncJobEnd (s : State) : Host.Outcome State Fault Refusal := .next s.endSyncJob

/-- A RELEASE job ends as a SYNC job does (R57). -/
def State.endReleaseJob (s : State) : State :=
  match (s.scan 64).walker with
  | .running j =>
    match j.job with
    | .release n =>
      if j.scanEnded then
        State.takeNext { s.scan 64 with walker := .waiting (.release n j.failure.isSome) }
      else s
    | .load _ _ | .sync _ => s
  | .idle | .waiting _ => s

/-- RELEASE_JOB_END (R57). -/
def execReleaseJobEnd (s : State) : Host.Outcome State Fault Refusal := .next s.endReleaseJob

/-- The walker's job ends, whichever kind it is, if its end is due (R54, R56, R57). -/
def State.endJob (s : State) : State := s.endLoadJob.endSyncJob.endReleaseJob

end Sys2Proof.Machine
end

