-- ==== Sys2Proof/Machine/Port.lean ====
section
/-! DEFINITION. The downstream port (R16, R20): its four sources in rotation, what a grant to each of
them does, and the command PORT_CYCLE. The Engine presents a cycle inside the step of a request only
(`Machine/Meanwhile.lean`). -/

namespace Sys2Proof.Machine

/-! ### Which cycle is granted -/

/-- The next tag of the pass-through source: the first waiting one after the last forwarded (R16). -/
def State.nextPass (s : State) : Option Tag :=
  ((List.range 16).map fun k => Fin.ofNat 16 (s.passLast.val + 1 + k)).find? fun t =>
    (s.pass.get t).isSome

/-- Whether a source has a cycle waiting; of the Engine the caller says it (R20). -/
def State.presents (s : State) (engine : Bool) : PortSource → Bool
  | .pass => s.nextPass.isSome
  | .engine => engine
  | .walker => s.walkerPresents
  | .image => !s.images.isEmpty

/-- The sources after one, in the rotation pass-through, Engine, walker, image (R20). -/
def PortSource.following : PortSource → List PortSource
  | .pass => [.engine, .walker, .image, .pass]
  | .engine => [.walker, .image, .pass, .engine]
  | .walker => [.image, .pass, .engine, .walker]
  | .image => [.pass, .engine, .walker, .image]

/-- The source that is granted: the first after the one last granted that has a cycle waiting (R20). -/
def State.granted (s : State) (engine : Bool) : Option PortSource :=
  s.portLast.following.find? (s.presents engine)

/-! ### A pass-through cycle (R16) -/

/-- What memory answers to a forwarded cycle that it does not answer HARD. -/
def cycleReply (c : Cycle) (mem : List Host.Cell) : Option Word :=
  match c.op with
  | .read => some (BitVec.ofNat 64 (Memory.readNat mem c.addr.toNat c.size.bytes))
  | .write _ => none

/-- What memory holds after a forwarded cycle that it does not answer HARD. -/
def cycleEffect (c : Cycle) (mem : List Host.Cell) : List Host.Cell :=
  match c.op with
  | .read => mem
  | .write d => Memory.writeBytes mem c.addr.toNat d c.size.bytes

/-- A forwarded cycle is granted, and memory's answer is passed up. -/
def State.grantPass (s : State) (hard : Bool) : State :=
  match s.nextPass with
  | none => s
  | some t =>
    match s.pass.get t with
    | none => s
    | some c =>
      let s := { s with pass := s.pass.set t none, passLast := t, portLast := .pass }
      if hard then s.acknowledge t .hard none
      else
        let answer := cycleReply c s.mem
        State.acknowledge { s with mem := cycleEffect c s.mem } t .done answer

/-! ### An image write (R20, R181 to R183) -/

/-- A wait with one image write fewer to come. -/
def Wait.without (w : Wait) (id : ImageId) : Wait := { w with images := w.images.erase id }

/-- The Classifier's waits after an image write has completed: those with no more to come are
acknowledged (R183). -/
def State.completeWaits (s : State) (id : ImageId) : State :=
  let left := s.waits.map fun w => w.without id
  let s := { s with waits := left.filter fun w => !w.images.isEmpty }
  (left.filter fun w => w.images.isEmpty).foldl (fun s w => s.acknowledge w.tag w.ack none) s

/-- The Engine's finished request after an image write has completed: with no more to come it is
acknowledged, and the Engine takes the next request (R18, R183). -/
def State.completeEngine (s : State) (id : ImageId) : State :=
  match s.engine with
  | .idle => s
  | .serving _ => s
  | .finishing w =>
    let w := w.without id
    if w.images.isEmpty then
      State.takeNext { s.acknowledge w.tag w.ack none with engine := .idle }
    else { s with engine := .finishing w }

/-- What the lines follow after an image write has completed (R181). -/
def State.publish (s : State) (id : ImageId) : State :=
  if id = .status then { s with published := ⟨s.flags, s.routeA, s.routeB⟩ } else s

/-- The oldest image write is granted: it carries the record as it stands now, at the base in force;
a HARD is not repeated and raises MEMORY; whoever waited for it goes on (R20, R181, R183). -/
def State.grantImage (s : State) (hard : Bool) : State :=
  match s.images with
  | [] => s
  | id :: rest =>
    let base := (s.imageBase.map BitVec.toNat).getD 0
    let mem := if hard then s.mem else Memory.writeWords s.mem (base + id.offset) (s.image id)
    let s := { s with images := rest, mem := mem, portLast := .image }
    let s := ((s.publish id).completeWaits id).completeEngine id
    if hard then s.raise .memory else s

/-! ### The command -/

/-- The granted source's cycle goes to memory (R20); the Engine's own is `State.await`. -/
def State.grant (s : State) (hard : Bool) : Option PortSource → State
  | none => s
  | some .pass => s.grantPass hard
  | some .engine => s
  | some .walker => State.grantWalker { s with portLast := .walker } hard
  | some .image => s.grantImage hard

/-- A flush job's scan goes on by `visits` entries, and the next source in rotation is granted while the
Engine presents a cycle or does not; a grant that is the Engine's own is not made here (R20). -/
def State.portCycle (s : State) (engine : Bool) (visits : Nat) (hard : Bool) : State :=
  let s := s.scan visits
  s.grant hard (s.granted engine)

/-- PORT_CYCLE (R20): between requests the Engine presents no cycle. -/
def execPortCycle (visits : Nat) (hard : Bool) (s : State) : Host.Outcome State Fault Refusal :=
  .next (s.portCycle false visits hard)

end Sys2Proof.Machine
end

