-- ==== Sys2Proof/Machine/Meanwhile.lean ====
section
/-! DEFINITION. What goes on in the part beside a request of the Engine, and how the Engine waits for
one of its own downstream cycles (R18, R20, R81, R186; notes/assumptions/4.md,
notes/assumptions/5.md). -/

namespace Sys2Proof.Machine

/-- How the Engine stands to the port in the course of one of its cycles: it does not present it yet, it
presents it, or the port has it in flight. -/
inductive EngineCycle where
  | quiet
  | presented
  | inFlight
deriving DecidableEq, Repr

/-- One thing that goes on beside a request. The port grants other sources while the Engine does not
present its cycle, grants them in rotation with it while it does, and none while the Engine's cycle is
in flight (R20). A cycle of a tag that has one outstanding does not arrive (R1,
notes/assumptions/7.md). -/
def State.meanwhile (e : EngineCycle) (s : State) : Meanwhile → State
  | .timebase => s.tick
  | .arrival c => if s.masters.get c.tag = .waiting then s else s.takeCycle c
  | .portCycle visits hard =>
    match e with
    | .quiet => s.portCycle false visits hard
    | .presented => s.portCycle true visits hard
    | .inFlight => s.scan visits
  | .jobStart => s.startJob
  | .jobEnd => s.endJob

/-- The grants to other sources that the rotation puts before the Engine's presented cycle, at most `n`
of them, each answered DONE (R20). -/
def State.yieldPort (s : State) : Nat → State
  | 0 => s
  | n + 1 =>
    match s.granted true with
    | none => s
    | some .engine => s
    | some src => (s.grant false (some src)).yieldPort n

/-- The Engine waits for one of its cycles: what goes on before it presents the cycle, what goes on until
the rotation comes to it, with at most three grants to other sources left, and what goes on while
memory has it (R20). -/
def State.await (s : State) (a : MemAnswer) : State :=
  let s := a.early.foldl (State.meanwhile .quiet) s
  let s := (a.late.foldl (State.meanwhile .presented) s).yieldPort 3
  a.during.foldl (State.meanwhile .inFlight) { s with portLast := .engine }

end Sys2Proof.Machine
end

