-- ==== Sys2Proof/Machine/Cycles.lean ====
section
/-! DEFINITION. The Engine's own downstream cycles (R19, R180): each takes memory's next answer; a
HARD raises MEMORY and ends the request that issued the cycle. -/

namespace Sys2Proof.Machine

/-- Memory's next answer; DONE, with nothing beside it, beyond the end of the list
(notes/assumptions/4.md). -/
def nextAnswer (answers : List MemAnswer) : MemAnswer := answers.headD { hard := false }

/-- One downstream cycle of the Engine is granted and answered, `true` for HARD. -/
def Run.cycle (r : Run) : Bool × Run :=
  ((nextAnswer r.answers).hard,
    { r with answers := r.answers.tail, st := r.st.await (nextAnswer r.answers) })

/-- A read of a word: none when memory answers HARD, which raises MEMORY (R180). -/
def Run.read (r : Run) (a : Nat) : Option Word × Run :=
  if r.cycle.1 then (none, r.cycle.2.raise .memory)
  else (some (Memory.readWord r.cycle.2.st.mem a), r.cycle.2)

/-- A write of a word: `false` when memory answers HARD, which raises MEMORY (R180); such a write
leaves memory as it was (notes/assumptions/3.md). -/
def Run.write (r : Run) (a : Nat) (w : Word) : Bool × Run :=
  if r.cycle.1 then (false, r.cycle.2.raise .memory)
  else (true, r.cycle.2.modify fun s => { s with mem := Memory.writeBytes s.mem a w 8 })

/-- Reads of `n` words from address `a` on, in order of address; none as soon as one is answered
HARD, the rest not issued. -/
def Run.reads (r : Run) (a : Nat) : Nat → Option (List Word) × Run
  | 0 => (some [], r)
  | n + 1 =>
    match r.read a with
    | (none, r') => (none, r')
    | (some w, r') =>
      match r'.reads (a + 8) n with
      | (none, r'') => (none, r'')
      | (some ws, r'') => (some (w :: ws), r'')

/-- Writes in order; `false` as soon as one is answered HARD, the rest not issued. -/
def Run.writes (r : Run) : List (Nat × Word) → Bool × Run
  | [] => (true, r)
  | (a, w) :: rest =>
    match r.write a w with
    | (false, r') => (false, r')
    | (true, r') => r'.writes rest

/-- A request goes on with the words it read, or is abandoned and answered HARD (R19, R102, R160). -/
def Run.reading (r : Run) (a n : Nat) (k : List Word → Run → Ack × Run) : Ack × Run :=
  match r.reads a n with
  | (none, r') => (.hard, r')
  | (some ws, r') => k ws r'

/-- A request goes on after its writes, or is abandoned and answered HARD (R19, R102, R160). -/
def Run.writing (r : Run) (ws : List (Nat × Word)) (k : Run → Ack × Run) : Ack × Run :=
  match r.writes ws with
  | (false, r') => (.hard, r')
  | (true, r') => k r'

/-- A word of a list of words read; zero beyond its end. -/
def wordAt (ws : List Word) (i : Nat) : Word := ws.getD i 0

end Sys2Proof.Machine
end

