-- ==== Sys2Proof/Machine/Cache.lean ====
section
/-! DEFINITION. The Board Cache as the Engine uses it (R44, R46, R51), the change of a board (R31,
R49), and the attributes that follow from a record (R33, R34). -/

namespace Sys2Proof.Machine

/-! ### Lookup and fill (R44, R46) -/

/-- The outcome of a lookup: the record, a failed fill, or none (R44). -/
inductive Lookup where
  | found (l : CacheLine)
  | failed
  | notCached
deriving DecidableEq, Repr

/-- The victim is written back if dirty, then becomes invalid: steps 1 and 2 of R46. -/
def Run.evict (r : Run) (i : Fin 64) : Bool × Run :=
  match r.st.cache.get i with
  | none => (true, r)
  | some l =>
    match r.writes (if l.dirty then l.words.writeBack (r.st.boardAddr l.board) else []) with
    | (false, r') => (false, r')
    | (true, r') => (true, r'.modify fun s => s.invalidate i)

/-- A fill (R46). -/
def Run.fill (r : Run) (b : BoardRef) : Lookup × Run :=
  match r.st.victim with
  | none => (.failed, r)
  | some i =>
    match r.evict i with
    | (false, r') => (.failed, r')
    | (true, r') =>
      match r'.reads (r'.st.boardAddr b) 4 with
      | (none, r'') => (.failed, r'')
      | (some ws, r'') =>
        let l : CacheLine := ⟨b, ⟨wordAt ws 0, wordAt ws 1, wordAt ws 2, wordAt ws 3⟩, false, false⟩
        (.found l, r''.modify fun s => (s.setLine i (some l)).touch i)

/-- An Engine lookup (R44). -/
def Run.lookup (r : Run) (b : BoardRef) : Lookup × Run :=
  match r.st.lineOf b with
  | some i =>
    match r.st.cache.get i with
    | some l => (.found l, r.modify fun s => s.touch i)
    | none => (.notCached, r)
  | none => if (r.st.nest b.nest).state.loaded then r.fill b else (.notCached, r)

/-! ### Changing a board (R31, R49) -/

/-- Whether an entry lies behind the scan of a running SYNC job of the nest, the entry in write-back
included, so that a change counts against the job (R49, R55, R56). -/
def State.behindSync (s : State) (n : Nest) (i : Fin 64) (l : CacheLine) : Bool :=
  match s.walker with
  | .running j => j.job == .sync n && (decide (i.val < j.scan) || l.writeBack)
  | .idle | .waiting _ => false

/-- The running job has an entry left dirty behind its scan (R52). -/
def State.redirty (s : State) : State :=
  match s.walker with
  | .running j => { s with walker := .running { j with redirtied := true } }
  | .idle | .waiting _ => s

/-- A board's record takes a change of its hardware fields: words 0, 2 and 3 are written anew with the
time of the change, the entry becomes dirty and most recent, the nest's image status becomes DIRTY,
and a SYNC job that has passed the entry is told. A change that leaves every field as it was is no
change (R31, R49, R56, R70). -/
def Run.changeBoard (r : Run) (b : BoardRef) (f : BoardHw → BoardHw) : Run :=
  match r.st.lineOf b with
  | none => r
  | some i =>
    match r.st.cache.get i with
    | none => r
    | some l =>
      let h := l.words.hw
      if f h = h then r
      else
        let words := l.words.withHw { f h with time := r.st.time }
        let r := r.modify fun s =>
          (s.setLine i (some { l with words := words, dirty := true })).touch i
        let r := if r.st.behindSync b.nest i l then r.modify State.redirty else r
        r.setNest b.nest { r.st.nest b.nest with status := .dirty }

/-! ### Effective attributes (R33, R34) -/

/-- The Type Store entry of a record's type (R60). -/
def State.typeOf (s : State) (l : CacheLine) : TypeEntry :=
  (s.nest l.board.nest).types.get (Fin.ofNat 64 l.words.hw.type)

/-- The effective hold code (R33). -/
def State.effectiveHold (s : State) (l : CacheLine) : HoldCode :=
  (boardHold l.words.w1).getD (s.typeOf l).hold

/-- A nest's X-out policy (R35). -/
def State.policy (s : State) (n : Nest) : Option XoutPolicy :=
  (s.nest n).descriptor.map fun d => d.policy

/-- Whether the board goes to its nest's reject lane (R34); one whose grade code names none does not
(notes/assumptions/15.md). -/
def State.toRejectLane (s : State) (l : CacheLine) : Bool :=
  boardGrade l.words.w1 == some .reject ||
    (boardGrade l.words.w1 == some .xout && s.policy l.board.nest == some .sort)

/-- The effective lane (R34). A lane override of 16 to 31, which only a record changed behind the part can
hold, names no lane; the model takes it modulo 16 (notes/assumptions/15.md). -/
def State.effectiveLane (s : State) (l : CacheLine) : Fin 16 :=
  if s.toRejectLane l then
    ((s.nest l.board.nest).descriptor.map fun d => d.rejectLane).getD 0
  else
    match boardLane l.words.w1 with
    | some n => Fin.ofNat 16 n
    | none => (s.typeOf l).lane

end Sys2Proof.Machine
end

