-- ==== Sys2Proof/Machine/Stacking.lean ====
section
/-! DEFINITION. The Stacking Map (07_lanes_stations_and_slots.md): slots and station states, lanes,
stops and re-evaluation, slot selection, label checks and generations. -/

namespace Sys2Proof.Machine

/-! ### Slots and stations (R138, R143) -/

/-- The slots of a station, none without a magazine (R130). -/
def Station.slots (st : Station) : List SlotState := (st.magazine.map fun m => m.slots).getD []

/-- A station that is READY, FILLING or FULL, whose state follows from its slots (R138). -/
def StationState.derives : StationState → Bool
  | .ready | .filling | .full => true
  | .disabled | .vacant | .identifying | .faulted _ => false

/-- The state that the slots give: READY, FULL or FILLING (R131, R138). -/
def slotsState (slots : List SlotState) : StationState :=
  if slots.all (· == .free) then .ready
  else if slots.all fun x => x != .free && x != .reserved then .full
  else .filling

/-- A station with new slots in its magazine, and its state derived from them (R138, R150). -/
def Station.withSlots (st : Station) (slots : List SlotState) : Station :=
  { st with
    state := if st.state.derives then slotsState slots else st.state
    magazine := st.magazine.map fun m => { m with slots := slots } }

/-- The slots of a station are changed; its state is derived, and STATION_CHANGE is raised when it
enters FULL (R138). -/
def Run.setSlots (r : Run) (i : Fin 8) (f : List SlotState → List SlotState) : Run :=
  let old := r.st.stations.get i
  let new := old.withSlots (f old.slots)
  let r := r.setStation i new
  if new.state == .full && old.state != .full then r.raise .stationChange else r

/-- A station is usable: READY or FILLING, not inhibited, with a FREE slot (R143). -/
def Station.usable (st : Station) : Bool :=
  (st.state == .ready || st.state == .filling) &&
    st.magazine.any fun m => !m.inhibited && m.slots.contains .free

/-- A magazine forgotten, by REMOVED or STATION_RESET: no magazine, no fault, no attempts, and VACANT
or DISABLED by the mask (R137, R153). -/
def Station.emptied (st : Station) : Station :=
  { st with
    magazine := none
    attempts := 0
    state := if st.mask = 0 then .disabled else .vacant }

/-- The pair of a destination is in place: its station holds a magazine, and the generation is the
pair's (R112, R136). -/
def State.inPlace (s : State) (d : Destination) : Bool :=
  let st := s.stations.get d.station
  st.magazine.isSome && st.generation == d.generation

/-! ### Lanes (R141 to R146) -/

/-- Whether the lane's current station is usable. -/
def State.currentUsable (s : State) (l : Lane) : Bool :=
  l.stations[l.current]?.any fun i => (s.stations.get i).usable

/-- Whether some station of the lane's list is usable. -/
def State.someUsable (s : State) (l : Lane) : Bool :=
  l.stations.any fun i => (s.stations.get i).usable

/-- A STOPPED lane's notice is looked at: under AT_STOP when it has just stopped, and under AT_DRAIN
while its pending pair count is 0, LANE_STOPPED is raised and the request is dropped (R146). -/
def Lane.announces (l : Lane) : Bool :=
  l.state == .stopped && l.stop.any fun q => q.notice == .atStop || l.pending == 0

/-- A lane is replaced, with its stop announced where that is due (R146). -/
def Run.announce (r : Run) (i : Fin 16) (l : Lane) : Run :=
  if l.announces then (r.setLane i { l with stop := none }).raise .laneStopped else r.setLane i l

/-- What re-evaluation makes of a lane, with whether it becomes EXHAUSTED (R144). -/
def State.judgeLane (s : State) (l : Lane) : Lane × Bool :=
  match l.state with
  | .isOpen =>
    if l.stop.any (fun q => q.condition == .atStationEnd) && !s.currentUsable l then
      ({ l with state := .stopped }, false)
    else if !s.someUsable l then ({ l with state := .exhausted }, true)
    else (l, false)
  | .exhausted => if s.someUsable l then ({ l with state := .isOpen }, false) else (l, false)
  | .closed | .paused | .stopped => (l, false)

/-- One lane is re-evaluated (R144). -/
def Run.reevaluateLane (r : Run) (i : Fin 16) : Run :=
  let old := r.st.lanes.get i
  let new := r.st.judgeLane old
  if new.1 = old then r
  else if new.2 then (r.setLane i new.1).raise .laneExhausted
  else r.announce i new.1

/-- Every lane is re-evaluated (R144). -/
def Run.reevaluate (r : Run) : Run := (List.finRange 16).foldl Run.reevaluateLane r

/-- A lane's pending pair count takes a new value, and its drain notice is checked (R145, R146). -/
def Run.setPending (r : Run) (i : Fin 16) (n : Nat) : Run :=
  r.announce i { r.st.lanes.get i with pending := n }

/-- A pair of the lane has ended its flight (R145); the lanes are re-evaluated at the end of the
request (R112, R127). -/
def Run.pairEnded (r : Run) (i : Fin 16) : Run :=
  (r.setPending i ((r.st.lanes.get i).pending - 1)).touchLanes

/-! ### Choosing a slot (R147, R148) -/

/-- What the selection returns (R147). -/
structure Selection where
  lane       : Fin 16
  index      : Nat
  station    : Fin 8
  slot       : Nat
  serial     : BitVec 16
  generation : BitVec 8
  pitch      : Nat
deriving DecidableEq, Repr

/-- The list positions in the order in which they are looked at: the current one, then those after it,
from the last round to the first (R147). -/
def Lane.positions (l : Lane) : List Nat :=
  (List.range l.stations.length).map fun k => (l.current + k) % l.stations.length

/-- The FREE slot a lane's order takes: the lowest under UP, the highest under DOWN (R147). -/
def freeSlot (order : LaneOrder) (slots : List SlotState) : Option Nat :=
  let free := (List.range slots.length).filter fun k => slots[k]? == some .free
  match order with
  | .up => free.head?
  | .down => free.getLast?

/-- The selection at one list position, if its station is usable. -/
def State.selectAt (s : State) (lane : Fin 16) (index : Nat) : Option Selection :=
  let l := s.lanes.get lane
  match l.stations[index]? with
  | none => none
  | some i =>
    let st := s.stations.get i
    if st.usable then
      match st.magazine, freeSlot l.order st.slots with
      | some m, some slot => some ⟨lane, index, i, slot, m.serial, st.generation, m.pitch⟩
      | _, _ => none
    else none

/-- The station and slot for a PLACE in a lane; an OPEN lane always has one (R147). -/
def State.select (s : State) (lane : Fin 16) : Option Selection :=
  (s.lanes.get lane).positions.findSome? (s.selectAt lane)

/-- A selection is taken into the map: current position, RESERVED slot, one more pending pair, and the
lanes to be re-evaluated (R148). -/
def Run.takeSelection (r : Run) (sel : Selection) : Run :=
  let l := r.st.lanes.get sel.lane
  let r := r.setLane sel.lane { l with current := sel.index, pending := l.pending + 1 }
  (r.setSlots sel.station fun slots => slots.set sel.slot .reserved).touchLanes

/-! ### Labels (R129, R133, R135, R136) -/

/-- The register shifted left by one place, with the generator pattern added when the outgoing bit is
one (R133). -/
def crcShift (reg : BitVec 16) : BitVec 16 :=
  if reg.getLsbD 15 then reg <<< 1 ^^^ 0x8005#16 else reg <<< 1

/-- One byte into the check register (R133). -/
def crcByte (reg : BitVec 16) (b : BitVec 8) : BitVec 16 :=
  crcShift (crcShift (crcShift (crcShift (crcShift (crcShift (crcShift (crcShift
    (reg ^^^ (b.zeroExtend 16 <<< 8)))))))))

/-- The check of a label: type code, serial high byte, serial low byte, inhibit byte (R133). -/
def RawLabel.crc (l : RawLabel) : BitVec 16 :=
  [l.code, (l.serial >>> 8).truncate 8, l.serial.truncate 8, l.inhibit].foldl crcByte 0

/-- The entries of the Magazine Type Table that match a code (R129). -/
def State.matching (s : State) (code : BitVec 8) : List (Fin 16) :=
  s.magTypes.indices fun m => m.isDefined && m.code == code

/-- The generations that entries in use record for a station (R136). -/
def State.generationHeld (s : State) (i : Fin 8) (g : BitVec 8) : Bool :=
  s.entries.any fun e => e.any fun e => e.dest.any fun d => d.station == i && d.generation == g

/-- The first of the next generations that no entry holds for the station (R136); 32 entries cannot
hold the 33 that are looked at. -/
def State.nextGeneration (s : State) (i : Fin 8) : BitVec 8 :=
  let g := (s.stations.get i).generation
  (((List.range 33).map fun k => g + BitVec.ofNat 8 (k + 1)).find? fun x =>
    !s.generationHeld i x).getD (g + 1)

/-- What a label does to a VACANT or IDENTIFYING station, and whether STATION_CHANGE is raised (R134,
R135). -/
def State.takeLabel (s : State) (i : Fin 8) (label : RawLabel) : Station × Bool :=
  let st : Station := { s.stations.get i with label := some label }
  if label.crc = label.check then
    let found := s.matching label.code
    match found.find? fun k => st.mask.getLsbD k.val with
    | some k =>
      let t := s.magTypes.get k
      ({ st with
          attempts := 0
          state := .ready
          generation := s.nextGeneration i
          magazine := some ⟨k, label.serial, t.pitch, label.inhibit != 0,
            List.replicate t.slotCount .free⟩ }, true)
    | none =>
      ({ st with
          attempts := 0
          state := .faulted (if found.isEmpty then .typeUnknown else .typeNotAllowed) }, true)
  else if st.attempts + 1 < 4 then
    ({ st with attempts := st.attempts + 1, state := .identifying }, false)
  else ({ st with attempts := 4, state := .faulted .labelUnreadable }, true)

end Sys2Proof.Machine
end

