-- ==== Sys2Proof/Machine/Oct.lean ====
section
/-! DEFINITION. The Open Command Table (R105 to R121), with the claim, drain and completion of a nest
that follow from it (R65 to R67): opening, expiring and removing entries. -/

namespace Sys2Proof.Machine

/-! ### What the entries say -/

/-- An entry awaits its report while it is OPEN, or HALF without a stored report (R105). -/
def Entry.awaits (e : Entry) : Bool :=
  match e.state with
  | .isOpen => true
  | .half => e.stored.isNone
  | .expired _ => false

/-- An entry in flight: OPEN or HALF (R26). -/
def Entry.inFlight (e : Entry) : Bool :=
  match e.state with
  | .isOpen | .half => true
  | .expired _ => false

/-- A pair's entry: PLACE or PRESENT (R105). -/
def EntryKind.ofPair : EntryKind → Bool
  | .place | .present => true
  | .cut | .pick | .discard => false

/-- An entry that counts towards the claim: CUT or PICK (R66). -/
def EntryKind.claims : EntryKind → Bool
  | .cut | .pick => true
  | .place | .present | .discard => false

/-- Whether an entry in use names a board of a nest (R67, R73). -/
def State.nestNamed (s : State) (n : Nest) : Bool :=
  s.entries.any fun e => e.any fun e => e.board.nest == n

/-- Whether an entry of a kind names a board of a nest (R66). -/
def State.kindNames (s : State) (k : EntryKind) (n : Nest) : Bool :=
  s.entries.any fun e => e.any fun e => e.kind == k && e.board.nest == n

/-- The free entries, lowest first (R85). -/
def State.freeEntries (s : State) : List (Fin 32) := s.entries.indices fun e => e.isNone

/-- The entries that name a board, in list order. -/
def State.entriesOf (s : State) (b : BoardRef) : List (Fin 32) :=
  s.order.filter fun i => (s.entries.get i).any fun e => e.board == b

/-- The entry that a report names by ring, slot and sequence (R117). -/
def State.entryNamed (s : State) (ring : CmdRing) (slot : Nat) (sequence : BitVec 8) :
    Option (Fin 32) :=
  s.entries.firstIndex fun e => e.any fun e =>
    e.ring == ring && e.slot == slot && e.sequence == sequence

/-! ### The nest: claim, count, drain (R65 to R67) -/

/-- The claim that the entries give a nest (R66). -/
def State.claimOf (s : State) (n : Nest) : Claim :=
  if s.kindNames .cut n then .router else if s.kindNames .pick n then .picker else .none

/-- The claim is re-evaluated (R66). -/
def Run.reclaim (r : Run) (n : Nest) : Run :=
  r.setNest n { r.st.nest n with claim := r.st.claimOf n }

/-- A nest that can complete: ACTIVE, STOPPING or STOPPED (R65). -/
def NestState.completes : NestState → Bool
  | .active | .stopping | .stopped => true
  | .empty | .loading | .illegal | .complete | .releasing => false

/-- A board of the nest has become terminal: the remaining count falls by one in a loaded nest, and the
nest becomes COMPLETE when it reaches 0 (R65). -/
def Run.boardEnded (r : Run) (n : Nest) : Run :=
  let c := r.st.nest n
  if c.state.loaded then
    if c.remaining - 1 = 0 && c.state.completes then
      (r.setNest n { c with remaining := 0, state := .complete }).raise (.nestComplete n)
    else r.setNest n { c with remaining := c.remaining - 1 }
  else r

/-- A STOPPING nest that no entry names becomes STOPPED (R67). -/
def Run.drainTest (r : Run) (n : Nest) : Run :=
  let c := r.st.nest n
  if c.state == .stopping && !r.st.nestNamed n then
    (r.setNest n { c with state := .stopped }).raise (.nestStopped n)
  else r

/-! ### Opening (R85, R106, R110) -/

/-- The expiry time of a command admitted at a time under a limit, absent for a limit of 0 (R85). -/
def expiryTime (admitted : Time) (limit : Nat) : Option Time :=
  if limit = 0 then none else some (admitted + BitVec.ofNat 32 limit)

/-- Whether an entry is due from its opening: the counter has advanced from the admission time by the
limit or more (R110). -/
def dueAtOpening (admitted now : Time) (limit : Nat) : Bool :=
  limit != 0 && decide (limit ≤ (now - admitted).toNat)

/-- An entry opens: it joins the list at the tail, and is due at once if its time has passed (R106,
R110). -/
def Run.openEntry (r : Run) (i : Fin 32) (e : Entry) (limit : Nat) : Run :=
  (r.modify fun s =>
    { s with
      order := s.order ++ [i]
      due := if dueAtOpening e.admitted s.time limit then s.due ++ [i] else s.due }).setEntry i
    (some { e with expiry := expiryTime e.admitted limit })

/-! ### Expiry (R111 to R113) -/

/-- An entry becomes EXPIRED and its due mark clears (R111). -/
def Run.markExpired (r : Run) (i : Fin 32) (e : Entry) (cause : ExpiryCause) : Run :=
  (r.modify fun s => { s with due := s.due.erase i }).setEntry i
    (some { e with state := .expired cause })

/-- A cup becomes SUSPECT and keeps its reference (R40, R111). -/
def Run.suspectCup (r : Run) (c : Option (Fin 4)) : Run :=
  match c with
  | none => r
  | some c => r.setCup c { r.st.cups.get c with state := .suspect }

/-- A board becomes UNCERTAIN with a last cause, its cup and placement fields absent (R27, R30). -/
def BoardHw.lostTrack (cause : LastCause) (h : BoardHw) : BoardHw :=
  { h with state := .uncertain, cup := none, placement := none, lastCause := some cause }

/-- An event is kept for the end of the request (R113, R116). -/
def Run.keepEvent (r : Run) (ev : Event) : Run := { r with events := r.events ++ [ev] }

/-- The references to a board. -/
def BoardRef.refs (b : BoardRef) : Refs := { nest := some b.nest, pos := some b.pos }

/-- The references of an entry: the board, the cup, and for a pair the lane, station and slot (R113,
R173). -/
def Entry.refs (e : Entry) (i : Fin 32) (cup : Option (Fin 4)) : Refs where
  nest := some e.board.nest
  pos := some e.board.pos
  cup := cup
  lane := e.dest.map fun d => d.lane
  station := e.dest.map fun d => d.station
  slot := e.dest.map fun d => d.slot
  entry := some i

/-- An entry of kind CUT, PICK or DISCARD expires, and the nest summary is queued (R111, R113). -/
def Run.expireSingle (r : Run) (i : Fin 32) (e : Entry) (cause : ExpiryCause) : Run :=
  let r := r.markExpired i e cause
  let r := r.suspectCup e.cup
  let r := r.changeBoard e.board (BoardHw.lostTrack cause.lastCause)
  let r := r.image (.nest e.board.nest)
  let source : Source := if e.kind == .cut then .router else .picker
  (r.raise .uncertain).keepEvent ⟨source, cause.cause, none, none, e.refs i e.cup⟩

/-- The other entry of a pair, where it is in use. -/
def State.partnerOf (s : State) (e : Entry) : Option (Fin 32 × Entry) :=
  e.partner.bind fun j => (s.entries.get j).map fun f => (j, f)

/-- The cup of a pair, which its PLACE entry names. -/
def State.pairCup (s : State) (e : Entry) : Option (Fin 4) :=
  if e.kind == .place then e.cup else (s.partnerOf e).bind fun p => p.2.cup

/-- The source whose report is missing when a pair expires: STACKER while the PLACE_END is stored, else
PICKER (R112). -/
def State.missingSource (s : State) (e : Entry) : Source :=
  let place := if e.kind == .place then some e else (s.partnerOf e).map fun p => p.2
  if place.any fun p => p.stored.isSome then .stacker else .picker

/-- A pair expires whole, through one of its entries, and the nest summary is queued (R112, R113). -/
def Run.expirePair (r : Run) (i : Fin 32) (e : Entry) (cause : ExpiryCause) : Run :=
  let cup := r.st.pairCup e
  let source := r.st.missingSource e
  let partner := r.st.partnerOf e
  let r := r.markExpired i e cause
  let r := match partner with
    | none => r
    | some (j, f) => r.markExpired j f cause
  let r := r.suspectCup cup
  let r := r.changeBoard e.board (BoardHw.lostTrack cause.lastCause)
  let r := r.image (.nest e.board.nest)
  let r := match e.dest with
    | none => r
    | some d =>
      let r := if r.st.inPlace d then r.setSlots d.station fun slots => slots.set d.slot .suspect
        else r
      r.pairEnded d.lane
  (r.raise .uncertain).keepEvent ⟨source, cause.cause, none, none, e.refs i cup⟩

/-- An entry expires by its kind (R111, R112). -/
def Run.expire (r : Run) (i : Fin 32) (cause : ExpiryCause) : Run :=
  match r.st.entries.get i with
  | none => r
  | some e => if e.kind.ofPair then r.expirePair i e cause else r.expireSingle i e cause

/-- Earlier entries of a ring that await their report, in list order (R120). -/
def State.skipped (s : State) (ring : CmdRing) (i : Fin 32) : List (Fin 32) :=
  (s.order.takeWhile fun j => j != i).filter fun j =>
    (s.entries.get j).any fun e => e.ring == ring && e.awaits

/-- The skips that a fitting report causes (R120). -/
def Run.skip (r : Run) (ring : CmdRing) (i : Fin 32) : Run :=
  (r.st.skipped ring i).foldl (fun r j => r.expire j .skipped) r

/-! ### Removal (R80, R121) -/

/-- One entry becomes free and leaves the list; the stacker ring slot of a PRESENT is to be marked
EMPTY (R80, R121). -/
def Run.freeEntry (r : Run) (i : Fin 32) : Run :=
  match r.st.entries.get i with
  | none => r
  | some e =>
    let r := r.modify fun s => { s with order := s.order.erase i, due := s.due.erase i }
    let r := if e.kind == .present then { r with empties := r.empties ++ [(e.slot, e.sequence)] }
      else r
    r.setEntry i none

/-- The nests of the CUT and PICK entries among some entries. -/
def State.claimedBy (s : State) (ids : List (Fin 32)) : List Nest :=
  [Nest.a, Nest.b].filter fun n =>
    ids.any fun i => (s.entries.get i).any fun e => e.kind.claims && e.board.nest == n

/-- Entries are removed, and the claims of their nests re-evaluated (R66, R121). -/
def Run.removeEntries (r : Run) (ids : List (Fin 32)) : Run :=
  let nests := r.st.claimedBy ids
  nests.foldl Run.reclaim (ids.foldl Run.freeEntry r)

/-- The address of a slot of a ring. -/
def Ring.slotAddr (ring : Ring) (slot : Nat) : Nat :=
  ring.base.toNat + Config.recordSize * slot

/-- The stacker command ring, at address 0 before the first load. -/
def State.stackerRing (s : State) : Ring := (s.rings.map fun l => l.stacker).getD ⟨0, 0⟩

/-- The EMPTY marks of removed PRESENT entries are written; a HARD raises MEMORY and the request goes
on (R80). -/
def Run.emptySlots (r : Run) : Run :=
  r.empties.foldl
    (fun r p => (r.write (r.st.stackerRing.slotAddr p.1) (presentWord0 0 p.2)).2)
    { r with empties := [] }

/-- The disputes and expiries of a request are handed to the Condition Unit in order (R113, R116). -/
def Run.handEvents (r : Run) : Run :=
  r.events.foldl Run.noteEvent { r with events := [] }

/-- The lanes are re-evaluated where the request calls for it (R144). -/
def Run.settleLanes (r : Run) : Run := if r.lanes then { r.reevaluate with lanes := false } else r

/-- The collected image writes are queued (R80, R83). -/
def Run.queueImages (r : Run) : Run := { r with st := r.queued }

/-- What every request ends with: the lanes, the EMPTY marks, the captures, and the images, which R80
puts after every downstream write of the request (R80, R83, R113, R116, R144). -/
def Run.conclude (r : Run) : Run := r.settleLanes.emptySlots.handEvents.queueImages

/-! ### Cups -/

/-- A cup becomes LOADED with the board (R40). -/
def loadedWith (b : BoardRef) : Cup := ⟨.loaded, some b⟩

/-- Every SUSPECT cup that names the board, other than one, loses its reference and stays SUSPECT (R38,
R164). -/
def Run.dropReferences (r : Run) (b : BoardRef) (but : Option (Fin 4)) : Run :=
  (List.finRange 4).foldl
    (fun r c =>
      let cup := r.st.cups.get c
      if cup.state == .suspect && cup.ref == some b && but != some c then
        r.setCup c ⟨.suspect, none⟩
      else r) r

/-- A cup comes to name a board: any SUSPECT cup that names it loses its reference (R38). -/
def Run.giveCup (r : Run) (c : Fin 4) (cup : Cup) (b : BoardRef) : Run :=
  (r.setCup c cup).dropReferences b (some c)

end Sys2Proof.Machine
end

