-- ==== Sys2Proof/Machine/Requests.lean ====
section
/-! DEFINITION. The frame of an Engine request (R17 to R19, R183): which request is in hand, and how it
ends with its acknowledge. -/

namespace Sys2Proof.Machine

/-- The Engine has ended a held write: its request leaves the arbiter, and its acknowledge is given
at once, or after the images the request collected (R183). -/
def Run.finishHeld (r : Run) (t : Tag) (a : Ack) : State :=
  let s := { r.st with requests := r.st.requests.set t none }
  if r.images.isEmpty then State.takeNext { s.acknowledge t a none with engine := .idle }
  else { s with engine := .finishing ⟨t, a, r.images⟩ }

/-- The Engine has ended an expiry or a walker completion, which no cycle waits for (R183). -/
def Run.finishInternal (r : Run) : State := State.takeNext { r.st with engine := .idle }

/-- A step of the Engine on the held write it has in hand: it happens if the request is of the row's
class and kind, and nothing happens otherwise (notes/assumptions/1.md). -/
def heldStep (isDue : Request → Bool) (serve : Tag → Request → Run → Ack × Run)
    (answers : List MemAnswer) (s : State) : Host.Outcome State Fault Refusal :=
  match s.heldInHand with
  | none => .next s
  | some (t, q) =>
    if isDue q then
      let out := serve t q (Run.start s answers)
      .next (out.2.conclude.finishHeld t out.1)
    else .next s

/-- A step of the Engine on the request of the expiry or walker position, if it has it in hand. -/
def internalStep (p : Fin 18) (serve : Run → Option Run) (s : State) :
    Host.Outcome State Fault Refusal :=
  if s.serves p then
    match serve (Run.start s []) with
    | none => .next s
    | some r => .next r.conclude.finishInternal
  else .next s

/-- The cycle a held write came from (R172, R173). -/
def Request.cycleRef (q : Request) (t : Tag) : CycleRef := ⟨t, .write, q.addr⟩

/-- The word at the request's address and at the three words after it. -/
def Request.word (q : Request) (k : Nat) : Nat := q.addr.toNat + 8 * k

end Sys2Proof.Machine
end

