-- ==== Sys2Proof/Machine/Conditions.lean ====
section
/-! DEFINITION. The held writes that carry no record: capture releases (R176), flag clears (R179) and
board edits (R36, R37). -/

namespace Sys2Proof.Machine

/-! ### Capture release (R176) -/

/-- A capture release: the state field EMPTY releases a HELD capture and leaves an EMPTY one; any other
is refused IMAGE_WRITE under the PROC source. -/
def serveRelease (src : Source) (t : Tag) (q : Request) (r : Run) : Ack × Run :=
  if ringMark q.data = 0 then
    match r.st.captureOf src with
    | none => (.done, r)
    | some _ => (.done, r.releaseCapture src)
  else r.refusal { source := .proc, cause := .imageWrite, cycle := some (q.cycleRef t) }

/-- The capture that a capture release names. -/
def RequestClass.released : RequestClass → Option Source
  | .captureRelease src => some src
  | .load | .admission _ | .service | .report _ | .flagClear | .boardEdit _ => none

/-- CAPTURE_RELEASE (R176). -/
def execCaptureRelease (s : State) : Host.Outcome State Fault Refusal :=
  heldStep (fun q => q.cls.released.isSome)
    (fun t q r => serveRelease (q.cls.released.getD .proc) t q r) [] s

/-! ### Flag clear (R179) -/

/-- A flag clear: the named flags of 4-23 are cleared; one that names no set flag changes nothing. -/
def serveFlagClear (_ : Tag) (q : Request) (r : Run) : Ack × Run :=
  if r.st.flags &&& clearable q.data = 0 then (.done, r)
  else
    (.done, (r.modify fun s => { s with flags := s.flags &&& ~~~clearable q.data }).image .status)

/-- FLAG_CLEAR (R179). -/
def execFlagClear (s : State) : Host.Outcome State Fault Refusal :=
  heldStep (fun q => q.cls == .flagClear) serveFlagClear [] s

/-! ### Board edit (R36, R37) -/

/-- The checks of a board edit (R36). -/
def State.editChecks (s : State) (b : BoardRef) (w1 : Word) : List (Bool × Cause) :=
  [ ((s.nest b.nest).state != .loading, .nestLoading),
    (!s.boardBusy b, .boardBusy),
    (boardWord1Valid w1, .serviceRange) ]

/-- Word 1 of the entry that holds a board's record is replaced, if one does (R37). -/
def State.replaceWord1 (s : State) (b : BoardRef) (w1 : Word) : State :=
  match s.lineOf b with
  | none => s
  | some i =>
    match s.cache.get i with
    | none => s
    | some l => s.setLine i (some { l with words := { l.words with w1 := w1 } })

/-- A board edit is judged, and forwarded and copied into the cache entry, or refused through the
capture rule (R36, R37). -/
def serveEdit (b : BoardRef) (t : Tag) (q : Request) (r : Run) : Ack × Run :=
  match firstFailing (r.st.editChecks b q.data) with
  | some cause =>
    r.refusal { source := .proc, cause := cause, cycle := some (q.cycleRef t), refs := b.refs }
  | none =>
    r.writing [(q.word 0, q.data)] fun r => (.done, r.modify fun s => s.replaceWord1 b q.data)

/-- The board that a board edit names. -/
def RequestClass.edited : RequestClass → Option BoardRef
  | .boardEdit b => some b
  | .load | .admission _ | .service | .report _ | .captureRelease _ | .flagClear => none

/-- BOARD_EDIT (R36, R37). -/
def execBoardEdit (answers : List MemAnswer) (s : State) : Host.Outcome State Fault Refusal :=
  heldStep (fun q => q.cls.edited.isSome)
    (fun t q r => serveEdit (q.cls.edited.getD ⟨.a, 0⟩) t q r) answers s

end Sys2Proof.Machine
end

