-- ==== Sys2Proof/Machine/Admission.lean ====
section
/-! DEFINITION. Command Admission (R77 to R104): the post of a record on a command ring, the judgement
and the effects of CUT, PICK, PLACE and DISCARD, TRIAL commands, and posts of a kind that is not the
ring's. -/

namespace Sys2Proof.Machine

/-! ### The post (R81 to R84, R158) -/

/-- The layout of a command ring; an empty one before the first load. -/
def State.ring (s : State) (ring : CmdRing) : Ring :=
  (s.rings.map fun l => l.command ring).getD ⟨0, 0⟩

/-- The cursor of a ring (R79). -/
def Cursors.get (c : Cursors) : CmdRing → Nat
  | .router => c.router
  | .picker => c.picker
  | .service => c.service
  | .stacker => c.stacker

/-- The cursors with one replaced. -/
def Cursors.set (c : Cursors) (ring : CmdRing) (k : Nat) : Cursors :=
  match ring with
  | .router => { c with router := k }
  | .picker => { c with picker := k }
  | .service => { c with service := k }
  | .stacker => { c with stacker := k }

/-- The cursor of a ring (R79). -/
def State.cursor (s : State) (ring : CmdRing) : Nat := s.cursors.get ring

/-- A ring's cursor advances to the next slot (R79). -/
def Run.advance (r : Run) (ring : CmdRing) : Run :=
  r.setCursors (r.st.cursors.set ring ((r.st.ring ring).after (r.st.cursor ring)))

/-- The slot of a ring that an address lies in, if any (R5, R195). -/
def Ring.slotOf (ring : Ring) (a : Nat) : Option Nat :=
  (offsetIn ring.base.toNat ring.size a).map fun o => o / 32

/-- Whether a kind code belongs to a command ring (R82). -/
def kindFits (ring : CmdRing) (code : Nat) : Bool :=
  match ring with
  | .service => (serviceKind code).isSome
  | .router | .picker | .stacker => (physicalKind ring code).isSome

/-- The checks of the common prefix that the Engine makes (R82). -/
def State.postChecks (s : State) (ring : CmdRing) (q : Request) : List (Bool × Cause) :=
  [ (kindFits ring (ringKind q.data), .badKind),
    ((s.ring ring).slotOf q.addr.toNat == some (s.cursor ring), .ringOrder),
    (!s.slotNamed ring (s.cursor ring), .slotInUse) ]

/-- A post is refused: the verdict is written, and the refusal goes through the PROC capture rule; a
TRIAL is answered SOFT without a capture (R84, R101, R159). -/
def refusePost (t : Tag) (q : Request) (cause : Cause) (refs : Refs) (r : Run) : Ack × Run :=
  r.writing [(q.word 3, verdictRefused cause r.st.time)] fun r =>
    if ringTrial q.data then (.soft, r)
    else r.refusal { source := .proc, cause := cause, cycle := some (q.cycleRef t), refs := refs }

/-- A post: words 1 to 3 are read, the prefix and the checks of the kind are judged, and the command is
granted, refused or abandoned (R81 to R84, R102, R158). -/
def servePost {α : Type} (ring : CmdRing) (judge : Word → Run → Judged α × Run)
    (grant : Request → α → Run → Ack × Run) (t : Tag) (q : Request) (r : Run) : Ack × Run :=
  r.reading (q.word 1) 3 fun ws r =>
    match firstFailing (r.st.postChecks ring q) with
    | some cause => refusePost t q cause {} r
    | none =>
      match judge (wordAt ws 0) r with
      | (.refuse cause refs, r) => refusePost t q cause refs r
      | (.abandon, r) => (.hard, r)
      | (.pass x, r) => grant q x r

/-- A passing TRIAL: its translation if it has one, the verdict TRIED_OK, word 0 forwarded with the mark
TRIED, and the cursor (R100, R159). -/
def grantTrial (ring : CmdRing) (translation : List (Nat × Word)) (dest : Option (Fin 8 × Nat))
    (q : Request) (r : Run) : Ack × Run :=
  r.writing
    (translation ++ [(q.word 3, verdictTried dest r.st.time), (q.word 0, withMark q.data markTried)])
    fun r => (.done, r.advance ring)

/-! ### Nest checks and the fetch of a board (R44, R86) -/

/-- The cause with which a nest's state refuses a CUT or a PICK; none when it is ACTIVE (R86). -/
def NestState.refusal : NestState → Option Cause
  | .empty => some .nestEmpty
  | .loading => some .nestLoading
  | .illegal => some .nestIllegal
  | .active => none
  | .stopping => some .nestStopped
  | .stopped => some .nestStopped
  | .complete => some .nestComplete
  | .releasing => some .nestReleasing

/-- The board that a CUT or PICK names, or the cause of the first nest check that fails (R86). -/
def State.nestChecks (s : State) (w1 : Word) : Except Cause BoardRef :=
  match Nest.ofCode (cmdNest w1) with
  | none => .error .positionRange
  | some n =>
    match (s.nest n).state.refusal with
    | some cause => .error cause
    | none =>
      if cmdPosition w1 < s.boardCount n then .ok ⟨n, cmdPosition w1⟩ else .error .positionRange

/-- The fetch of a board: the judgement goes on with its record; a failed fill abandons the command,
and a board that no entry holds in a nest that is not loaded is refused with the nest's cause (R44). -/
def fetch {α : Type} (b : BoardRef) (refs : Refs) (judge : CacheLine → Run → Judged α × Run)
    (r : Run) : Judged α × Run :=
  match r.lookup b with
  | (.found l, r) => judge l r
  | (.failed, r) => (.abandon, r)
  | (.notCached, r) => (.refuse ((r.st.nest b.nest).state.refusal.getD .nestEmpty) refs, r)

/-- A board that is gone from the nest or on its way (R87, R90). -/
def BoardState.gone : BoardState → Bool
  | .picking | .held | .placing | .discarding | .stacked | .scrapped | .lost => true
  | .intact | .partCut | .cutting | .free | .left | .uncertain => false

/-! ### CUT (R87 to R89) -/

/-- What an admitted CUT will do. -/
structure CutPlan where
  board : BoardRef
  span  : Span
  entry : Fin 32

/-- The uncut tabs of a written span (R88). -/
def uncutTabs (written : Span) (mask : BitVec 12) : List Nat :=
  ((List.range written.count).map fun k => written.first + k).filter fun t => !tabCut mask t

/-- The effective span: from the lowest uncut tab to the highest (R88). -/
def effectiveSpan (written : Span) (mask : BitVec 12) : Option Span :=
  match (uncutTabs written mask).head?, (uncutTabs written mask).getLast? with
  | some lo, some hi => some ⟨lo, hi - lo + 1⟩
  | _, _ => none

/-- The checks of a CUT up to its span (R87). -/
def State.cutChecks (s : State) (l : CacheLine) (written : Span) : List (Bool × Cause) :=
  let h := l.words.hw
  [ (!s.boardBusy l.board, .boardBusy),
    (s.effectiveHold l != .locked, .holdLocked),
    (h.state != .left, .xoutLeft),
    (h.state != .uncertain, .boardUncertain),
    (!h.state.gone, .boardGone),
    (h.state != .free, .nothingToCut),
    (decide (1 ≤ written.count) && decide (written.first + written.count ≤ h.tabs), .spanInvalid),
    ((effectiveSpan written h.cutMask).isSome, .nothingToCut),
    ((s.nest l.board.nest).claim != .picker, .nestClaimed),
    (!s.freeEntries.isEmpty, .tableFull) ]

/-- The judgement of a CUT (R86, R87). -/
def judgeCut (w1 : Word) (r : Run) : Judged CutPlan × Run :=
  match r.st.nestChecks w1 with
  | .error cause => (.refuse cause {}, r)
  | .ok b =>
    fetch b {} (fun l r =>
      match firstFailing (r.st.cutChecks l (cmdSpan w1)) with
      | some cause => (.refuse cause b.refs, r)
      | none =>
        match effectiveSpan (cmdSpan w1) l.words.hw.cutMask, r.st.freeEntries with
        | some span, i :: _ => (.pass ⟨b, span, i⟩, r)
        | _, _ => (.refuse .tableFull b.refs, r)) r

/-- The limit of a CUT (R85). -/
def Limits.cut (l : Limits) (span : Span) : Nat := l.cutBase + l.cutTab * span.count

/-- An entry as it opens, of one command of its own (R85). -/
def newEntry (ring : CmdRing) (slot : Nat) (sequence : BitVec 8) (kind : EntryKind) (b : BoardRef)
    (admitted : Time) : Entry where
  state := .isOpen
  ring := ring
  slot := slot
  sequence := sequence
  kind := kind
  board := b
  cup := none
  dest := none
  span := none
  partner := none
  admitted := admitted
  expiry := none
  stored := none

/-- The effects of an admitted CUT (R89). -/
def applyCut (q : Request) (p : CutPlan) (now : Time) (r : Run) : Run :=
  let e := { newEntry .router (r.st.cursor .router) (ringSequence q.data) .cut p.board now with
    span := some p.span }
  let r := r.openEntry p.entry e (r.st.limits.cut p.span)
  let r := r.changeBoard p.board fun h => { h with state := .cutting, untouched := false }
  (r.reclaim p.board.nest).advance .router

/-- The writes and effects of an admitted CUT (R83, R88, R89). -/
def grantCut (q : Request) (p : CutPlan) (r : Run) : Ack × Run :=
  let now := r.st.time
  r.writing
    [(q.word 2, cutTranslation p.span), (q.word 3, verdictAdmitted (some p.entry) now),
      (q.word 0, q.data)]
    fun r => (.done, applyCut q p now r)

/-- Whether a request is a post of a physical kind, with or without the TRIAL flag. -/
def isPost (kind : Physical) (ring : CmdRing) (trial : Bool) (q : Request) : Bool :=
  q.cls == .admission ring && physicalKind ring (ringKind q.data) == some kind &&
    ringTrial q.data == trial

/-- CUT (R87 to R89). -/
def execCut (answers : List MemAnswer) (s : State) : Host.Outcome State Fault Refusal :=
  heldStep (isPost .cut .router false) (servePost .router judgeCut grantCut) answers s

/-! ### PICK (R90, R91) -/

/-- What an admitted PICK will do. -/
structure PickPlan where
  board : BoardRef
  cup   : Fin 4
  entry : Fin 32

/-- The checks of a PICK before its cup (R90). -/
def State.pickChecks (s : State) (l : CacheLine) : List (Bool × Cause) :=
  let h := l.words.hw
  [ (!s.boardBusy l.board, .boardBusy),
    (s.effectiveHold l != .locked, .holdLocked),
    (s.effectiveHold l != .cutOnly, .holdCutOnly),
    (s.effectiveHold l != .confirm, .holdConfirm),
    (h.state != .left, .xoutLeft),
    (h.state != .uncertain, .boardUncertain),
    (!h.state.gone, .boardGone),
    (h.state != .intact && h.state != .partCut, .notFree) ]

/-- The cause with which a cup refuses a PICK (R39). -/
def CupState.pickRefusal : CupState → Option Cause
  | .empty => none
  | .reserved => some .cupBusy
  | .loaded => some .cupBusy
  | .reservedOut => some .cupBusy
  | .suspect => some .cupSuspect

/-- The references of a PICK that has reached its cup check (R84). -/
def BoardRef.refsWithCup (b : BoardRef) (c : Option (Fin 4)) : Refs := { b.refs with cup := c }

/-- The judgement of a PICK from its cup on (R90, checks 9 to 12). -/
def judgePickCup (b : BoardRef) (w1 : Word) (s : State) : Judged PickPlan :=
  match asFin 4 (cmdCup w1) with
  | none => .refuse .cupRange b.refs
  | some c =>
    match (s.cups.get c).state.pickRefusal with
    | some cause => .refuse cause (b.refsWithCup (some c))
    | none =>
      if (s.nest b.nest).claim = .router then .refuse .nestClaimed (b.refsWithCup (some c))
      else match s.freeEntries with
        | [] => .refuse .tableFull (b.refsWithCup (some c))
        | i :: _ => .pass ⟨b, c, i⟩

/-- The judgement of a PICK (R86, R90). -/
def judgePick (w1 : Word) (r : Run) : Judged PickPlan × Run :=
  match r.st.nestChecks w1 with
  | .error cause => (.refuse cause {}, r)
  | .ok b =>
    fetch b {} (fun l r =>
      match firstFailing (r.st.pickChecks l) with
      | some cause => (.refuse cause b.refs, r)
      | none => (judgePickCup b w1 r.st, r)) r

/-- The effects of an admitted PICK (R91). -/
def applyPick (q : Request) (p : PickPlan) (now : Time) (r : Run) : Run :=
  let e := { newEntry .picker (r.st.cursor .picker) (ringSequence q.data) .pick p.board now with
    cup := some p.cup }
  let r := r.openEntry p.entry e r.st.limits.pick
  let r := r.giveCup p.cup ⟨.reserved, some p.board⟩ p.board
  let r := r.changeBoard p.board fun h =>
    { h with state := .picking, cup := some p.cup, untouched := false }
  (r.reclaim p.board.nest).advance .picker

/-- The writes and effects of an admitted PICK (R83, R91). -/
def grantPick (q : Request) (p : PickPlan) (r : Run) : Ack × Run :=
  let now := r.st.time
  r.writing [(q.word 3, verdictAdmitted (some p.entry) now), (q.word 0, q.data)] fun r =>
    (.done, applyPick q p now r)

/-- PICK (R90, R91). -/
def execPick (answers : List MemAnswer) (s : State) : Host.Outcome State Fault Refusal :=
  heldStep (isPost .pick .picker false) (servePost .picker judgePick grantPick) answers s

/-! ### A command that names a cup (R92, R98) -/

/-- The cause with which a cup refuses a PLACE or DISCARD (R39). -/
def CupState.putRefusal : CupState → Option Cause
  | .empty => some .cupEmpty
  | .reserved => some .cupBusy
  | .loaded => none
  | .reservedOut => some .cupBusy
  | .suspect => some .cupSuspect

/-- The references of a command that has reached its cup. -/
def cupRefs (c : Fin 4) : Refs := { cup := some c }

/-- Checks 1 to 3 of a PLACE or DISCARD: the cup, its state, and the board it names (R39, R92, R98). -/
def withCup {α : Type} (w1 : Word) (judge : Fin 4 → CacheLine → Run → Judged α × Run) (r : Run) :
    Judged α × Run :=
  match asFin 4 (cmdCup w1) with
  | none => (.refuse .cupRange {}, r)
  | some c =>
    match (r.st.cups.get c).state.putRefusal, (r.st.cups.get c).ref with
    | some cause, _ => (.refuse cause (cupRefs c), r)
    | none, none => (.refuse .cupEmpty (cupRefs c), r)
    | none, some b => fetch b (cupRefs c) (judge c) r

/-! ### PLACE (R92 to R97, R103) -/

/-- What an admitted PLACE will do. -/
structure PlacePlan where
  board   : BoardRef
  cup     : Fin 4
  sel     : Selection
  place   : Fin 32
  present : Fin 32

/-- The cause with which a lane's state refuses a PLACE (R92, check 7). -/
def LaneState.refusal : LaneState → Option Cause
  | .closed => some .laneClosed
  | .isOpen => none
  | .exhausted => some .laneExhausted
  | .paused => some .lanePaused
  | .stopped => some .laneStopped

/-- The lane's kind fits the grade (R92, check 6). Grade code 3 names no grade and only a record changed behind
the part can hold it; that no lane fits it, so that its PLACE is refused LANE_KIND, is the model's choice
(notes/assumptions/15.md). -/
def laneKindFits (grade : Option Grade) (kind : LaneKind) : Bool :=
  match grade, kind with
  | some .good, .normal => true
  | some .reject, .reject => true
  | some .xout, .reject => true
  | _, _ => false

/-- Checks 4 to 7 of a PLACE (R92). -/
def State.placeChecks (s : State) (l : CacheLine) (lane : Nat) : List (Bool × Cause) :=
  let grade := boardGrade l.words.w1
  let own := s.effectiveLane l
  [ (!(grade == some .xout && s.policy l.board.nest == some .discard), .xoutDiscard),
    (lane == laneAuto || lane == own.val, .laneMismatch),
    (laneKindFits grade (s.lanes.get own).kind, .laneKind),
    ((s.lanes.get own).state.refusal.isNone, (s.lanes.get own).state.refusal.getD .laneClosed) ]

/-- The references of a refused PLACE: the cup, and the lane once it was reached (R84;
notes/assumptions/16.md). -/
def placeRefs (c : Fin 4) (lane : Fin 16) (cause : Cause) : Refs :=
  if cause = .xoutDiscard then cupRefs c else { cupRefs c with lane := some lane }

/-- The judgement of a PLACE from its board on (R92, R93, R94). -/
def judgePlaceBoard (w1 : Word) (c : Fin 4) (l : CacheLine) (s : State) : Judged PlacePlan :=
  let own := s.effectiveLane l
  match firstFailing (s.placeChecks l (cmdLane w1)) with
  | some cause => .refuse cause (placeRefs c own cause)
  | none =>
    match s.select own with
    | none => .refuse .laneExhausted (placeRefs c own .laneExhausted)
    | some sel =>
      if s.slotNamed .stacker (s.cursor .stacker) then
        .refuse .stackerRingFull (placeRefs c own .stackerRingFull)
      else match s.freeEntries with
        | i :: j :: _ => .pass ⟨l.board, c, sel, i, j⟩
        | _ => .refuse .tableFull (placeRefs c own .tableFull)

/-- The judgement of a PLACE (R92). -/
def judgePlace (w1 : Word) (r : Run) : Judged PlacePlan × Run :=
  withCup w1 (fun c l r => (judgePlaceBoard w1 c l r.st, r)) r

/-- The destination that a pair's entries carry (R105). -/
def Selection.dest (sel : Selection) : Destination :=
  ⟨sel.station, sel.lane, sel.slot, sel.generation, sel.serial⟩

/-- The effects of an admitted PLACE, but for the PRESENT record's word 0 and the cursors; the nest summary
is queued, changed or not (R95; notes/assumptions/27.md). -/
def applyPlace (q : Request) (p : PlacePlan) (now : Time) (r : Run) : Run :=
  let sequence := ringSequence q.data
  let place := { newEntry .picker (r.st.cursor .picker) sequence .place p.board now with
    cup := some p.cup, dest := some p.sel.dest, partner := some p.present }
  let present := { newEntry .stacker (r.st.cursor .stacker) sequence .present p.board now with
    dest := some p.sel.dest, partner := some p.place }
  let limit := r.st.limits.pair
  let r := (r.openEntry p.place place limit).openEntry p.present present limit
  let r := r.setCup p.cup ⟨.reservedOut, some p.board⟩
  let r := r.changeBoard p.board fun h =>
    { h with state := .placing, placement := some ⟨p.sel.station, p.sel.slot, p.sel.serial⟩ }
  (r.takeSelection p.sel).image (.nest p.board.nest)

/-- The PRESENT record's word 0 is written; if that fails, the pair expires at once with cause MEMORY
(R97, R103). -/
def postPresent (q : Request) (p : PlacePlan) (a : Nat) (r : Run) : Run :=
  match r.write a (presentWord0 markValid (ringSequence q.data)) with
  | (true, r) => r
  | (false, r) => r.expire p.place .memory

/-- The writes and effects of an admitted PLACE (R96, R97, R103). -/
def grantPlace (q : Request) (p : PlacePlan) (r : Run) : Ack × Run :=
  let now := r.st.time
  let stackerSlot := r.st.cursor .stacker
  let a := (r.st.ring .stacker).slotAddr stackerSlot
  r.writing
    [(a + 8, presentWord1 p.sel.station p.sel.slot p.sel.serial p.sel.pitch),
      (a + 16, presentWord2 p.board (r.st.cursor .picker)),
      (a + 24, verdictAdmitted (some p.present) now),
      (q.word 2, placeTranslation p.sel.station p.sel.slot stackerSlot),
      (q.word 3, verdictAdmitted (some p.place) now),
      (q.word 0, q.data)]
    fun r =>
      (.done, ((postPresent q p a (applyPlace q p now r)).advance .picker).advance .stacker)

/-- PLACE (R92 to R97, R103). -/
def execPlace (answers : List MemAnswer) (s : State) : Host.Outcome State Fault Refusal :=
  heldStep (isPost .place .picker false) (servePost .picker judgePlace grantPlace) answers s

/-! ### DISCARD (R98, R99) -/

/-- The judgement of a DISCARD from its board on (R98). A grade code of 3, which names none, is not GOOD and
passes (notes/assumptions/15.md). -/
def judgeDiscardBoard (c : Fin 4) (l : CacheLine) (s : State) : Judged PickPlan :=
  if boardGrade l.words.w1 = some .good then .refuse .goodBoard (cupRefs c)
  else match s.freeEntries with
    | [] => .refuse .tableFull (cupRefs c)
    | i :: _ => .pass ⟨l.board, c, i⟩

/-- The judgement of a DISCARD (R98). -/
def judgeDiscard (w1 : Word) (r : Run) : Judged PickPlan × Run :=
  withCup w1 (fun c l r => (judgeDiscardBoard c l r.st, r)) r

/-- The effects of an admitted DISCARD; the nest summary is queued, changed or not (R99;
notes/assumptions/27.md). -/
def applyDiscard (q : Request) (p : PickPlan) (now : Time) (r : Run) : Run :=
  let e := { newEntry .picker (r.st.cursor .picker) (ringSequence q.data) .discard p.board now with
    cup := some p.cup }
  let r := r.openEntry p.entry e r.st.limits.discard
  let r := r.setCup p.cup ⟨.reservedOut, some p.board⟩
  let r := r.changeBoard p.board fun h => { h with state := .discarding }
  (r.image (.nest p.board.nest)).advance .picker

/-- The writes and effects of an admitted DISCARD (R83, R99). -/
def grantDiscard (q : Request) (p : PickPlan) (r : Run) : Ack × Run :=
  let now := r.st.time
  r.writing [(q.word 3, verdictAdmitted (some p.entry) now), (q.word 0, q.data)] fun r =>
    (.done, applyDiscard q p now r)

/-- DISCARD (R98, R99). -/
def execDiscard (answers : List MemAnswer) (s : State) : Host.Outcome State Fault Refusal :=
  heldStep (isPost .discard .picker false) (servePost .picker judgeDiscard grantDiscard) answers s

/-! ### TRIAL commands (R100, R101) -/

/-- A passing TRIAL of a PLACE: its translation and destination (R100). -/
def grantTrialPlace (q : Request) (p : PlacePlan) (r : Run) : Ack × Run :=
  grantTrial .picker
    [(q.word 2, placeTranslation p.sel.station p.sel.slot (r.st.cursor .stacker))]
    (some (p.sel.station, p.sel.slot)) q r

/-- A TRIAL command by its kind (R100). -/
def serveTrial (t : Tag) (q : Request) (r : Run) : Ack × Run :=
  match q.cls with
  | .admission ring =>
    match physicalKind ring (ringKind q.data) with
    | some .cut => servePost ring judgeCut (fun q _ r => grantTrial ring [] none q r) t q r
    | some .pick => servePost ring judgePick (fun q _ r => grantTrial ring [] none q r) t q r
    | some .place => servePost ring judgePlace grantTrialPlace t q r
    | some .discard => servePost ring judgeDiscard (fun q _ r => grantTrial ring [] none q r) t q r
    | none => (.hard, r)
  | .load | .service | .report _ | .captureRelease _ | .flagClear | .boardEdit _ => (.hard, r)

/-- Whether a request is a post of a physical kind of its ring with the TRIAL flag. -/
def isTrial (q : Request) : Bool :=
  match q.cls with
  | .admission ring => (physicalKind ring (ringKind q.data)).isSome && ringTrial q.data
  | .load | .service | .report _ | .captureRelease _ | .flagClear | .boardEdit _ => false

/-- TRIAL_COMMAND (R100, R101). -/
def execTrialCommand (answers : List MemAnswer) (s : State) : Host.Outcome State Fault Refusal :=
  heldStep isTrial serveTrial answers s

/-! ### A kind that is not the ring's (R82, R198) -/

/-- The command ring of a post's class. -/
def RequestClass.ring : RequestClass → Option CmdRing
  | .admission ring => some ring
  | .service => some .service
  | .load | .report _ | .captureRelease _ | .flagClear | .boardEdit _ => none

/-- Whether a request is a post whose kind does not belong to its ring. -/
def isBadKind (q : Request) : Bool :=
  q.cls.ring.any fun ring => !kindFits ring (ringKind q.data)

/-- A post whose kind does not belong to its ring is refused BAD_KIND by the prefix (R82). -/
def serveBadKind (t : Tag) (q : Request) (r : Run) : Ack × Run :=
  servePost (α := Unit) (q.cls.ring.getD .service) (fun _ r => (.refuse .badKind {}, r))
    (fun _ _ r => (.done, r)) t q r

/-- BAD_KIND_POST (R82). -/
def execBadKindPost (answers : List MemAnswer) (s : State) : Host.Outcome State Fault Refusal :=
  heldStep isBadKind serveBadKind answers s

end Sys2Proof.Machine
end

