-- ==== Sys2Proof/Machine/Load.lean ====
section
/-! DEFINITION. The Root Record (R185 to R195): the sections as they are read, their validity, regions
and permissions, and a load's refusal or application. -/

namespace Sys2Proof.Machine

/-! ### The sections (R185, 11_record_layouts.md) -/

/-- Offset and number of words of each section. -/
def sectionPlace : Nat → Nat × Nat
  | 0 => (0x008, 2)
  | 1 => (0x018, 7)
  | 2 => (0x050, 1)
  | 3 => (0x058, 4)
  | 4 => (0x078, 4)
  | 5 => (0x098, 16)
  | 6 => (0x118, 2)
  | 7 => (0x128, 16)
  | 8 => (0x1A8, 2)
  | _ => (0x1B8, 1)

/-- The generation of a load word. -/
def loadGeneration (w : Word) : BitVec 16 := BitVec.ofNat 16 (bits w 0 16)

/-- The sections that a load word selects, in order. -/
def loadSections (w : Word) : List Nat := (List.range 10).filter fun k => bit w (16 + k)

/-- The sections that a load has read, with their words. -/
abbrev Body := List (Nat × List Word)

/-- The words of a section of a load. -/
def Body.words (b : Body) (k : Nat) : List Word := ((b.find? fun p => p.1 == k).map fun p => p.2).getD []

/-- Whether a load selects a section. -/
def Body.selects (b : Body) (k : Nat) : Bool := b.any fun p => p.1 == k

/-- The selected sections are read in order, word by word (R186). -/
def Run.readSections (r : Run) : List Nat → Option Body × Run
  | [] => (some [], r)
  | k :: rest =>
    match r.reads (Config.rootBase + (sectionPlace k).1) (sectionPlace k).2 with
    | (none, r') => (none, r')
    | (some ws, r') =>
      match r'.readSections rest with
      | (none, r'') => (none, r'')
      | (some b, r'') => (some ((k, ws) :: b), r'')

/-- The role code of a tag in S0. -/
def roleCode (ws : List Word) (t : Nat) : Nat := bits (wordAt ws (t / 8)) (8 * (t % 8)) 3

/-- The role table of S0. -/
def rolesOf (ws : List Word) : Table 16 Role :=
  Table.ofFn fun t => (Role.ofCode (roleCode ws t.val)).getD .none

/-- A ring of S1. -/
def ringOf (w : Word) : Ring := ⟨BitVec.ofNat 32 (bits w 0 32), bits w 32 16⟩

/-- The seven rings of S1. -/
def ringsOf (ws : List Word) : RingLayout where
  router := ringOf (wordAt ws 0)
  picker := ringOf (wordAt ws 1)
  service := ringOf (wordAt ws 2)
  stacker := ringOf (wordAt ws 3)
  routerReport := ringOf (wordAt ws 4)
  pickerReport := ringOf (wordAt ws 5)
  stackerReport := ringOf (wordAt ws 6)

/-- The Image Area base of S2. -/
def imageBaseOf (ws : List Word) : Addr := BitVec.ofNat 32 (bits (wordAt ws 0) 0 32)

/-- The X-out policy code of S3 or S4. -/
def policyCode (ws : List Word) : Nat := bits (wordAt ws 3) 8 2

/-- The descriptor of S3 or S4. -/
def descriptorOf (ws : List Word) : Descriptor where
  panelId := BitVec.ofNat 32 (bits (wordAt ws 0) 0 32)
  tableBase := BitVec.ofNat 32 (bits (wordAt ws 1) 0 32)
  count := bits (wordAt ws 1) 32 7
  typeBase := BitVec.ofNat 32 (bits (wordAt ws 2) 0 32)
  rejectLane := Fin.ofNat 16 (bits (wordAt ws 3) 0 4)
  policy := (XoutPolicy.ofCode (policyCode ws)).getD .leave

/-- The enabled mark of a lane of S5. -/
def laneEnabled (w : Word) : Bool := bit w 0

/-- The station numbers that a lane of S5 lists, within its length. -/
def laneList (w : Word) : List Nat := (List.range (bits w 4 4)).map fun i => bits w (8 + 4 * i) 4

/-- A lane's configuration from S5; a lane that is not enabled keeps an empty list (R140). -/
def Lane.configured (l : Lane) (w : Word) : Lane :=
  { l with
    enabled := laneEnabled w
    kind := if bit w 1 then .reject else .normal
    order := if bit w 2 then .down else .up
    stations := if laneEnabled w then (laneList w).map (Fin.ofNat 8) else []
    current := 0
    stop := none
    state := if laneEnabled w then .isOpen else .closed }

/-- A station's mask from S6. -/
def maskOf (ws : List Word) (i : Fin 8) : BitVec 16 :=
  BitVec.ofNat 16 (bits (wordAt ws (i.val / 4)) (16 * (i.val % 4)) 16)

/-- A station with a new mask: VACANT and DISABLED change between the two (R132). -/
def Station.masked (st : Station) (mask : BitVec 16) : Station :=
  { st with
    mask := mask
    state := match st.state with
      | .vacant => if mask = 0 then .disabled else .vacant
      | .disabled => if mask = 0 then .disabled else .vacant
      | .identifying => .identifying
      | .ready => .ready
      | .filling => .filling
      | .full => .full
      | .faulted c => .faulted c }

/-- A Magazine Type Table entry of S7; an undefined one is stored as zeros (R188). -/
def magTypeOf (w : Word) : MagType :=
  if bit w 0 then ⟨true, BitVec.ofNat 8 (bits w 8 8), bits w 16 8, bits w 24 4⟩
  else ⟨false, 0, 0, 0⟩

/-- The limits of S8. -/
def limitsOf (ws : List Word) : Limits :=
  ⟨bits (wordAt ws 0) 0 16, bits (wordAt ws 0) 16 16, bits (wordAt ws 0) 32 16,
    bits (wordAt ws 0) 48 16, bits (wordAt ws 1) 0 16⟩

/-! ### Validity (R188) -/

/-- How many tags of S0 carry a role code. -/
def roleCount (ws : List Word) (code : Nat) : Nat :=
  ((List.range 16).filter fun t => roleCode ws t == code).length

/-- S0: named roles, a PROC tag, and one tag of each axis. -/
def rolesValid (ws : List Word) : Bool :=
  ((List.range 16).all fun t => (Role.ofCode (roleCode ws t)).isSome) &&
    decide (1 ≤ roleCount ws 1) && roleCount ws 2 == 1 && roleCount ws 3 == 1 && roleCount ws 4 == 1

/-- A ring of S1: its slot count and alignment. -/
def Ring.valid (ring : Ring) : Bool :=
  [16, 32, 64, 128, 256].contains ring.slots && ring.base.toNat % ring.size == 0

/-- The rings of a layout. -/
def RingLayout.list (l : RingLayout) : List Ring :=
  [l.router, l.picker, l.service, l.stacker, l.routerReport, l.pickerReport, l.stackerReport]

/-- S3 or S4: alignment, count, end of the table and policy. -/
def descriptorValid (ws : List Word) : Bool :=
  let d := descriptorOf ws
  d.tableBase.toNat % 32 == 0 && decide (1 ≤ d.count) && decide (d.count ≤ Config.maxBoards) &&
    decide (d.tableBase.toNat + Config.recordSize * d.count ≤ Config.addressSpace) &&
    d.typeBase.toNat % 8 == 0 && (XoutPolicy.ofCode (policyCode ws)).isSome

/-- The station numbers of all the enabled lanes of S5. -/
def lanesList (ws : List Word) : List Nat :=
  ws.flatMap fun w => if laneEnabled w then laneList w else []

/-- S5: for enabled lanes, the list lengths, the station numbers, and no station twice. -/
def lanesValid (ws : List Word) : Bool :=
  (ws.all fun w => !laneEnabled w || (decide (1 ≤ bits w 4 4) && decide (bits w 4 4 ≤ 8))) &&
    ((lanesList ws).all fun i => decide (i ≤ 7)) && decide (lanesList ws).Nodup

/-- S7: for defined entries, the code and the slot count. -/
def magTypesValid (ws : List Word) : Bool :=
  ws.all fun w =>
    !bit w 0 || (bits w 8 8 != 0 && decide (1 ≤ bits w 16 8) && decide (bits w 16 8 ≤ Config.maxSlots))

/-- The contents of a section are valid, its regions aside (R188). -/
def sectionValid (k : Nat) (ws : List Word) : Bool :=
  match k with
  | 0 => rolesValid ws
  | 1 => (ringsOf ws).list.all Ring.valid
  | 2 => (imageBaseOf ws).toNat % 4096 == 0
  | 3 => descriptorValid ws
  | 4 => descriptorValid ws
  | 5 => lanesValid ws
  | 7 => magTypesValid ws
  | _ => true

/-! ### Regions (R189) -/

/-- A region that the load leaves standing, with the selected section that defines it, if one does. -/
structure Extent where
  sect : Option Nat
  base : Nat
  size : Nat
deriving DecidableEq, Repr

/-- Whether two regions overlap. -/
def Extent.overlaps (x y : Extent) : Bool :=
  decide (x.base < y.base + y.size) && decide (y.base < x.base + x.size)

/-- The extents of seven rings. -/
def RingLayout.extents (l : RingLayout) (sect : Option Nat) : List Extent :=
  l.list.map fun ring => ⟨sect, ring.base.toNat, ring.size⟩

/-- The extent of a board table. -/
def Descriptor.extent (d : Descriptor) (sect : Option Nat) : Extent :=
  ⟨sect, d.tableBase.toNat, Config.recordSize * d.count⟩

/-- The rings as they will stand. -/
def State.ringExtents (s : State) (b : Body) : List Extent :=
  if b.selects 1 then (ringsOf (b.words 1)).extents (some 1)
  else (s.rings.map fun l => l.extents none).getD []

/-- The Image Area as it will stand. -/
def State.imageExtents (s : State) (b : Body) : List Extent :=
  if b.selects 2 then [⟨some 2, (imageBaseOf (b.words 2)).toNat, Config.imageSize⟩]
  else (s.imageBase.map fun base => [⟨none, base.toNat, Config.imageSize⟩]).getD []

/-- The section of a nest's descriptor (R59). -/
def Nest.sect : Nest → Nat
  | .a => 3
  | .b => 4

/-- A nest's board table as it will stand; none for a nest that stays EMPTY. -/
def State.tableExtents (s : State) (b : Body) (n : Nest) : List Extent :=
  if b.selects n.sect then [(descriptorOf (b.words n.sect)).extent (some n.sect)]
  else if (s.nest n).state = .empty then []
  else ((s.nest n).descriptor.map fun d => [d.extent none]).getD []

/-- Every region that the load leaves standing. -/
def State.extents (s : State) (b : Body) : List Extent :=
  ⟨none, Config.rootBase, Config.rootSize⟩ ::
    (s.ringExtents b ++ s.imageExtents b ++ s.tableExtents b .a ++ s.tableExtents b .b)

/-- An overlap of two regions is charged to a section when that is the higher-numbered of the selected
sections that define them (R189). -/
def chargedTo (k : Nat) (x y : Extent) : Bool :=
  (x.sect == some k || y.sect == some k) && decide (x.sect.getD 0 ≤ k) && decide (y.sect.getD 0 ≤ k)

/-- Whether some overlap is charged to a section. -/
def overlapAt (k : Nat) : List Extent → Bool
  | [] => false
  | x :: rest => (rest.any fun y => chargedTo k x y && x.overlaps y) || overlapAt k rest

/-! ### Permission and judgement (R187, R190) -/

/-- Whether the state of the part permits a section (R190). -/
def State.permits (s : State) (k : Nat) : Bool :=
  match k with
  | 0 => !s.entries.any fun e => e.isSome
  | 1 => !s.entries.any fun e => e.isSome
  | 3 => s.nestA.state == .empty
  | 4 => s.nestB.state == .empty
  | 5 => !s.entries.any fun e => e.any fun e => e.kind.ofPair && e.inFlight
  | _ => true

/-- The failure of a load: its cause with the section. -/
inductive LoadFailure where
  | invalid (sect : Nat)
  | notPermitted (sect : Nat)
  | incomplete (sect : Nat)
deriving DecidableEq, Repr

/-- The sections of a load are judged in order (R187, steps 2 and 3). -/
def State.judgeSections (s : State) (b : Body) : List Nat → Option LoadFailure
  | [] => none
  | k :: rest =>
    if !sectionValid k (b.words k) || overlapAt k (s.extents b) then some (.invalid k)
    else if !s.permits k then some (.notPermitted k)
    else s.judgeSections b rest

/-- A load is judged (R187). -/
def State.judgeLoad (s : State) (b : Body) : Option LoadFailure :=
  match s.guarded, [0, 1, 2].find? fun k => !b.selects k with
  | false, some k => some (.incomplete k)
  | _, _ => s.judgeSections b (b.map fun p => p.1)

/-! ### Refusal (R191) -/

/-- The cause of a failure (R170). -/
def LoadFailure.cause : LoadFailure → Cause
  | .invalid _ => .loadInvalid
  | .notPermitted _ => .loadNotPermitted
  | .incomplete _ => .loadIncomplete

/-- The section of a failure. -/
def LoadFailure.sect : LoadFailure → Nat
  | .invalid k => k
  | .notPermitted k => k
  | .incomplete k => k

/-- The last load result of a failure (R182). -/
def LoadFailure.status : LoadFailure → LoadStatus
  | .invalid k => .invalid k
  | .notPermitted k => .notPermitted k
  | .incomplete k => .incomplete k

/-- A load is refused: in GUARDED mode the status block takes the cause and the refusal goes through the
PROC capture rule; in OPEN_PATH mode it leaves no trace (R191). -/
def refuseLoad (t : Tag) (q : Request) (f : LoadFailure) (r : Run) : Ack × Run :=
  if r.st.guarded then
    Run.refusal ((r.modify fun s => { s with loadStatus := f.status }).image .status)
      { source := .proc, cause := f.cause, sect := some f.sect, cycle := some (q.cycleRef t) }
  else (.soft, r)

/-! ### Application (R192 to R194) -/

/-- The full image is collected, the status block last; a status block write that waits in the queue
leaves its place (R184, R194). -/
def Run.fullImage (r : Run) : Run :=
  let r := fullImageRecords.foldl Run.image r
  let r := r.modify fun s => { s with images := s.images.erase .status }
  Run.image { r with images := r.images.erase .status } .status

/-- A nest takes its descriptor and becomes LOADING, and its LOAD job is queued (R59). -/
def Run.loadNest (r : Run) (n : Nest) (d : Descriptor) : Run :=
  (r.setNest n
    { r.st.nest n with
      descriptor := some d
      state := .loading
      loadResult := .none
      firstBad := none }).modify fun s => { s with jobs := s.jobs ++ [.load n d] }

/-- A lane takes its configuration, and its image is queued (R142). -/
def configureLane (ws : List Word) (r : Run) (i : Fin 16) : Run :=
  (r.setLane i ((r.st.lanes.get i).configured (wordAt ws i.val))).image (.lane i)

/-- A section is applied by the rule of the block that owns its state (R192). -/
def applySection (b : Body) (r : Run) (k : Nat) : Run :=
  let ws := b.words k
  match k with
  | 0 => r.modify fun s => { s with roles := some (rolesOf ws) }
  | 1 => (r.modify fun s => { s with rings := some (ringsOf ws) }).setCursors ⟨0, 0, 0, 0⟩
  | 2 => (r.modify fun s => { s with imageBase := some (imageBaseOf ws) }).fullImage
  | 3 => r.loadNest .a (descriptorOf ws)
  | 4 => r.loadNest .b (descriptorOf ws)
  | 5 => ((List.finRange 16).foldl (configureLane ws) r).touchLanes
  | 6 =>
    ((List.finRange 8).foldl
      (fun r i => r.setStation i ((r.st.stations.get i).masked (maskOf ws i))) r).touchLanes
  | 7 => r.modify fun s => { s with magTypes := Table.ofFn fun i => magTypeOf (wordAt ws i.val) }
  | 8 => r.modify fun s => { s with limits := limitsOf ws }
  | _ =>
    r.modify fun s =>
      { s with
        routeA := BitVec.ofNat 24 (bits (wordAt ws 0) 0 24)
        routeB := BitVec.ofNat 24 (bits (wordAt ws 0) 32 24) }

/-- The first accepted load makes the part GUARDED and queues the full image (R193). -/
def Run.enterGuarded (r : Run) : Run :=
  if r.st.guarded then r else (r.modify fun s => { s with mode := .guarded }).fullImage

/-- An accepted load is applied; the lanes are re-evaluated once, whatever it selects (R192, R193). -/
def applyLoad (q : Request) (b : Body) (r : Run) : Run :=
  let r := (b.map fun p => p.1).foldl (applySection b) r
  let r := r.enterGuarded.touchLanes.settleLanes
  let r := r.modify fun s =>
    { s with loadGen := loadGeneration q.data, loadStatus := .ok }
  (r.raise .loadDone).image .status

/-- Whether a load word write that was classified in OPEN_PATH mode has become a guard refusal: the part
is GUARDED, and the tag is no PROC tag (R186). -/
def lateLoad (t : Tag) (q : Request) (s : State) : Bool :=
  s.guarded && q.role == none && s.roleOf t != .proc

/-- A Root Record load (R186 to R194). -/
def serveLoad (t : Tag) (q : Request) (r : Run) : Ack × Run :=
  if lateLoad t q r.st then (.hard, r.guardRefusal ⟨q.addr, t, .write⟩)
  else
    match r.readSections (loadSections q.data) with
    | (none, r) => (.hard, r)
    | (some b, r) =>
      match r.st.judgeLoad b with
      | some f => refuseLoad t q f r
      | none => r.writing [(q.word 0, q.data)] fun r => (.done, applyLoad q b r)

/-- ROOT_RECORD_LOAD (R186 to R194). -/
def execRootRecordLoad (answers : List MemAnswer) (s : State) : Host.Outcome State Fault Refusal :=
  heldStep (fun q => q.cls == .load) serveLoad answers s

end Sys2Proof.Machine
end

