-- ==== Sys2Proof/Machine/Reports.lean ====
section
/-! DEFINITION. Reports (R115 to R128), the outcome of a placement pair (R125 to R127, R149), the
station reports ARRIVED and REMOVED (R134 to R137), and expiry requests (R110 to R112). -/

namespace Sys2Proof.Machine

/-! ### Verdict and forward (R116) -/

/-- A judged report: applied, or disputed with a cause. -/
inductive Verdict where
  | applied
  | disputed (cause : Cause)
deriving DecidableEq, Repr

/-- Word 3 of a report (R116). -/
def Verdict.word (v : Verdict) (t : Time) : Word :=
  match v with
  | .applied => verdictApplied t
  | .disputed cause => verdictDisputed cause t

/-- A report: words 1 and 2 are read, it is judged, its verdict is written, word 0 is forwarded, and the
outcome is applied; a downstream HARD abandons it (R116). -/
def serveReport {α : Type} (judge : Word → State → Verdict × α)
    (apply : Tag → Request → Word → α → Run → Run) (t : Tag) (q : Request) (r : Run) : Ack × Run :=
  r.reading (q.word 1) 2 fun ws r =>
    let w1 := wordAt ws 0
    let out := judge w1 r.st
    r.writing [(q.word 3, out.1.word r.st.time), (q.word 0, q.data)] fun r =>
      (.done, apply t q w1 out.2 r)

/-- The ring of a report's class; the stacker's where the class is another (not a report). -/
def Request.reportRing (q : Request) : RepRing :=
  match q.cls with
  | .report ring => ring
  | .load | .admission _ | .service | .captureRelease _ | .flagClear | .boardEdit _ => .stacker

/-- A dispute is kept for the Condition Unit, under the report's source (R116, R173). -/
def Run.dispute (r : Run) (t : Tag) (q : Request) (cause : Cause) (refs : Refs) : Run :=
  r.keepEvent ⟨q.reportRing.source, cause, none, some (q.cycleRef t), refs⟩

/-! ### Matching (R117 to R120) -/

/-- How a solicited report meets the table: no entry, a late report, a report that does not fit, or one
that fits (R117). -/
inductive Match where
  | noEntry
  | late (i : Fin 32)
  | misfit (i : Fin 32) (cause : Cause)
  | fits (i : Fin 32)
deriving DecidableEq, Repr

/-- The results that R115 gives for a kind; every stop reason is given for a CUT_END. -/
def ReportKind.allows (k : ReportKind) (w1 : Word) : Bool :=
  match k with
  | .pickEnd => reportResult w1 != .abort
  | .placeEnd | .discardEnd => reportResult w1 != .fail
  | .cutEnd | .presentEnd | .arrived | .removed => true

/-- Whether a CUT_END's done count is within the span (R119). -/
def Entry.doneFits (e : Entry) (k : ReportKind) (w1 : Word) : Bool :=
  match k, e.span with
  | .cutEnd, some span => decide (cutEndDone w1 ≤ span.count)
  | _, _ => true

/-- A solicited report of a kind is matched to its entry (R117, R119). -/
def State.matchReport (s : State) (k : ReportKind) (q : Request) (w1 : Word) : Match :=
  match s.entryNamed q.reportRing.answers (ringAnswered q.data) (ringSequence q.data) with
  | none => .noEntry
  | some i =>
    match s.entries.get i with
    | none => .noEntry
    | some e =>
      if !e.inFlight then .late i
      else if !(e.kind.answeredBy == k && e.awaits && k.allows w1) then .misfit i .kindMismatch
      else if !e.doneFits k w1 then .misfit i .outOfSpan
      else .fits i

/-- The verdict of a match (R117). -/
def Match.verdict : Match → Verdict
  | .noEntry => .disputed .noEntry
  | .late _ => .disputed .late
  | .misfit _ cause => .disputed cause
  | .fits _ => .applied

/-- The references of a matched entry: its own cup, so none for a PRESENT (R173;
notes/assumptions/16.md). -/
def State.matchRefs (s : State) (i : Fin 32) : Refs :=
  match s.entries.get i with
  | none => {}
  | some e => e.refs i e.cup

/-- The nest of an entry is tested for drain after the entry has gone (R67). -/
def Run.removeMatched (r : Run) (i : Fin 32) (e : Entry) : Run :=
  (r.removeEntries [i]).drainTest e.board.nest

/-- What a judged report does: a dispute with what it carries, or the skips and the outcome of its kind
(R117 to R120). -/
def applyMatch (outcome : Word → Request → Fin 32 → Entry → Run → Run) (t : Tag) (q : Request)
    (w1 : Word) (m : Match) (r : Run) : Run :=
  match m with
  | .noEntry => r.dispute t q .noEntry {}
  | .late i =>
    match r.st.entries.get i with
    | none => r
    | some e => (r.dispute t q .late (r.st.matchRefs i)).removeMatched i e
  | .misfit i cause => (r.dispute t q cause (r.st.matchRefs i)).expire i .disputed
  | .fits i =>
    match r.st.entries.get i with
    | none => r
    | some e => outcome w1 q i e (r.skip q.reportRing.answers i)

/-- A solicited report of a kind (R116 to R120). -/
def serveSolicited (k : ReportKind) (outcome : Word → Request → Fin 32 → Entry → Run → Run) (t : Tag)
    (q : Request) (r : Run) : Ack × Run :=
  serveReport
    (fun w1 s =>
      let m := s.matchReport k q w1
      (m.verdict, m))
    (applyMatch outcome) t q r

/-- Whether a request is a report of a kind on its ring. -/
def isReport (k : ReportKind) (q : Request) : Bool :=
  match q.cls with
  | .report ring => reportKind ring (ringKind q.data) == some k
  | .load | .admission _ | .service | .captureRelease _ | .flagClear | .boardEdit _ => false

/-! ### CUT_END, PICK_END, DISCARD_END (R122 to R124) -/

/-- The first `d` tabs of a span as a mask (R122). -/
def spanMask (span : Span) (d : Nat) : BitVec 12 := BitVec.ofNat 12 ((2 ^ d - 1) * 2 ^ span.first)

/-- A board after a CUT_END: the done tabs join the mask, and the state is derived (R24, R122). -/
def BoardHw.afterCut (tabs : BitVec 12) (h : BoardHw) : BoardHw :=
  { h with cutMask := h.cutMask ||| tabs, state := derivedState h.tabs (h.cutMask ||| tabs) }

/-- The outcome of a CUT_END (R122). -/
def cutOutcome (w1 : Word) (_ : Request) (i : Fin 32) (e : Entry) (r : Run) : Run :=
  let span := e.span.getD ⟨0, 0⟩
  let r := r.changeBoard e.board (BoardHw.afterCut (spanMask span (cutEndDone w1)))
  let r := r.removeEntries [i]
  let n := e.board.nest
  let c := r.st.nest n
  let r := if cutEndToolFault w1 && c.state == .active then
      r.setNest n { c with state := .stopping }
    else r
  r.drainTest n

/-- CUT_END (R122). -/
def execCutEnd (answers : List MemAnswer) (s : State) : Host.Outcome State Fault Refusal :=
  heldStep (isReport .cutEnd) (serveSolicited .cutEnd cutOutcome) answers s

/-- A board LOST by a drop (R27, R123, R124, R127). -/
def BoardHw.dropped (h : BoardHw) : BoardHw :=
  { h with state := .lost, cup := none, placement := none, lastCause := some .dropped }

/-- A cup is set, where the entry names one. -/
def Run.putCup (r : Run) (c : Option (Fin 4)) (cup : Cup) : Run :=
  match c with
  | none => r
  | some c => r.setCup c cup

/-- The outcome of a PICK_END (R123); ABORT does not fit a PICK (R119). -/
def pickOutcome (w1 : Word) (_ : Request) (i : Fin 32) (e : Entry) (r : Run) : Run :=
  let b := e.board
  match reportResult w1 with
  | .done =>
    ((r.putCup e.cup (loadedWith b)).changeBoard b fun h => { h with state := .held }).removeMatched i e
  | .fail | .abort =>
    ((r.putCup e.cup ⟨.empty, none⟩).changeBoard b fun h =>
      { h with state := .free, cup := none }).removeMatched i e
  | .dropped =>
    let r := (r.putCup e.cup ⟨.empty, none⟩).changeBoard b BoardHw.dropped
    ((r.removeEntries [i]).boardEnded b.nest).drainTest b.nest

/-- PICK_END (R123). -/
def execPickEnd (answers : List MemAnswer) (s : State) : Host.Outcome State Fault Refusal :=
  heldStep (isReport .pickEnd) (serveSolicited .pickEnd pickOutcome) answers s

/-- The outcome of a DISCARD_END (R124); FAIL does not fit a DISCARD (R119). -/
def discardOutcome (w1 : Word) (_ : Request) (i : Fin 32) (e : Entry) (r : Run) : Run :=
  let b := e.board
  match reportResult w1 with
  | .abort | .fail =>
    ((r.putCup e.cup (loadedWith b)).changeBoard b fun h => { h with state := .held }).removeMatched i e
  | .done =>
    let r := (r.putCup e.cup ⟨.empty, none⟩).changeBoard b fun h =>
      { h with state := .scrapped, cup := none }
    ((r.removeEntries [i]).boardEnded b.nest).drainTest b.nest
  | .dropped =>
    let r := (r.putCup e.cup ⟨.empty, none⟩).changeBoard b BoardHw.dropped
    ((r.removeEntries [i]).boardEnded b.nest).drainTest b.nest

/-- DISCARD_END (R124). -/
def execDiscardEnd (answers : List MemAnswer) (s : State) : Host.Outcome State Fault Refusal :=
  heldStep (isReport .discardEnd) (serveSolicited .discardEnd discardOutcome) answers s

/-! ### The placement pair (R125 to R127, R149) -/

/-- How a placement ends (R126, R127). -/
inductive PairEnd where
  | stacked
  | relocated (slot : Nat)
  | stationChanged
  | collision
  | aborted
  | dropped
deriving DecidableEq, Repr

/-- The observation shows the pair's magazine (R126). -/
def State.sameMagazine (s : State) (d : Destination) (o : Observation) : Bool :=
  s.inPlace d && o.serial == d.serial

/-- The state of the observed slot, if it is in range (R126). -/
def State.observed (s : State) (d : Destination) (o : Observation) : Option SlotState :=
  (s.stations.get d.station).slots[o.slot]?

/-- The outcome of a pair by both its reports (R126, R127); FAIL does not fit a PLACE (R119). -/
def State.pairEnd (s : State) (d : Destination) (result : Result) (o : Observation) : PairEnd :=
  match result with
  | .abort | .fail => .aborted
  | .dropped => .dropped
  | .done =>
    if !s.sameMagazine d o then .stationChanged
    else if !o.obstructed && o.slot == d.slot then .stacked
    else if !o.obstructed && s.observed d o == some .free then .relocated o.slot
    else .collision

/-- A board after a placement (R126, R127). -/
def PairEnd.board (x : PairEnd) (d : Destination) (h : BoardHw) : BoardHw :=
  match x with
  | .stacked =>
    { h with state := .stacked, cup := none, placement := some ⟨d.station, d.slot, d.serial⟩ }
  | .relocated slot =>
    { h with
      state := .stacked, cup := none, relocated := true
      placement := some ⟨d.station, slot, d.serial⟩ }
  | .stationChanged => h.lostTrack .stationChanged
  | .collision => h.lostTrack .collision
  | .aborted => { h with state := .held, placement := none }
  | .dropped => h.dropped

/-- The slots after a collision: the assigned one SUSPECT, and the observed one if it is in range and
FREE, OCCUPIED or BLOCKED (R126). -/
def collided (d : Destination) (o : Observation) (slots : List SlotState) : List SlotState :=
  let slots := slots.set d.slot .suspect
  match slots[o.slot]? with
  | some .free => slots.set o.slot .suspect
  | some .occupied => slots.set o.slot .suspect
  | some .blocked => slots.set o.slot .suspect
  | some .reserved => slots
  | some .suspect => slots
  | none => slots

/-- The slots that an aborted or dropped placement leaves: the assigned one FREE, then the observed one
BLOCKED if it is obstructed, the same magazine's, in range and FREE (R127). -/
def released (d : Destination) (o : Observation) (same : Bool) (slots : List SlotState) :
    List SlotState :=
  let slots := slots.set d.slot .free
  if o.obstructed && same && slots[o.slot]? == some .free then slots.set o.slot .blocked else slots

/-- The station of a collision: FAULTED with cause COLLISION, keeping its magazine and slots (R149). -/
def Station.collide (st : Station) (slots : List SlotState) : Station :=
  { st with
    state := .faulted .collision
    magazine := st.magazine.map fun m => { m with slots := slots } }

/-- A lane of a collision: PAUSED if it is OPEN or EXHAUSTED (R149). -/
def Lane.collide (l : Lane) : Lane :=
  match l.state with
  | .isOpen => { l with state := .paused }
  | .exhausted => { l with state := .paused }
  | .closed => l
  | .paused => l
  | .stopped => l

/-- The Stacking Map after a placement, but for the lane's count (R126, R127, R149). Where the pair's
magazine is in place but the reported serial is another, no slot is changed, as R126 says; the assigned
slot then stays RESERVED without a pair, against the law of R139 (notes/assumptions/30.md). -/
def Run.endSlots (r : Run) (x : PairEnd) (d : Destination) (o : Observation) : Run :=
  match x with
  | .stacked => r.setSlots d.station fun slots => slots.set d.slot .occupied
  | .relocated slot =>
    (r.setSlots d.station fun slots => (slots.set d.slot .free).set slot .occupied).raise .relocated
  | .stationChanged => r.raise .uncertain
  | .collision =>
    let st := r.st.stations.get d.station
    let r := (r.setStation d.station (st.collide (collided d o st.slots))).raise .stationChange
    (r.setLane d.lane (r.st.lanes.get d.lane).collide).raise .uncertain
  | .aborted | .dropped =>
    if r.st.inPlace d then
      let same := r.st.sameMagazine d o
      r.setSlots d.station (released d o same)
    else r

/-- The cup after a placement (R127). -/
def PairEnd.cup (x : PairEnd) (b : BoardRef) : Cup :=
  match x with
  | .aborted => loadedWith b
  | .stacked | .relocated _ | .stationChanged | .collision | .dropped => ⟨.empty, none⟩

/-- A placement that makes its board terminal (R65, R127). -/
def PairEnd.terminal : PairEnd → Bool
  | .stacked | .relocated _ | .dropped => true
  | .stationChanged | .collision | .aborted => false

/-- A pair is resolved, and the nest summary is queued (R126, R127). -/
def Run.resolvePair (r : Run) (i j : Fin 32) (b : BoardRef) (cup : Option (Fin 4)) (d : Destination)
    (result : Result) (o : Observation) : Run :=
  let x := r.st.pairEnd d result o
  let r := r.putCup cup (x.cup b)
  let r := r.changeBoard b (x.board d)
  let r := r.endSlots x d o
  let r := r.removeEntries [i, j]
  let r := if x.terminal then r.boardEnded b.nest else r
  ((r.pairEnded d.lane).drainTest b.nest).image (.nest b.nest)

/-- The first report of a pair is stored in the entry it answers, and both entries become HALF (R125). -/
def Run.storeReport (r : Run) (i : Fin 32) (e : Entry) (payload : StoredPayload) (ringSlot : Nat) :
    Run :=
  let partner := r.st.partnerOf e
  let r := r.setEntry i (some { e with state := .half, stored := some ⟨payload, ringSlot, r.st.time⟩ })
  match partner with
  | none => r
  | some (j, f) => r.setEntry j (some { f with state := .half })

/-- The slot of a report ring that a report was posted at (R105). A report that a load of S1 has left
outside its ring has none, and is stored as at slot 0 (R195; notes/assumptions/31.md). -/
def State.reportSlot (s : State) (q : Request) : Nat :=
  ((s.rings.bind fun l => (l.report q.reportRing).slotOf q.addr.toNat)).getD 0

/-- A half of a pair is stored, or resolves the pair with the half that is stored (R125). -/
def pairOutcome (payload : StoredPayload) (q : Request) (i : Fin 32) (e : Entry) (r : Run) : Run :=
  match e.state with
  | .half =>
    match r.st.partnerOf e, e.dest with
    | some (j, f), some d =>
      match payload, f.stored with
      | .placeEnd result, some ⟨.presentEnd o, _, _⟩ => r.resolvePair i j e.board e.cup d result o
      | .presentEnd o, some ⟨.placeEnd result, _, _⟩ => r.resolvePair i j e.board f.cup d result o
      | _, _ => r
    | _, _ => r
  | .isOpen | .expired _ => r.storeReport i e payload (r.st.reportSlot q)

/-- PLACE_END (R125 to R127). -/
def execPlaceEnd (answers : List MemAnswer) (s : State) : Host.Outcome State Fault Refusal :=
  heldStep (isReport .placeEnd)
    (serveSolicited .placeEnd fun w1 q i e r => pairOutcome (.placeEnd (reportResult w1)) q i e r)
    answers s

/-- PRESENT_END (R125 to R127). -/
def execPresentEnd (answers : List MemAnswer) (s : State) : Host.Outcome State Fault Refusal :=
  heldStep (isReport .presentEnd)
    (serveSolicited .presentEnd fun w1 q i e r => pairOutcome (.presentEnd (presentEndObs w1)) q i e r)
    answers s

/-! ### ARRIVED and REMOVED (R128, R134 to R137) -/

/-- The references of a station report (R173). -/
def stationReportRefs (q : Request) : Refs := { station := asFin 8 (ringStation q.data) }

/-- The verdict of an ARRIVED (R134). -/
def State.judgeArrived (s : State) (q : Request) : Verdict :=
  match asFin 8 (ringStation q.data) with
  | none => .disputed .stationDisabled
  | some i =>
    match (s.stations.get i).state with
    | .disabled => .disputed .stationDisabled
    | .vacant => .applied
    | .identifying => .applied
    | .ready => .disputed .arrivalConflict
    | .filling => .disputed .arrivalConflict
    | .full => .disputed .arrivalConflict
    | .faulted _ => .disputed .arrivalConflict

/-- A station report that is disputed is captured; one that is applied acts on its station. -/
def applyStation (act : Fin 8 → Word → Run → Run) (t : Tag) (q : Request) (w1 : Word) (v : Verdict)
    (r : Run) : Run :=
  match v with
  | .disputed cause => r.dispute t q cause (stationReportRefs q)
  | .applied =>
    match asFin 8 (ringStation q.data) with
    | none => r
    | some i => act i w1 r

/-- A label is taken by its station (R134 to R136). -/
def arrivedAct (i : Fin 8) (w1 : Word) (r : Run) : Run :=
  let out := r.st.takeLabel i (arrivedLabel w1)
  let r := (r.setStation i out.1).image (.station i)
  if out.2 then r.raise .stationChange else r

/-- ARRIVED (R134 to R136). -/
def execArrived (answers : List MemAnswer) (s : State) : Host.Outcome State Fault Refusal :=
  heldStep (isReport .arrived)
    (fun t q r =>
      serveReport (fun _ s => (s.judgeArrived q, s.judgeArrived q)) (applyStation arrivedAct) t q r)
    answers s

/-- The verdict of a REMOVED (R128, R137). -/
def State.judgeRemoved (s : State) (q : Request) : Verdict :=
  match asFin 8 (ringStation q.data) with
  | none => .disputed .stationDisabled
  | some i =>
    match (s.stations.get i).state with
    | .vacant => .disputed .nothingToRemove
    | .disabled => .disputed .nothingToRemove
    | .identifying => .applied
    | .ready => .applied
    | .filling => .applied
    | .full => .applied
    | .faulted _ => .applied

/-- A station's magazine has gone (R137). -/
def removedAct (i : Fin 8) (_ : Word) (r : Run) : Run :=
  (r.setStation i (r.st.stations.get i).emptied).raise .stationChange

/-- REMOVED (R137). -/
def execRemoved (answers : List MemAnswer) (s : State) : Host.Outcome State Fault Refusal :=
  heldStep (isReport .removed)
    (fun t q r =>
      serveReport (fun _ s => (s.judgeRemoved q, s.judgeRemoved q)) (applyStation removedAct) t q r)
    answers s

/-! ### A kind that is not the report ring's (R117, R198) -/

/-- Whether a request is a report whose kind is not one of its ring's. -/
def isKindMismatch (q : Request) : Bool :=
  match q.cls with
  | .report ring => (reportKind ring (ringKind q.data)).isNone
  | .load | .admission _ | .service | .captureRelease _ | .flagClear | .boardEdit _ => false

/-- The references of the dispute of a report whose kind is not its ring's: it matches no entry, and an
ARRIVED or REMOVED names its station on whatever ring it comes (R173). -/
def mismatchRefs (q : Request) : Refs :=
  match reportKind .stacker (ringKind q.data) with
  | some .arrived => stationReportRefs q
  | some .removed => stationReportRefs q
  | _ => {}

/-- REPORT_KIND_MISMATCH (R117, step 1). -/
def execReportKindMismatch (answers : List MemAnswer) (s : State) :
    Host.Outcome State Fault Refusal :=
  heldStep isKindMismatch
    (fun t q r =>
      serveReport (fun _ _ => (Verdict.disputed .kindMismatch, ()))
        (fun t q _ _ r => r.dispute t q .kindMismatch (mismatchRefs q)) t q r)
    answers s

/-! ### Expiry requests (R110 to R112) -/

/-- The due entry that the OCT names: the one that became due first (R110). -/
def State.dueEntry (s : State) : Option (Fin 32 × Entry) :=
  s.due.head?.bind fun i => (s.entries.get i).map fun e => (i, e)

/-- EXPIRY (R111): the due entry is a CUT, PICK or DISCARD. -/
def execExpiry (s : State) : Host.Outcome State Fault Refusal :=
  internalStep expiryPosition
    (fun r =>
      match r.st.dueEntry with
      | some (i, e) => if e.kind.ofPair then none else some (r.expireSingle i e .expired)
      | none => none) s

/-- PAIR_EXPIRY (R112): the due entry is one of a pair. -/
def execPairExpiry (s : State) : Host.Outcome State Fault Refusal :=
  internalStep expiryPosition
    (fun r =>
      match r.st.dueEntry with
      | some (i, e) => if e.kind.ofPair then some (r.expirePair i e .expired) else none
      | none => none) s

end Sys2Proof.Machine
end

