-- ==== Sys2Proof/Machine/Reset.lean ====
section
/-! DEFINITION. RESET_N (R21, R196) and TIMEBASE (R108, R110). -/

namespace Sys2Proof.Machine

/-- RESET_N: every cycle in the part ends without an acknowledge and every piece of state takes its
value after reset; cell memory is left as it is, and the queue of commands is not the part's (R21,
R196; notes/assumptions/13.md). -/
def execResetN (s : State) : Host.Outcome State Fault Refusal :=
  .next { State.reset with mem := s.mem, pending := s.pending }

/-- TIMEBASE: the counter rises by one, entries become due, and an idle Engine takes the expiry request
at once (R18, R108, R110). -/
def execTimebase (s : State) : Host.Outcome State Fault Refusal := .next s.tick.takeNext

end Sys2Proof.Machine
end

