-- ==== Sys2Proof/Machine/Completions.lean ====
section
/-! DEFINITION. The completions of the background walker, as the Engine takes them (R60, R63, R72,
R75). -/

namespace Sys2Proof.Machine

/-! ### Completions (R63, R72, R75) -/

/-- The Nest Context after a load completion (R60, R63). -/
def NestContext.afterLoad (c : NestContext) (result : LoadEnd) (count : Nat) : NestContext :=
  match result with
  | .ok =>
    { c with
      state := if count = 0 then .complete else .active
      status := .initial
      remaining := count
      loadResult := .ok
      firstBad := none
      typesValid := true }
  | .invalid p =>
    { c with
      state := .illegal
      status := .initial
      remaining := 0
      loadResult := .invalid
      firstBad := some p }
  | .failed p =>
    { c with
      state := .illegal
      status := .initial
      remaining := 0
      loadResult := .failed
      firstBad := p }

/-- The walker becomes idle: the Engine has taken its completion (R53). -/
def Run.freeWalker (r : Run) : Run := r.modify fun s => { s with walker := .idle }

/-- A load completion is applied to its nest (R63). -/
def Run.completeLoad (r : Run) (n : Nest) (result : LoadEnd) (count : Nat) : Run :=
  let c := (r.st.nest n).afterLoad result count
  let r := ((r.freeWalker.setNest n c).image (.nest n)).raise (.nestReady n)
  if c.state = .complete then r.raise (.nestComplete n) else r

/-- Whether a valid entry of a nest is dirty (R72). -/
def State.nestDirty (s : State) (n : Nest) : Bool :=
  s.cache.any fun l => l.any fun l => l.board.nest == n && l.dirty

/-- A sync completion is applied to its nest (R72). -/
def Run.completeSync (r : Run) (n : Nest) (clean : Bool) : Run :=
  let status := if clean && !r.st.nestDirty n then ImageStatus.clean else .dirty
  ((r.freeWalker.setNest n { r.st.nest n with status := status }).image (.nest n)).raise
    (.nestSynced n)

/-- A Nest Context that becomes EMPTY (R58, R74, R75). -/
def NestContext.emptied (c : NestContext) : NestContext :=
  { c with
    descriptor := none
    typesValid := false
    state := .empty
    status := .off
    claim := .none
    remaining := 0
    loadResult := .none
    firstBad := none }

/-- A release completion is applied to its nest (R75). -/
def Run.completeRelease (r : Run) (n : Nest) : Run :=
  ((r.freeWalker.setNest n (r.st.nest n).emptied).image (.nest n)).raise (.nestSynced n)

/-- LOAD_COMPLETION (R63). -/
def execLoadCompletion (s : State) : Host.Outcome State Fault Refusal :=
  internalStep walkerPosition
    (fun r =>
      match r.st.walker with
      | .waiting (.load n result count) => some (r.completeLoad n result count)
      | _ => none) s

/-- SYNC_COMPLETION (R72). -/
def execSyncCompletion (s : State) : Host.Outcome State Fault Refusal :=
  internalStep walkerPosition
    (fun r =>
      match r.st.walker with
      | .waiting (.sync n clean _) => some (r.completeSync n clean)
      | _ => none) s

/-- RELEASE_COMPLETION (R75). -/
def execReleaseCompletion (s : State) : Host.Outcome State Fault Refusal :=
  internalStep walkerPosition
    (fun r =>
      match r.st.walker with
      | .waiting (.release n _) => some (r.completeRelease n)
      | _ => none) s

end Sys2Proof.Machine
end

