-- ==== Sys2Proof/Machine/Service.lean ====
section
/-! DEFINITION. Service commands (R68 to R74, R151 to R154, R157 to R168): for each of the twelve
kinds its checks, a `judge`, and its effects, an `apply`; and TRIAL service commands. -/

namespace Sys2Proof.Machine

/-! ### What every kind shares (R158, R160) -/

/-- The writes of an accepted service command, its effects, and the service cursor (R158). -/
def grantService {α : Type} (apply : α → Run → Run) (q : Request) (x : α) (r : Run) : Ack × Run :=
  r.writing [(q.word 3, verdictAdmitted none r.st.time), (q.word 0, q.data)] fun r =>
    (.done, (apply x r).advance .service)

/-- Whether a request is a post of a service kind without the TRIAL flag. -/
def isService (kind : ServiceKind) (q : Request) : Bool :=
  q.cls == .service && serviceKind (ringKind q.data) == some kind && !ringTrial q.data

/-- A service command of a kind (R158 to R160). -/
def serviceStep {α : Type} (kind : ServiceKind) (judge : Word → Run → Judged α × Run)
    (apply : α → Run → Run) (answers : List MemAnswer) (s : State) :
    Host.Outcome State Fault Refusal :=
  heldStep (isService kind) (servePost .service judge (grantService apply)) answers s

/-- A judgement that reads the state alone. -/
def judging {α : Type} (judge : Word → State → Judged α) (w1 : Word) (r : Run) : Judged α × Run :=
  (judge w1 r.st, r)

/-! ### NEST_STOP, NEST_RESUME (R67 to R69) -/

/-- A nest that can be stopped or resumed: ACTIVE, STOPPING or STOPPED (R68, R69). -/
def NestState.runs : NestState → Bool
  | .active | .stopping | .stopped => true
  | .empty | .loading | .illegal | .complete | .releasing => false

/-- The judgement of a NEST_STOP: the nest, the condition NOW, the nest's state (R68). -/
def judgeNestStop (w1 : Word) (s : State) : Judged Nest :=
  match Nest.ofCode (cmdNest w1), StopCondition.ofCode (cmdCondition w1) with
  | some n, some .now => if (s.nest n).state.runs then .pass n else .refuse .serviceState {}
  | _, _ => .refuse .serviceRange {}

/-- An ACTIVE nest becomes STOPPING, and STOPPED at once when it is drained (R67). -/
def Run.stopNest (r : Run) (n : Nest) : Run :=
  if (r.st.nest n).state = .active then
    (r.setNest n { r.st.nest n with state := .stopping }).drainTest n
  else r

/-- NEST_STOP (R68). -/
def execNestStop (answers : List MemAnswer) (s : State) : Host.Outcome State Fault Refusal :=
  serviceStep .nestStop (judging judgeNestStop) (fun n r => r.stopNest n) answers s

/-- The judgement of a NEST_RESUME (R69). -/
def judgeNestResume (w1 : Word) (s : State) : Judged Nest :=
  match Nest.ofCode (cmdNest w1) with
  | none => .refuse .serviceRange {}
  | some n => if (s.nest n).state.runs then .pass n else .refuse .serviceState {}

/-- A nest that runs becomes ACTIVE (R69). -/
def Run.resumeNest (r : Run) (n : Nest) : Run :=
  r.setNest n { r.st.nest n with state := .active }

/-- NEST_RESUME (R69). -/
def execNestResume (answers : List MemAnswer) (s : State) : Host.Outcome State Fault Refusal :=
  serviceStep .nestResume (judging judgeNestResume) (fun n r => r.resumeNest n) answers s

/-! ### NEST_SYNC, NEST_RELEASE (R71 to R74) -/

/-- A SYNC job of a nest exists: queued, running, or with its completion waiting (R71). -/
def State.syncExists (s : State) (n : Nest) : Bool :=
  s.jobs.contains (.sync n) ||
    match s.walker with
    | .idle => false
    | .running j => j.job == .sync n
    | .waiting (.sync m _ _) => m == n
    | .waiting _ => false

/-- A nest that can be synced: ILLEGAL or loaded (R71). -/
def NestState.syncs : NestState → Bool
  | .illegal | .active | .stopping | .stopped | .complete => true
  | .empty | .loading | .releasing => false

/-- The judgement of a NEST_SYNC (R71). -/
def judgeNestSync (w1 : Word) (s : State) : Judged Nest :=
  match Nest.ofCode (cmdNest w1) with
  | none => .refuse .serviceRange {}
  | some n =>
    if (s.nest n).state.syncs && !s.syncExists n then .pass n else .refuse .serviceState {}

/-- A job joins the walker's queue (R52). -/
def Run.queueJob (r : Run) (job : Job) : Run := r.modify fun s => { s with jobs := s.jobs ++ [job] }

/-- NEST_SYNC (R71). -/
def execNestSync (answers : List MemAnswer) (s : State) : Host.Outcome State Fault Refusal :=
  serviceStep .nestSync (judging judgeNestSync) (fun n r => r.queueJob (.sync n)) answers s

/-- Whether a cup names a board of a nest (R73). -/
def State.cupNamesNest (s : State) (n : Nest) : Bool :=
  s.cups.any fun c => c.ref.any fun b => b.nest == n

/-- Nothing holds a nest: no entry, no cup, no SYNC job (R73). -/
def State.nestFree (s : State) (n : Nest) : Bool :=
  !s.nestNamed n && !s.cupNamesNest n && !s.syncExists n

/-- Whether a release of the nest is accepted (R73). -/
def State.releasable (s : State) (n : Nest) : Bool :=
  match (s.nest n).state with
  | .loading => true
  | .illegal | .stopped | .complete => s.nestFree n
  | .empty | .active | .stopping | .releasing => false

/-- The judgement of a NEST_RELEASE (R73). -/
def judgeNestRelease (w1 : Word) (s : State) : Judged Nest :=
  match Nest.ofCode (cmdNest w1) with
  | none => .refuse .serviceRange {}
  | some n => if s.releasable n then .pass n else .refuse .serviceState {}

/-- A running LOAD job of the nest is cancelled: what it has in hand is finished, and a job with no
position in hand ends (R54, R74; notes/assumptions/10.md). -/
def RunningJob.cancel (j : RunningJob) : RunningJob :=
  match j.phase with
  | .types _ => { j with cancelled := true, phase := .ended .ok }
  | .record [] => { j with cancelled := true, phase := .ended .ok }
  | .record (_ :: _) | .storing _ _ | .scanning | .flushing _ _ _ | .ended _ =>
    { j with cancelled := true }

/-- Whether a job is a LOAD job of a nest. -/
def Job.loads (job : Job) (n : Nest) : Bool :=
  match job with
  | .load m _ => m == n
  | .sync _ | .release _ => false

/-- The LOAD job of a nest is removed from the queue, cancelled, or its completion withdrawn (R74). -/
def State.cancelLoad (s : State) (n : Nest) : State :=
  let s := { s with jobs := s.jobs.filter fun job => !job.loads n }
  match s.walker with
  | .idle => s
  | .running j => if j.job.loads n then { s with walker := .running j.cancel } else s
  | .waiting (.load m _ _) => if m = n then { s with walker := .idle } else s
  | .waiting _ => s

/-- An accepted release: a LOADING nest is emptied at once, another becomes RELEASING (R73, R74). -/
def Run.releaseNest (r : Run) (n : Nest) : Run :=
  if (r.st.nest n).state = .loading then
    (r.modify fun s => s.cancelLoad n).setNest n (r.st.nest n).emptied
  else
    (r.setNest n
      { r.st.nest n with
        state := .releasing
        claim := .none
        remaining := 0
        typesValid := false }).queueJob (.release n)

/-- NEST_RELEASE (R73, R74). -/
def execNestRelease (answers : List MemAnswer) (s : State) : Host.Outcome State Fault Refusal :=
  serviceStep .nestRelease (judging judgeNestRelease) (fun n r => r.releaseNest n) answers s

/-! ### LANE_STOP, LANE_RESUME (R151, R152) -/

/-- The references to a lane. -/
def laneRefs (l : Fin 16) : Refs := { lane := some l }

/-- The judgement of a LANE_STOP (R151). -/
def judgeLaneStop (w1 : Word) (s : State) : Judged (Fin 16 × StopRequest) :=
  match asFin 16 (cmdLane w1) with
  | none => .refuse .serviceRange {}
  | some l =>
    match StopCondition.ofCode (cmdCondition w1), StopNotice.ofCode (cmdNotice w1) with
    | some condition, some notice =>
      if (s.lanes.get l).state = .closed then .refuse .serviceState (laneRefs l)
      else .pass (l, ⟨condition, notice⟩)
    | _, _ => .refuse .serviceRange (laneRefs l)

/-- A lane after a stop request (R151). -/
def State.stopped (s : State) (l : Lane) (q : StopRequest) : Lane :=
  match l.state with
  | .closed => l
  | .stopped => l
  | .isOpen =>
    if q.condition = .now ∨ s.currentUsable l = false then
      { l with stop := some q, state := .stopped }
    else { l with stop := some q }
  | .exhausted => { l with stop := some q, state := .stopped }
  | .paused => { l with stop := some q, state := .stopped }

/-- A stop request takes effect; a lane that is STOPPED already keeps what it has; the lane's image is
queued (R146, R151). -/
def Run.stopLane (r : Run) (i : Fin 16) (q : StopRequest) : Run :=
  let old := r.st.lanes.get i
  ((if old.state = .stopped then r else r.announce i (r.st.stopped old q)).image (.lane i)).touchLanes

/-- LANE_STOP (R151). -/
def execLaneStop (answers : List MemAnswer) (s : State) : Host.Outcome State Fault Refusal :=
  serviceStep .laneStop (judging judgeLaneStop) (fun x r => r.stopLane x.1 x.2) answers s

/-- The judgement of a LANE_RESUME (R152). -/
def judgeLaneResume (w1 : Word) (s : State) : Judged (Fin 16) :=
  match asFin 16 (cmdLane w1) with
  | none => .refuse .serviceRange {}
  | some l =>
    if (s.lanes.get l).state = .closed then .refuse .serviceState (laneRefs l) else .pass l

/-- A lane resumed: no stop request, and OPEN if it was PAUSED or STOPPED (R152). -/
def Lane.resumed (l : Lane) : Lane :=
  { l with
    stop := none
    state := match l.state with
      | .paused | .stopped => .isOpen
      | .closed => .closed
      | .isOpen => .isOpen
      | .exhausted => .exhausted }

/-- A lane is resumed, its image is queued, and the lanes are re-evaluated (R152). -/
def Run.resumeLane (r : Run) (i : Fin 16) : Run :=
  ((r.setLane i (r.st.lanes.get i).resumed).image (.lane i)).touchLanes

/-- LANE_RESUME (R152). -/
def execLaneResume (answers : List MemAnswer) (s : State) : Host.Outcome State Fault Refusal :=
  serviceStep .laneResume (judging judgeLaneResume) (fun l r => r.resumeLane l) answers s

/-! ### STATION_RESET, SLOT_SET (R153, R154) -/

/-- The references to a station. -/
def stationRefs (st : Fin 8) : Refs := { station := some st }

/-- The references to a slot operand of a station. -/
def slotRefs (st : Fin 8) (slot : Nat) : Refs := { station := some st, slot := some slot }

/-- A station that can be reset: FAULTED or IDENTIFYING (R153). -/
def StationState.resets : StationState → Bool
  | .identifying | .faulted _ => true
  | .disabled | .vacant | .ready | .filling | .full => false

/-- Whether an OPEN or HALF pair is in place at a station (R153). -/
def State.pairInPlaceAt (s : State) (i : Fin 8) : Bool :=
  s.entries.any fun e => e.any fun e =>
    e.kind.ofPair && e.inFlight && e.dest.any fun d => d.station == i && s.inPlace d

/-- The judgement of a STATION_RESET (R153). -/
def judgeStationReset (w1 : Word) (s : State) : Judged (Fin 8) :=
  match asFin 8 (cmdStation w1) with
  | none => .refuse .serviceRange {}
  | some i =>
    if (s.stations.get i).state.resets && !s.pairInPlaceAt i then .pass i
    else .refuse .serviceState (stationRefs i)

/-- STATION_RESET (R153). -/
def execStationReset (answers : List MemAnswer) (s : State) : Host.Outcome State Fault Refusal :=
  serviceStep .stationReset (judging judgeStationReset)
    (fun i r => (r.setStation i (r.st.stations.get i).emptied).touchLanes) answers s

/-- The target of a SLOT_SET, by a slot state code (R154). -/
def slotTarget : Nat → Option SlotState
  | 1 => some .free
  | 4 => some .blocked
  | _ => none

/-- A slot that SLOT_SET may mark: FREE, BLOCKED or SUSPECT (R154). -/
def SlotState.settable : SlotState → Bool
  | .free | .blocked | .suspect => true
  | .reserved | .occupied => false

/-- The judgement of a SLOT_SET (R154). -/
def judgeSlotSet (w1 : Word) (s : State) : Judged (Fin 8 × Nat × SlotState) :=
  match asFin 8 (cmdStation w1) with
  | none => .refuse .serviceRange {}
  | some i =>
    match slotTarget (cmdTarget w1), (s.stations.get i).magazine with
    | none, _ => .refuse .serviceRange (stationRefs i)
    | some _, none => .refuse .serviceState (stationRefs i)
    | some target, some m =>
      match m.slots[cmdSlot w1]? with
      | none => .refuse .serviceRange (stationRefs i)
      | some x =>
        if x.settable then .pass (i, cmdSlot w1, target)
        else .refuse .serviceState (slotRefs i (cmdSlot w1))

/-- A slot is marked; the station's image is queued, and the lanes are re-evaluated (R154). -/
def Run.markSlot (r : Run) (i : Fin 8) (slot : Nat) (x : SlotState) : Run :=
  ((r.setSlots i fun slots => slots.set slot x).image (.station i)).touchLanes

/-- SLOT_SET (R154). -/
def execSlotSet (answers : List MemAnswer) (s : State) : Host.Outcome State Fault Refusal :=
  serviceStep .slotSet (judging judgeSlotSet)
    (fun x r => r.markSlot x.1 x.2.1 x.2.2) answers s

/-! ### RESOLVE (R161 to R164) -/

/-- The target of a RESOLVE, with the operands it uses (R162, R163). -/
inductive Resolution where
  | derived (state : BoardState) (mask : BitVec 12)
  | held (cup : Fin 4)
  | stacked (station : Fin 8) (slot : Nat) (serial : BitVec 16)
  | scrapped
  | lost
deriving DecidableEq, Repr

/-- The board states that RESOLVE can give (R161, check 2). -/
def resolveTarget (code : Nat) : Option BoardState :=
  match BoardState.ofCode code with
  | some .intact => some .intact
  | some .partCut => some .partCut
  | some .free => some .free
  | some .held => some .held
  | some .stacked => some .stacked
  | some .scrapped => some .scrapped
  | some .lost => some .lost
  | _ => none

/-- A cup that a board can be resolved into: EMPTY, or SUSPECT and naming the board (R162). -/
def Cup.takes (c : Cup) (b : BoardRef) : Bool :=
  match c.state with
  | .empty => true
  | .suspect => c.ref == some b
  | .reserved | .loaded | .reservedOut => false

/-- A slot that a board can be resolved into: FREE or SUSPECT (R162). -/
def SlotState.takesBoard : SlotState → Bool
  | .free | .suspect => true
  | .reserved | .occupied | .blocked => false

/-- The checks of the target HELD (R162). -/
def judgeHeld (b : BoardRef) (w1 : Word) (s : State) : Judged Resolution :=
  match asFin 4 (cmdCup w1) with
  | none => .refuse .serviceRange b.refs
  | some c =>
    if (s.cups.get c).takes b then .pass (.held c)
    else .refuse .serviceState (b.refsWithCup (some c))

/-- The checks of the target STACKED (R162). -/
def judgeStacked (b : BoardRef) (w1 : Word) (s : State) : Judged Resolution :=
  match asFin 8 (cmdStation w1) with
  | none => .refuse .serviceRange b.refs
  | some i =>
    let refs := { b.refs with station := some i }
    match (s.stations.get i).magazine with
    | none => .refuse .serviceState refs
    | some m =>
      match m.slots[cmdSlot w1]? with
      | none => .refuse .serviceRange refs
      | some x =>
        if x.takesBoard then .pass (.stacked i (cmdSlot w1) m.serial)
        else .refuse .serviceState { refs with slot := some (cmdSlot w1) }

/-- The checks of a target (R162). -/
def judgeTarget (b : BoardRef) (target : BoardState) (w1 : Word) (l : CacheLine) (s : State) :
    Judged Resolution :=
  match target with
  | .held => judgeHeld b w1 s
  | .stacked => judgeStacked b w1 s
  | .scrapped => .pass .scrapped
  | .lost => .pass .lost
  | .intact | .partCut | .free =>
    if maskWithin (cmdMask w1) l.words.hw.tabs &&
        derivedState l.words.hw.tabs (cmdMask w1) == target then
      .pass (.derived target (cmdMask w1))
    else .refuse .serviceRange b.refs
  | .cutting | .picking | .placing | .discarding | .left | .uncertain =>
    .refuse .serviceRange b.refs

/-- The references of a RESOLVE refused before its position was accepted: the nest (R159;
notes/assumptions/16.md). -/
def resolveRefs (n : Nest) : Refs := { nest := some n }

/-- The judgement of a RESOLVE (R161). -/
def judgeResolve (w1 : Word) (r : Run) : Judged (BoardRef × Resolution) × Run :=
  match Nest.ofCode (cmdNest w1) with
  | none => (.refuse .serviceRange {}, r)
  | some n =>
    match resolveTarget (cmdTarget w1) with
    | none => (.refuse .serviceRange (resolveRefs n), r)
    | some target =>
      let b : BoardRef := ⟨n, cmdPosition w1⟩
      if (r.st.nest n).state.loaded then
        if cmdPosition w1 < r.st.boardCount n then
          fetch b b.refs (fun l r =>
            if l.words.hw.state = .uncertain then
              match judgeTarget b target w1 l r.st with
              | .pass x => (.pass (b, x), r)
              | .refuse cause refs => (.refuse cause refs, r)
              | .abandon => (.abandon, r)
            else (.refuse .serviceState b.refs, r)) r
        else (.refuse .serviceRange (resolveRefs n), r)
      else (.refuse .serviceState (resolveRefs n), r)

/-- The board as a RESOLVE leaves it (R163). -/
def Resolution.board (x : Resolution) (h : BoardHw) : BoardHw :=
  let away := { h with cup := none, placement := none, lastCause := none }
  match x with
  | .derived state mask => { away with state := state, cutMask := mask }
  | .held c => { away with state := .held, cutMask := fullMask h.tabs, cup := some c }
  | .stacked i slot serial =>
    { away with state := .stacked, cutMask := fullMask h.tabs, placement := some ⟨i, slot, serial⟩ }
  | .scrapped => { away with state := .scrapped, cutMask := fullMask h.tabs }
  | .lost => { away with state := .lost, lastCause := some .resolved }

/-- The cups, slots and count that a RESOLVE settles (R164). -/
def Run.settle (r : Run) (b : BoardRef) (x : Resolution) : Run :=
  match x with
  | .held c => r.giveCup c (loadedWith b) b
  | .stacked i slot _ =>
    (((r.dropReferences b none).setSlots i fun slots => slots.set slot .occupied).touchLanes).boardEnded
      b.nest
  | .scrapped => (r.dropReferences b none).boardEnded b.nest
  | .lost => (r.dropReferences b none).boardEnded b.nest
  | .derived _ _ => r.dropReferences b none

/-- The effects of an accepted RESOLVE; the nest summary is queued (R163, R164). -/
def applyResolve (p : BoardRef × Resolution) (r : Run) : Run :=
  let b := p.1
  let r := r.changeBoard b p.2.board
  let r := r.removeEntries (r.st.entriesOf b)
  ((r.settle b p.2).drainTest b.nest).image (.nest b.nest)

/-- RESOLVE (R161 to R164). -/
def execResolve (answers : List MemAnswer) (s : State) : Host.Outcome State Fault Refusal :=
  serviceStep .resolve judgeResolve applyResolve answers s

/-! ### FORGET, CUP_CLEAR (R165, R166) -/

/-- The judgement of a FORGET (R165). -/
def judgeForget (w1 : Word) (s : State) : Judged (Fin 32) :=
  match asFin 32 (cmdEntry w1) with
  | none => .refuse .serviceRange {}
  | some i =>
    if (s.entries.get i).any fun e => !e.inFlight then .pass i
    else .refuse .serviceState { entry := some i }

/-- The effects of an accepted FORGET (R165). -/
def applyForget (i : Fin 32) (r : Run) : Run :=
  match r.st.entries.get i with
  | none => r
  | some e => (r.removeEntries [i]).drainTest e.board.nest

/-- FORGET (R165). -/
def execForget (answers : List MemAnswer) (s : State) : Host.Outcome State Fault Refusal :=
  serviceStep .forget (judging judgeForget) applyForget answers s

/-- The judgement of a CUP_CLEAR (R166). -/
def judgeCupClear (w1 : Word) (s : State) : Judged (Fin 4) :=
  match asFin 4 (cmdCup w1) with
  | none => .refuse .serviceRange {}
  | some c =>
    match (s.cups.get c).state with
    | .suspect => .pass c
    | .empty => .pass c
    | .reserved | .loaded | .reservedOut => .refuse .serviceState (cupRefs c)

/-- A SUSPECT cup becomes EMPTY and its reference is dropped; an EMPTY one is left as it is (R166). -/
def applyCupClear (c : Fin 4) (r : Run) : Run :=
  if (r.st.cups.get c).state = .suspect then r.setCup c ⟨.empty, none⟩ else r

/-- CUP_CLEAR (R166). -/
def execCupClear (answers : List MemAnswer) (s : State) : Host.Outcome State Fault Refusal :=
  serviceStep .cupClear (judging judgeCupClear) applyCupClear answers s

/-! ### CELL_CLEAR (R167, R168) -/

/-- The boards named by OPEN or HALF entries, in list order (R167). -/
def State.boardsInFlight (s : State) : List BoardRef :=
  (s.order.filterMap fun i =>
    (s.entries.get i).bind fun e => if e.inFlight then some e.board else none).eraseDups

/-- A cup after CELL_CLEAR (R168, step 1). -/
def Cup.cleared (c : Cup) : Cup :=
  match c.state with
  | .reserved => { c with state := .suspect }
  | .reservedOut => { c with state := .suspect }
  | .empty => c
  | .loaded => c
  | .suspect => c

/-- A slot after CELL_CLEAR (R168, step 2). -/
def SlotState.cleared : SlotState → SlotState
  | .reserved => .suspect
  | .free => .free
  | .occupied => .occupied
  | .blocked => .blocked
  | .suspect => .suspect

/-- A station's slots after CELL_CLEAR, where one was RESERVED (R168, step 2). -/
def Run.clearStation (r : Run) (i : Fin 8) : Run :=
  if (r.st.stations.get i).slots.contains .reserved then
    r.setSlots i fun slots => slots.map SlotState.cleared
  else r

/-- The effects of a CELL_CLEAR; the image of every entry is queued, in use or free (R167, R168). -/
def applyCellClear (_ : Unit) (r : Run) : Run :=
  let boards := r.st.boardsInFlight
  let r := boards.foldl (fun r b => r.changeBoard b (BoardHw.lostTrack .cleared)) r
  let r := r.removeEntries r.st.order
  let r := (List.finRange 32).foldl (fun r i => r.image (.entry i)) r
  let r := (List.finRange 4).foldl (fun r c => r.setCup c (r.st.cups.get c).cleared) r
  let r := (List.finRange 8).foldl Run.clearStation r
  let r := ((List.finRange 16).foldl (fun r l => r.setPending l 0) r).touchLanes
  let r := (r.drainTest .a).drainTest .b
  if boards.isEmpty then r else r.raise .uncertain

/-- CELL_CLEAR (R167, R168). -/
def execCellClear (answers : List MemAnswer) (s : State) : Host.Outcome State Fault Refusal :=
  serviceStep .cellClear (judging fun _ _ => Judged.pass ()) applyCellClear answers s

/-! ### TRIAL service commands (R159) -/

/-- A service command judged by its kind, without its effects. -/
def trialService {α : Type} (judge : Word → Run → Judged α × Run) (t : Tag) (q : Request) (r : Run) :
    Ack × Run :=
  servePost .service judge (fun q _ r => grantTrial .service [] none q r) t q r

/-- A TRIAL service command by its kind (R159). -/
def serveTrialService (t : Tag) (q : Request) (r : Run) : Ack × Run :=
  match serviceKind (ringKind q.data) with
  | none => (.hard, r)
  | some .nestStop => trialService (judging judgeNestStop) t q r
  | some .nestResume => trialService (judging judgeNestResume) t q r
  | some .nestSync => trialService (judging judgeNestSync) t q r
  | some .nestRelease => trialService (judging judgeNestRelease) t q r
  | some .laneStop => trialService (judging judgeLaneStop) t q r
  | some .laneResume => trialService (judging judgeLaneResume) t q r
  | some .stationReset => trialService (judging judgeStationReset) t q r
  | some .slotSet => trialService (judging judgeSlotSet) t q r
  | some .resolve => trialService judgeResolve t q r
  | some .forget => trialService (judging judgeForget) t q r
  | some .cupClear => trialService (judging judgeCupClear) t q r
  | some .cellClear => trialService (judging fun _ _ => Judged.pass ()) t q r

/-- Whether a request is a post of a service kind with the TRIAL flag. -/
def isTrialService (q : Request) : Bool :=
  q.cls == .service && (serviceKind (ringKind q.data)).isSome && ringTrial q.data

/-- TRIAL_SERVICE_COMMAND (R159). -/
def execTrialServiceCommand (answers : List MemAnswer) (s : State) :
    Host.Outcome State Fault Refusal :=
  heldStep isTrialService serveTrialService answers s

end Sys2Proof.Machine
end

