-- ==== Sys2Proof/Machine/Dispatch.lean ====
section
/-! DEFINITION. One arm for each command: what it does to everything but the queue. -/

namespace Sys2Proof.Machine

/-- The effect of a command. -/
def exec (i : Instr) (s : State) : Host.Outcome State Fault Refusal :=
  match i with
  | .resetN => Sys2Proof.Machine.execResetN s
  | .timebase => Sys2Proof.Machine.execTimebase s
  | .misalignedCycle c => Sys2Proof.Machine.execMisalignedCycle c s
  | .passRead tag addr size => Sys2Proof.Machine.execPassRead tag addr size s
  | .boardTableRead tag addr size => Sys2Proof.Machine.execBoardTableRead tag addr size s
  | .passWrite tag addr size data => Sys2Proof.Machine.execPassWrite tag addr size data s
  | .guardRefusal c => Sys2Proof.Machine.execGuardRefusal c s
  | .pathRefusal tag addr size data => Sys2Proof.Machine.execPathRefusal tag addr size data s
  | .heldWrite tag addr size data => Sys2Proof.Machine.execHeldWrite tag addr size data s
  | .portCycle visits hard => Sys2Proof.Machine.execPortCycle visits hard s
  | .rootRecordLoad answers => Sys2Proof.Machine.execRootRecordLoad answers s
  | .cut answers => Sys2Proof.Machine.execCut answers s
  | .pick answers => Sys2Proof.Machine.execPick answers s
  | .place answers => Sys2Proof.Machine.execPlace answers s
  | .discard answers => Sys2Proof.Machine.execDiscard answers s
  | .trialCommand answers => Sys2Proof.Machine.execTrialCommand answers s
  | .nestStop answers => Sys2Proof.Machine.execNestStop answers s
  | .nestResume answers => Sys2Proof.Machine.execNestResume answers s
  | .nestSync answers => Sys2Proof.Machine.execNestSync answers s
  | .nestRelease answers => Sys2Proof.Machine.execNestRelease answers s
  | .laneStop answers => Sys2Proof.Machine.execLaneStop answers s
  | .laneResume answers => Sys2Proof.Machine.execLaneResume answers s
  | .stationReset answers => Sys2Proof.Machine.execStationReset answers s
  | .slotSet answers => Sys2Proof.Machine.execSlotSet answers s
  | .resolve answers => Sys2Proof.Machine.execResolve answers s
  | .forget answers => Sys2Proof.Machine.execForget answers s
  | .cupClear answers => Sys2Proof.Machine.execCupClear answers s
  | .cellClear answers => Sys2Proof.Machine.execCellClear answers s
  | .trialServiceCommand answers => Sys2Proof.Machine.execTrialServiceCommand answers s
  | .cutEnd answers => Sys2Proof.Machine.execCutEnd answers s
  | .pickEnd answers => Sys2Proof.Machine.execPickEnd answers s
  | .discardEnd answers => Sys2Proof.Machine.execDiscardEnd answers s
  | .placeEnd answers => Sys2Proof.Machine.execPlaceEnd answers s
  | .presentEnd answers => Sys2Proof.Machine.execPresentEnd answers s
  | .arrived answers => Sys2Proof.Machine.execArrived answers s
  | .removed answers => Sys2Proof.Machine.execRemoved answers s
  | .expiry => Sys2Proof.Machine.execExpiry s
  | .pairExpiry => Sys2Proof.Machine.execPairExpiry s
  | .captureRelease => Sys2Proof.Machine.execCaptureRelease s
  | .flagClear => Sys2Proof.Machine.execFlagClear s
  | .boardEdit answers => Sys2Proof.Machine.execBoardEdit answers s
  | .walkerJobStart => Sys2Proof.Machine.execWalkerJobStart s
  | .loadJobEnd => Sys2Proof.Machine.execLoadJobEnd s
  | .syncJobEnd => Sys2Proof.Machine.execSyncJobEnd s
  | .releaseJobEnd => Sys2Proof.Machine.execReleaseJobEnd s
  | .loadCompletion => Sys2Proof.Machine.execLoadCompletion s
  | .syncCompletion => Sys2Proof.Machine.execSyncCompletion s
  | .releaseCompletion => Sys2Proof.Machine.execReleaseCompletion s
  | .badKindPost answers => Sys2Proof.Machine.execBadKindPost answers s
  | .reportKindMismatch answers => Sys2Proof.Machine.execReportKindMismatch answers s

end Sys2Proof.Machine
end

