-- ==== Sys2Proof/Safety.lean ====
section
/-! DEFINITION. What claims speak about: a step that does not stop, the states that runs from reset
reach, and the conditions on a state that every step is to keep. -/

namespace Sys2Proof.Machine

/-- A step does not stop the machine. -/
def Runs (s : State) : Prop := ∃ t, step s = .next t

/-- The states that a run from RESET_N reaches, whatever commands the outside world queues. -/
inductive Reachable : State → Prop
  | reset : Reachable State.reset
  | command (s : State) (c : Instr) : Reachable s → Reachable { s with pending := s.pending ++ [c] }
  | step (s t : State) : Reachable s → step s = .next t → Reachable t

/-- A condition that every step keeps, from whatever state meets it. -/
def KeptByStep (P : State → Prop) : Prop := ∀ s t, P s → step s = .next t → P t

/-- Cell memory is in its canonical form. -/
def MemoryCanonical (s : State) : Prop := Memory.wf s.mem

/-- The CAPTURE flag of a source is set exactly while its capture is HELD (R178). -/
def FlagsMirrorCaptures (s : State) : Prop :=
  ∀ src, s.flag (.capture src) = (s.captureOf src).isSome

/-- In OPEN_PATH mode no image waits, no capture is taken and no flag is set (R4). -/
def OpenPathSilent (s : State) : Prop :=
  s.mode = .openPath → s.images = [] ∧ s.flags = 0 ∧ ∀ src, s.captureOf src = none

/-- A lane waits for the end of its current station. -/
def Lane.stopsAtStationEnd (l : Lane) : Bool := l.stop.any fun q => q.condition == .atStationEnd

/-- The lanes have settled: an OPEN lane has a usable station, and its current one is usable while a
stop waits for that station's end; an EXHAUSTED lane has no usable station and no such stop (R141,
R144). -/
def LanesSettled (s : State) : Prop :=
  ∀ i, let l := s.lanes.get i
    (l.state = .isOpen → s.someUsable l = true ∧ (l.stopsAtStationEnd = true → s.currentUsable l = true)) ∧
    (l.state = .exhausted → s.someUsable l = false ∧ l.stopsAtStationEnd = false)

/-- The list of the OCT holds each entry in use once and no other, and only entries in use are due
(R106, R110). -/
def TableListed (s : State) : Prop :=
  s.order.Nodup ∧ s.due.Nodup ∧ (∀ i, i ∈ s.order ↔ (s.entries.get i).isSome) ∧
    ∀ i ∈ s.due, i ∈ s.order

/-- Only OPEN and HALF entries are due: the mark goes when the entry expires or is removed (R110). -/
def DueInFlight (s : State) : Prop :=
  ∀ i ∈ s.due, ∃ e, s.entries.get i = some e ∧ e.inFlight = true

/-- The command ring that a kind is posted on (R77, R105). -/
def EntryKind.ring : EntryKind → CmdRing
  | .cut => .router
  | .pick | .place | .discard => .picker
  | .present => .stacker

/-- Each entry stands for its kind's ring, and the two entries of a pair in flight name each other: a PLACE with
a cup and a PRESENT without one, of one state, one board and one destination (R85, R105). -/
def PairsLinked (s : State) : Prop :=
  ∀ i e, s.entries.get i = some e → e.ring = e.kind.ring ∧
    (e.inFlight = true → e.kind = .place ∨ e.kind = .present →
      ∃ j f, e.partner = some j ∧ s.entries.get j = some f ∧ f.partner = some i ∧
        f.kind = (if e.kind = .place then .present else .place) ∧ f.state = e.state ∧
        f.board = e.board ∧ f.dest = e.dest ∧ e.dest.isSome = true ∧
        (e.cup.isSome = true ↔ e.kind = .place))

/-- The OCT is in order: its list holds the entries in use, only entries in flight are due, and pairs in flight
are linked. A request that clears or resolves reaches a pair whole through the list, and an expiry only an entry
in flight (R85, R105, R106, R110). -/
def TableInOrder (s : State) : Prop := TableListed s ∧ DueInFlight s ∧ PairsLinked s

/-- The recency order of the Board Cache holds each valid entry once and no other (R42). -/
def RecencyListed (s : State) : Prop :=
  s.recency.Nodup ∧ ∀ i, i ∈ s.recency ↔ (s.cache.get i).isSome

/-- The places in the part where a cycle of a tag can be: at the pass-through source, at the arbiter, waiting for
the images of a guard or path refusal, and ended by the Engine but for its images (R16 to R18, R183). -/
def State.placesOf (s : State) (tag : Tag) : List Bool :=
  [ (s.pass.get tag).isSome, (s.requests.get tag).isSome, s.waits.any fun w => w.tag == tag,
    match s.engine with
    | .finishing w => w.tag == tag
    | .idle => false
    | .serving _ => false ]

/-- A tag has one cycle in the part at most, in one place, and while it has one its master waits (R1, R2). -/
def OneCyclePerTag (s : State) : Prop :=
  (s.waits.map fun w => w.tag).Nodup ∧
    ∀ tag, (s.placesOf tag).count true ≤ 1 ∧
      (true ∈ s.placesOf tag → s.masters.get tag = .waiting)

/-! ### Memory's answers to the Engine's cycles -/

/-- Memory answers the first `n` of the Engine's cycles DONE. -/
def Answered (answers : List MemAnswer) (n : Nat) : Prop := ∀ a ∈ answers.take n, a.hard = false

/-- The state in which the Engine's next cycle has been answered, but for what a write among its cycles
stores: everything that goes on beside the request until then has taken place (R20, R186). -/
def State.awaitNext (s : State) (answers : List MemAnswer) : State := s.await (nextAnswer answers)

/-- The state after `n` reads of the Engine. -/
def State.waited (s : State) (answers : List MemAnswer) : Nat → State
  | 0 => s
  | n + 1 => (s.awaitNext answers).waited answers.tail n

/-- The words that `n` reads of the Engine return, from an address on: each as memory holds it when the
read is granted (R186). -/
def State.wordsRead (s : State) (answers : List MemAnswer) (a : Nat) : Nat → List Word
  | 0 => []
  | n + 1 =>
    Memory.readWord (s.awaitNext answers).mem a ::
      (s.awaitNext answers).wordsRead answers.tail (a + 8) n

/-- The state after one write of the Engine that memory has answered DONE. -/
def State.wrote (s : State) (answers : List MemAnswer) (p : Nat × Word) : State :=
  { s.awaitNext answers with mem := Memory.writeBytes (s.awaitNext answers).mem p.1 p.2 8 }

/-- The state after writes of the Engine that memory has answered DONE, in order. -/
def State.wroteAll (s : State) (answers : List MemAnswer) : List (Nat × Word) → State
  | [] => s
  | p :: ws => (s.wrote answers p).wroteAll answers.tail ws

end Sys2Proof.Machine
end

