-- ==== Sys2Proof/Certificates/Slice0/Obligations.lean ====
section
/-! DEFINITION. The statements about the part, for the provers, and the words they are written in. -/

namespace Sys2Proof.Claims

open Sys2Proof.Machine

/-! ### A request in the Engine's hands -/

/-- Word 1 of the record a request was posted for, as its first read finds it. -/
def word1 (s : State) (answers : List MemAnswer) (q : Request) : Word :=
  Memory.readWord (s.awaitNext answers).mem (q.word 1)

/-- `t` is `s` but for what goes on beside a request of the Engine: cycles that arrive, wait and are
answered, with the captures and flags they raise; the image queue; the walker with its queue, the marks
of the cache and the Type Stores; time with its due marks; and cell memory. -/
def OnlyBeside (s t : State) : Prop :=
  (t = { s with
    masters := t.masters, waits := t.waits, pass := t.pass, passLast := t.passLast
    requests := t.requests, portLast := t.portLast, images := t.images, cache := t.cache
    recency := t.recency, walker := t.walker, jobs := t.jobs, nestA := t.nestA, nestB := t.nestB
    due := t.due, time := t.time, flags := t.flags, captures := t.captures, lastGuard := t.lastGuard
    published := t.published, mem := t.mem }) ∧
  ∀ n, t.nest n = { s.nest n with types := (t.nest n).types }

/-- `t` is `s` but for what goes on beside a request that looks no board up: beyond `OnlyBeside`, an entry
that stays in the cache keeps its board and the words of its record, none becomes more recent than another,
and a Type Store changes only under a LOAD job of its nest that runs or waits (R42, R49, R53, R60). -/
structure Undisturbed (s t : State) : Prop where
  beside  : OnlyBeside s t
  cache   : ∀ i l', t.cache.get i = some l' →
    ∃ l, s.cache.get i = some l ∧ l.board = l'.board ∧ l.words = l'.words
  recency : t.recency.Sublist s.recency
  types   : ∀ n, (t.nest n).types = (s.nest n).types ∨
    (∃ j d, s.walker = .running j ∧ j.job = .load n d) ∨ ∃ d, .load n d ∈ s.jobs

/-- The state in which memory has answered one write of a list HARD: those before it are in memory, those
after it are not issued (R19). -/
def brokenOff (s : State) (answers : List MemAnswer) (writes : List (Nat × Word)) (k : Nat) : State :=
  (s.wroteAll answers (writes.take k)).awaitNext (answers.drop k)

/-- The cursors with one ring's moved to its next slot (R79). -/
def advanced (s : State) (ring : CmdRing) : Cursors :=
  s.cursors.set ring ((s.ring ring).after (s.cursor ring))

/-- The Engine has in hand a post at the cursor of a ring, on a slot that no entry names (R82). -/
structure Posted (s : State) (ring : CmdRing) (tag : Tag) (q : Request) : Prop where
  guarded  : s.mode = .guarded
  inHand   : s.heldInHand = some (tag, q)
  cls      : q.cls = postClass ring
  atCursor : (s.ring ring).slotOf q.addr.toNat = some (s.cursor ring)
  unnamed  : s.slotNamed ring (s.cursor ring) = false
  sized    : 16 ≤ (s.ring ring).slots

/-- The Engine has in hand a report. -/
structure Reported (s : State) (ring : RepRing) (tag : Tag) (q : Request) : Prop where
  guarded : s.mode = .guarded
  inHand  : s.heldInHand = some (tag, q)
  cls     : q.cls = .report ring

/-- A request has ended with images to come: `t` is `u` with the request gone, its acknowledge waiting for
the images of `changed` and no others, and those in the queue (R183). -/
def Ends (u t : State) (tag : Tag) (ack : Ack) (changed : List ImageId) : Prop :=
  ∃ waits images,
    t = { u with
      images := images
      requests := u.requests.set tag none
      engine := .finishing ⟨tag, ack, waits⟩ } ∧
    (∀ id, id ∈ waits ↔ id ∈ changed) ∧ (∀ id, id ∈ images ↔ id ∈ u.images ∨ id ∈ changed)

/-- A request has ended without an image: it is acknowledged, and the Engine takes the next one. -/
def EndsAtOnce (u t : State) (tag : Tag) (ack : Ack) : Prop :=
  t = State.takeNext { u with
    requests := u.requests.set tag none
    masters := u.masters.set tag (.answered ack none)
    engine := .idle }

/-- A refusal under a source has been taken by the Condition Unit: SOFT with the capture filled, or HARD
with the source's HARD flag set (R173, R174). -/
def Refused (u t : State) (tag : Tag) (src : Source) (capture : Capture) : Prop :=
  match u.captureOf src with
  | none =>
    Ends { u with
      captures := u.captures.set src.idx (some capture)
      flags := u.flags ||| (Flag.capture src).bits } t tag .soft [.capture src, .status]
  | some _ => Ends { u with flags := u.flags ||| (Flag.hard src).bits } t tag .hard [.status]

/-- A cycle of the Engine has failed: MEMORY is raised, and the request is answered HARD (R19, R180). -/
def Abandoned (u t : State) (tag : Tag) : Prop :=
  if u.flag .memory then EndsAtOnce u t tag .hard
  else Ends { u with flags := u.flags ||| Flag.memory.bits } t tag .hard [.status]

/-- The row that serves a post of a kind on a ring, with or without the TRIAL flag. -/
def postRow (ring : CmdRing) (data : Word) (answers : List MemAnswer) : Option Instr :=
  match ring, ringTrial data with
  | .service, true => (serviceKind (ringKind data)).map fun _ => .trialServiceCommand answers
  | .service, false => (serviceKind (ringKind data)).map fun k =>
    match k with
    | .nestStop => .nestStop answers
    | .nestResume => .nestResume answers
    | .nestSync => .nestSync answers
    | .nestRelease => .nestRelease answers
    | .laneStop => .laneStop answers
    | .laneResume => .laneResume answers
    | .stationReset => .stationReset answers
    | .slotSet => .slotSet answers
    | .resolve => .resolve answers
    | .forget => .forget answers
    | .cupClear => .cupClear answers
    | .cellClear => .cellClear answers
  | _, true => (physicalKind ring (ringKind data)).map fun _ => .trialCommand answers
  | _, false => (physicalKind ring (ringKind data)).map fun k =>
    match k with
    | .cut => .cut answers
    | .pick => .pick answers
    | .place => .place answers
    | .discard => .discard answers

/-- The row that serves a post, BAD_KIND_POST where the kind is not the ring's (R82). -/
def servedBy (ring : CmdRing) (data : Word) (answers : List MemAnswer) : Instr :=
  (postRow ring data answers).getD (.badKindPost answers)

/-- A post ends refused. In the state `v` that its checks judged, word 3 takes the verdict with the time; the
refusal goes through the PROC capture rule with the references it reached, and a TRIAL is answered SOFT
without a capture. If memory answers the verdict's write HARD, the post is abandoned and leaves no capture
(R84, R101, R102, R159, R160). -/
def PostRefused (c : Instr) (s v : State) (tag : Tag) (q : Request) (rest : List MemAnswer) (cause : Cause)
    (refs : Refs) : Prop :=
  let u := v.wrote rest (q.word 3, verdictRefused cause v.time)
  ∃ t, exec c s = .next t ∧
    if (nextAnswer rest).hard = true then Abandoned (v.awaitNext rest) t tag
    else if ringTrial q.data = true then EndsAtOnce u t tag .soft
    else Refused u t tag .proc ⟨cause, none, some ⟨tag, .write, q.addr⟩, refs, u.time⟩

/-- A cause is that of the first check of an ordered table that does not hold. -/
def FirstFails : List (Prop × Cause) → Cause → Prop
  | [], _ => False
  | (holds, name) :: rest, cause => (¬holds ∧ cause = name) ∨ (holds ∧ FirstFails rest cause)

/-- Every check of an ordered table holds. -/
def AllHold : List (Prop × Cause) → Prop
  | [] => True
  | (holds, _) :: rest => holds ∧ AllHold rest

/-- The row that serves a report of a kind on a ring. -/
def reportRow (ring : RepRing) (data : Word) (answers : List MemAnswer) : Instr :=
  match reportKind ring (ringKind data) with
  | none => .reportKindMismatch answers
  | some .cutEnd => .cutEnd answers
  | some .pickEnd => .pickEnd answers
  | some .placeEnd => .placeEnd answers
  | some .discardEnd => .discardEnd answers
  | some .presentEnd => .presentEnd answers
  | some .arrived => .arrived answers
  | some .removed => .removed answers

/-- The tag of the cycle that a row brings, for the rows that bring one. -/
def cycleTag : Instr → Option Tag
  | .misalignedCycle c => some c.tag
  | .guardRefusal c => some c.tag
  | .passRead t _ _ => some t
  | .boardTableRead t _ _ => some t
  | .passWrite t _ _ _ => some t
  | .pathRefusal t _ _ _ => some t
  | .heldWrite t _ _ _ => some t
  | _ => none

/-- A board's record is found by a lookup made in state `u`: `v` is the state after it, and `rest` the
answers that are left (R44). -/
def Fetched (u : State) (answers : List MemAnswer) (b : BoardRef) (l : CacheLine) (v : State)
    (rest : List MemAnswer) : Prop :=
  Run.lookup (Run.start u answers) b = (.found l, Run.start v rest)

/-- A fill that a lookup made in state `u` has failed: memory has answered one of its cycles HARD, which raises
MEMORY; `v` is the state after that cycle, but for the flag (R44, R46). -/
def FillFails (u : State) (answers : List MemAnswer) (b : BoardRef) (v : State) (rest : List MemAnswer) :
    Prop :=
  Run.lookup (Run.start u answers) b = (.failed, (Run.start v rest).raise .memory)

/-- A running SYNC job of the board's nest has passed the entry that holds its record, or has that entry in
write-back (R49, R55, R56). -/
def Passed (u : State) (j : RunningJob) (b : BoardRef) : Prop :=
  j.job = .sync b.nest ∧ ∃ i l, u.lineOf b = some i ∧ u.cache.get i = some l ∧
    (i.val < j.scan ∨ l.writeBack = true)

/-- How the walker takes the change of the records of some boards: a running SYNC job that has passed one of
them has its re-dirtied mark set, and it is unchanged otherwise (R49, R56). -/
structure Told (u t : State) (changed : BoardRef → Prop) : Prop where
  passed : ∀ j b, u.walker = .running j → changed b → Passed u j b →
    t.walker = .running { j with redirtied := true }
  still  : (∀ j b, u.walker = .running j → changed b → ¬Passed u j b) → t.walker = u.walker

/-- The record that the cache of `u` holds for a board has its hardware words rewritten to given fields, with
the time of the change; its entry is dirty and the most recent, no other record has changed, and the walker
is told (R31, R42, R49, R56). -/
structure Rewritten (u t : State) (b : BoardRef) (l : CacheLine) (h : BoardHw) : Prop where
  board   : t.cached b = some { l with words := l.words.withHw { h with time := u.time }, dirty := true }
  others  : ∀ b', b' ≠ b → t.cached b' = u.cached b'
  recency : ∀ i, u.lineOf b = some i → t.recency = i :: u.recency.erase i
  walker  : Told u t (· = b)

/-- As `Ends`, where the images are known within bounds: those of `must` are among them, and they are among
those of `may`. -/
def Ended (u t : State) (tag : Tag) (must may : List ImageId) : Prop :=
  ∃ changed, (∀ id ∈ must, id ∈ changed) ∧ (∀ id ∈ changed, id ∈ may) ∧ Ends u t tag .done changed

/-- An expiry or a walker completion has ended: `t` is `u` with the images of `changed` queued and no others,
and the Engine takes the next request (R183). -/
def EndsInternally (u t : State) (changed : List ImageId) : Prop :=
  ∃ images, t = State.takeNext { u with images := images, engine := .idle } ∧
    ∀ id, id ∈ images ↔ id ∈ u.images ∨ id ∈ changed

/-- As `EndsInternally`, where the images are known within bounds. -/
def EndedInternally (u t : State) (must may : List ImageId) : Prop :=
  ∃ changed, (∀ id ∈ must, id ∈ changed) ∧ (∀ id ∈ changed, id ∈ may) ∧ EndsInternally u t changed

/-! ### The checks of the physical commands -/

/-- The cause with which the nest checks refuse a CUT or a PICK (R86). -/
def NestRefuses (s : State) (w1 : Word) (cause : Cause) : Prop :=
  match Nest.ofCode (cmdNest w1) with
  | none => cause = .positionRange
  | some n =>
    match (s.nest n).state with
    | .empty => cause = .nestEmpty
    | .loading => cause = .nestLoading
    | .illegal => cause = .nestIllegal
    | .stopping => cause = .nestStopped
    | .stopped => cause = .nestStopped
    | .complete => cause = .nestComplete
    | .releasing => cause = .nestReleasing
    | .active => s.boardCount n ≤ cmdPosition w1 ∧ cause = .positionRange

/-- A physical command passes the checks before its board is fetched: a CUT or PICK those of the nest, a PLACE
or DISCARD those of the cup (R86, R92, R98). -/
def FetchesBoard (s : State) (kind : Physical) (w1 : Word) (b : BoardRef) : Prop :=
  match kind with
  | .cut | .pick =>
    Nest.ofCode (cmdNest w1) = some b.nest ∧ cmdPosition w1 = b.pos ∧ (s.nest b.nest).state = .active ∧
      b.pos < s.boardCount b.nest
  | .place | .discard => ∃ c : Fin 4, cmdCup w1 = c.val ∧ s.cups.get c = ⟨.loaded, some b⟩

/-- No entry of the table names a board. -/
def Unnamed (s : State) (b : BoardRef) : Prop := ∀ i e, s.entries.get i = some e → e.board ≠ b

/-- An entry of the table is free. -/
def RoomForOne (s : State) : Prop := ∃ i, s.entries.get i = none

/-- Two entries of the table are free. -/
def RoomForTwo (s : State) : Prop := ∃ i j, i ≠ j ∧ s.entries.get i = none ∧ s.entries.get j = none

/-- A board that is away from its nest or on its way (R87, R90). -/
def Away (x : BoardState) : Prop :=
  x = .picking ∨ x = .held ∨ x = .placing ∨ x = .discarding ∨ x = .stacked ∨ x = .scrapped ∨ x = .lost

/-- The checks of a CUT on its board, in order (R87). -/
def cutTable (s : State) (l : CacheLine) (w1 : Word) : List (Prop × Cause) :=
  let h := l.words.hw
  let span := cmdSpan w1
  [ (Unnamed s l.board, .boardBusy),
    (s.effectiveHold l ≠ .locked, .holdLocked),
    (h.state ≠ .left, .xoutLeft),
    (h.state ≠ .uncertain, .boardUncertain),
    (¬Away h.state, .boardGone),
    (h.state ≠ .free, .nothingToCut),
    (1 ≤ span.count ∧ span.first + span.count ≤ h.tabs, .spanInvalid),
    (∃ k, span.first ≤ k ∧ k < span.first + span.count ∧ tabCut h.cutMask k = false, .nothingToCut),
    ((s.nest l.board.nest).claim ≠ .picker, .nestClaimed),
    (RoomForOne s, .tableFull) ]

/-- The checks of a PICK before its cup is known, in order (R90). -/
def pickTable (s : State) (l : CacheLine) (w1 : Word) : List (Prop × Cause) :=
  let h := l.words.hw
  [ (Unnamed s l.board, .boardBusy),
    (s.effectiveHold l ≠ .locked, .holdLocked),
    (s.effectiveHold l ≠ .cutOnly, .holdCutOnly),
    (s.effectiveHold l ≠ .confirm, .holdConfirm),
    (h.state ≠ .left, .xoutLeft),
    (h.state ≠ .uncertain, .boardUncertain),
    (¬Away h.state, .boardGone),
    (h.state ≠ .intact ∧ h.state ≠ .partCut, .notFree),
    (cmdCup w1 < 4, .cupRange) ]

/-- The checks of a PICK from its cup's state on, in order (R39, R90). -/
def pickCupTable (s : State) (n : Nest) (c : Fin 4) : List (Prop × Cause) :=
  let cup := (s.cups.get c).state
  [ (cup ≠ .reserved ∧ cup ≠ .loaded ∧ cup ≠ .reservedOut, .cupBusy),
    (cup ≠ .suspect, .cupSuspect),
    ((s.nest n).claim ≠ .router, .nestClaimed),
    (RoomForOne s, .tableFull) ]

/-- The checks of a PLACE on its board's grade (R92). -/
def placeGradeTable (s : State) (l : CacheLine) : List (Prop × Cause) :=
  [ (¬(boardGrade l.words.w1 = some .xout ∧ s.policy l.board.nest = some .discard), .xoutDiscard) ]

/-- The checks of a PLACE from its lane on, in order (R92, R94); no lane fits a grade code that names none
(notes/assumptions/15.md). -/
def placeLaneTable (s : State) (l : CacheLine) (w1 : Word) : List (Prop × Cause) :=
  let grade := boardGrade l.words.w1
  let own := s.effectiveLane l
  let lane := s.lanes.get own
  [ (cmdLane w1 = laneAuto ∨ cmdLane w1 = own.val, .laneMismatch),
    ((grade = some .good ∧ lane.kind = .normal) ∨
      ((grade = some .reject ∨ grade = some .xout) ∧ lane.kind = .reject), .laneKind),
    (lane.state ≠ .closed, .laneClosed),
    (lane.state ≠ .paused, .lanePaused),
    (lane.state ≠ .stopped, .laneStopped),
    (lane.state ≠ .exhausted, .laneExhausted),
    (∀ i e, s.entries.get i = some e → ¬(e.ring = .stacker ∧ e.slot = s.cursor .stacker),
      .stackerRingFull),
    (RoomForTwo s, .tableFull) ]

/-- The checks of a DISCARD on its board, in order (R98); a grade code that names none is not GOOD
(notes/assumptions/15.md). -/
def discardTable (s : State) (l : CacheLine) : List (Prop × Cause) :=
  [ (boardGrade l.words.w1 ≠ some .good, .goodBoard), (RoomForOne s, .tableFull) ]

/-- The causes with which the state of its nest refuses a command whose board no entry holds (R44). -/
def NotCachedRefuses (x : NestState) (cause : Cause) : Prop :=
  (x = .empty ∧ cause = .nestEmpty) ∨ (x = .loading ∧ cause = .nestLoading) ∨
    (x = .illegal ∧ cause = .nestIllegal) ∨ (x = .releasing ∧ cause = .nestReleasing)

/-! ### Accepted service commands -/

/-- A service command that passes its checks without a lookup, up to its effects: the verdict and word 0
are written and the service cursor has advanced (R158). -/
def accepted (s : State) (answers : List MemAnswer) (q : Request) : State :=
  let v := s.waited answers 3
  { v.wroteAll (answers.drop 3) [(q.word 3, verdictAdmitted none v.time), (q.word 0, q.data)] with
    cursors := advanced s .service }

/-- A physical command judged in full, as a post of its kind is: the run after its lookup, with the
destination of a PLACE, if every check passes (R100). -/
def physicalPasses (kind : Physical) (w1 : Word) (r : Run) : Option (Option Selection × Run) :=
  match kind with
  | .cut => match judgeCut w1 r with
    | (.pass _, r) => some (none, r)
    | _ => none
  | .pick => match judgePick w1 r with
    | (.pass _, r) => some (none, r)
    | _ => none
  | .place => match judgePlace w1 r with
    | (.pass p, r) => some (some p.sel, r)
    | _ => none
  | .discard => match judgeDiscard w1 r with
    | (.pass _, r) => some (none, r)
    | _ => none

/-- Whether a service command other than RESOLVE passes the checks of its kind (R159). -/
def servicePasses (kind : ServiceKind) (w1 : Word) (s : State) : Prop :=
  match kind with
  | .nestStop => ∃ n, judgeNestStop w1 s = .pass n
  | .nestResume => ∃ n, judgeNestResume w1 s = .pass n
  | .nestSync => ∃ n, judgeNestSync w1 s = .pass n
  | .nestRelease => ∃ n, judgeNestRelease w1 s = .pass n
  | .laneStop => ∃ x, judgeLaneStop w1 s = .pass x
  | .laneResume => ∃ l, judgeLaneResume w1 s = .pass l
  | .stationReset => ∃ i, judgeStationReset w1 s = .pass i
  | .slotSet => ∃ x, judgeSlotSet w1 s = .pass x
  | .resolve => False
  | .forget => ∃ i, judgeForget w1 s = .pass i
  | .cupClear => ∃ c, judgeCupClear w1 s = .pass c
  | .cellClear => True

/-- A SYNC job of a nest is queued, runs, or has its completion waiting (R71). -/
def SyncExists (s : State) (n : Nest) : Prop :=
  .sync n ∈ s.jobs ∨ (∃ j, s.walker = .running j ∧ j.job = .sync n) ∨
    ∃ clean failed, s.walker = .waiting (.sync n clean failed)

/-- An OPEN or HALF pair is in place at a station (R153). -/
def PairAt (s : State) (i : Fin 8) : Prop :=
  ∃ j e d, s.entries.get j = some e ∧ e.inFlight = true ∧ (e.kind = .place ∨ e.kind = .present) ∧
    e.dest = some d ∧ d.station = i ∧ s.inPlace d = true

/-- A state code that RESOLVE takes as its target (R161). -/
def TargetNamed (code : Nat) : Prop :=
  ∃ x ∈ [BoardState.intact, .partCut, .free, .held, .stacked, .scrapped, .lost], code = x.code

/-- A RESOLVE passes the checks before its board is looked up (R161). -/
def ResolveLooksUp (s : State) (w1 : Word) (b : BoardRef) : Prop :=
  Nest.ofCode (cmdNest w1) = some b.nest ∧ cmdPosition w1 = b.pos ∧ TargetNamed (cmdTarget w1) ∧
    (s.nest b.nest).state.loaded = true ∧ b.pos < s.boardCount b.nest

/-! ### Nests, stations and lanes after a request -/

/-- A nest after one of its boards has become terminal (R65). -/
def countedDown (c : NestContext) : NestContext :=
  match c.state with
  | .active | .stopping | .stopped =>
    if c.remaining ≤ 1 then { c with remaining := 0, state := .complete }
    else { c with remaining := c.remaining - 1 }
  | .complete => { c with remaining := c.remaining - 1 }
  | .empty | .loading | .illegal | .releasing => c

/-- A nest after the drain test, by whether an entry names it (R67). -/
def drained (named : Bool) (c : NestContext) : NestContext :=
  if c.state = .stopping ∧ named = false then { c with state := .stopped } else c

/-- The flags of a nest that enters STOPPED or COMPLETE in a request (R65, R67). -/
def nestFlags (n : Nest) (old new : NestState) : BitVec 24 :=
  if new = .stopped ∧ old ≠ .stopped then (Flag.nestStopped n).bits
  else if new = .complete ∧ old ≠ .complete then (Flag.nestComplete n).bits
  else 0

/-- The state that its slots give a station (R138). -/
def stateBySlots (slots : List SlotState) : StationState :=
  if ∀ x ∈ slots, x = .free then .ready
  else if ∀ x ∈ slots, x ≠ .free ∧ x ≠ .reserved then .full
  else .filling

/-- A station with other slots in its magazine: its state follows from them while it is READY, FILLING or
FULL (R138, R150). -/
def reslotted (st : Station) (m : Magazine) (slots : List SlotState) : Station :=
  { st with
    magazine := some { m with slots := slots }
    state := match st.state with
      | .ready | .filling | .full => stateBySlots slots
      | other => other }

/-- A STOPPED lane after its notice has been looked at (R146). -/
def noticed (l : Lane) : Lane :=
  match l.stop with
  | none => l
  | some q =>
    if l.state = .stopped ∧ (q.notice = .atStop ∨ l.pending = 0) then { l with stop := none } else l

/-- What re-evaluation makes of a lane, on the stations of a state (R144). -/
def reevaluated (s : State) (l : Lane) : Lane :=
  match l.state with
  | .isOpen =>
    if l.stopsAtStationEnd = true ∧ s.currentUsable l = false then noticed { l with state := .stopped }
    else if s.someUsable l = true then l
    else { l with state := .exhausted }
  | .exhausted => if s.someUsable l = true then { l with state := .isOpen } else l
  | .closed | .paused | .stopped => l

/-- A lane from which a pair has ended its flight, before the re-evaluation (R145, R146). -/
def unloaded (l : Lane) : Lane := noticed { l with pending := l.pending - 1 }

/-- The flags of two states differ in the named ones at most. -/
def FlagsBut (s t : State) (named : List Flag) : Prop := ∀ f, f ∉ named → t.flag f = s.flag f

/-- Which flags of the lanes a request raises, by the lanes as they were: LANE_STOPPED for a STOPPED lane whose
stop request has gone, LANE_EXHAUSTED for a lane that enters EXHAUSTED (R144, R146). -/
structure LaneFlags (u t : State) (old : Fin 16 → Lane) : Prop where
  stopped   : t.flag .laneStopped = true ↔ u.flag .laneStopped = true ∨
    ∃ k, (old k).stop ≠ none ∧ (t.lanes.get k).stop = none ∧ (t.lanes.get k).state = .stopped
  exhausted : t.flag .laneExhausted = true ↔ u.flag .laneExhausted = true ∨
    ∃ k, (old k).state ≠ .exhausted ∧ (t.lanes.get k).state = .exhausted

/-- A nest raises NEST_COMPLETE when it enters COMPLETE, and NEST_STOPPED when it enters STOPPED (R65, R67). -/
structure NestFlags (u t : State) (n : Nest) : Prop where
  complete : t.flag (.nestComplete n) = true ↔ u.flag (.nestComplete n) = true ∨
    ((t.nest n).state = .complete ∧ (u.nest n).state ≠ .complete)
  stopped  : t.flag (.nestStopped n) = true ↔ u.flag (.nestStopped n) = true ∨
    ((t.nest n).state = .stopped ∧ (u.nest n).state ≠ .stopped)

/-! ### Reports -/

/-- A report names an entry, and no earlier entry of the same ring awaits its report (R117, R120). -/
structure Answers (s : State) (ring : RepRing) (q : Request) (i : Fin 32) (e : Entry) : Prop where
  named : s.entryNamed ring.answers (ringAnswered q.data) (ringSequence q.data) = some i
  entry : s.entries.get i = some e
  first : ∀ j ∈ s.order.takeWhile (fun j => j != i), ∀ f, s.entries.get j = some f →
    ¬(f.ring = ring.answers ∧ f.awaits = true)

/-- A report of a kind does not fit its entry: another kind answers it, it holds a report already, or the
result is none that R115 gives for the kind; or, where all of these hold, a CUT_END counts more tabs than
the effective span has (R115, R119). -/
def Misfits (k : ReportKind) (e : Entry) (w1 : Word) (cause : Cause) : Prop :=
  let meets := k = e.kind.answeredBy ∧ ¬(e.state = .half ∧ e.stored ≠ none) ∧
    ¬(k = .pickEnd ∧ reportResult w1 = .abort) ∧
    ¬((k = .placeEnd ∨ k = .discardEnd) ∧ reportResult w1 = .fail)
  (¬meets ∧ cause = .kindMismatch) ∨
    (meets ∧ k = .cutEnd ∧ (∃ span, e.span = some span ∧ span.count < cutEndDone w1) ∧
      cause = .outOfSpan)

/-- An applied report, up to its outcome: the verdict APPLIED and word 0 are written (R116). -/
def appliedReport (s : State) (answers : List MemAnswer) (q : Request) : State :=
  let v := s.waited answers 2
  v.wroteAll (answers.drop 2) [(q.word 3, verdictApplied v.time), (q.word 0, q.data)]

/-- A disputed report, up to what the dispute carries: the verdict DISPUTED and word 0 are written
(R116). -/
def disputedReport (s : State) (answers : List MemAnswer) (q : Request) (cause : Cause) : State :=
  let v := s.waited answers 2
  v.wroteAll (answers.drop 2) [(q.word 3, verdictDisputed cause v.time), (q.word 0, q.data)]

/-- A dispute or an expiry has been handed to the Condition Unit: an EMPTY capture is filled, a HELD one is
left, and there is no escalation (R113, R116, R173). -/
def noted (u : State) (src : Source) (capture : Capture) : State :=
  match u.captureOf src with
  | none =>
    { u with
      captures := u.captures.set src.idx (some capture)
      flags := u.flags ||| (Flag.capture src).bits }
  | some _ => u

/-- The images of what `noted` changes. -/
def notedImages (u : State) (src : Source) : List ImageId :=
  match u.captureOf src with
  | none => [.capture src, .status]
  | some _ => []

/-- A dispute that changes nothing but the verdict and the capture has ended the report DONE (R116,
R117). -/
def Disputed (s t : State) (answers : List MemAnswer) (tag : Tag) (q : Request) (ring : RepRing)
    (cause : Cause) (refs : Refs) : Prop :=
  let u := disputedReport s answers q cause
  let capture : Capture := ⟨cause, none, some ⟨tag, .write, q.addr⟩, refs, u.time⟩
  match u.captureOf ring.source with
  | none => Ends (noted u ring.source capture) t tag .done (notedImages u ring.source)
  | some _ => EndsAtOnce u t tag .done

/-- An entry removed from the table (R121). -/
def without (s : State) (i : Fin 32) : State :=
  { s with entries := s.entries.set i none, order := s.order.erase i, due := s.due.erase i }

/-- The EMPTY mark that a removed PRESENT entry leaves in its stacker ring slot, with its place (R80). -/
def emptyMark (s : State) (e : Entry) : Nat × Word :=
  (s.stackerRing.slotAddr e.slot, presentWord0 0 e.sequence)

/-- An EMPTY mark has been written by one more cycle of the Engine, or memory has answered it HARD, which
raises MEMORY (R80). -/
def emptied (s : State) (answers : List MemAnswer) (p : Nat × Word) : State :=
  if (nextAnswer answers).hard = true then
    { s.awaitNext answers with flags := (s.awaitNext answers).flags ||| Flag.memory.bits }
  else s.wrote answers p

/-- Several EMPTY marks have been written, in order (R80). -/
def emptiedAll (s : State) (answers : List MemAnswer) : List (Nat × Word) → State
  | [] => s
  | p :: ps => emptiedAll (emptied s answers p) answers.tail ps

/-- The EMPTY marks of the PRESENT entries that a test picks out, in list order (R80, R121). -/
def emptyMarks (s : State) (gone : Entry → Bool) : List (Nat × Word) :=
  s.order.filterMap fun i => (s.entries.get i).bind fun e =>
    if gone e = true ∧ e.kind = .present then some (emptyMark s e) else none

/-- A CUT, PICK or DISCARD entry has expired in `u`, but for its board and the capture: the entry stays as
EXPIRED and is not due, its cup is SUSPECT with its reference kept, and UNCERTAIN is raised (R111). -/
def expiredSingle (u : State) (i : Fin 32) (e : Entry) (cause : ExpiryCause) : State :=
  { u with
    entries := u.entries.set i (some { e with state := .expired cause })
    due := u.due.erase i
    cups := match e.cup with
      | none => u.cups
      | some c => u.cups.set c { u.cups.get c with state := .suspect }
    flags := u.flags ||| Flag.uncertain.bits }

/-- The references of the capture of an expiry (R113). -/
def expiryRefs (e : Entry) (i : Fin 32) (cup : Option (Fin 4)) : Refs :=
  { nest := some e.board.nest, pos := some e.board.pos, cup := cup
    lane := e.dest.map fun d => d.lane, station := e.dest.map fun d => d.station
    slot := e.dest.map fun d => d.slot, entry := some i }

/-- A board that has become UNCERTAIN with a last cause (R27, R30). -/
def madeUncertain (cause : LastCause) (h : BoardHw) : BoardHw :=
  { h with state := .uncertain, cup := none, placement := none, lastCause := some cause }

/-- A board has become UNCERTAIN with a last cause, and its nest's image status DIRTY; where it was so already
with that cause, or no entry of the cache holds it, nothing of the cache has changed (R27, R30, R31, R49,
R70). -/
structure Lost (u t : State) (b : BoardRef) (cause : LastCause) : Prop where
  changed : ∀ l, u.cached b = some l → madeUncertain cause l.words.hw ≠ l.words.hw →
    Rewritten u t b l (madeUncertain cause l.words.hw) ∧
      ∀ n, t.nest n = if n = b.nest then { u.nest n with status := .dirty } else u.nest n
  same    : (∀ l, u.cached b = some l → madeUncertain cause l.words.hw = l.words.hw) →
    t.cache = u.cache ∧ t.recency = u.recency ∧ t.walker = u.walker ∧ ∀ n, t.nest n = u.nest n

/-- The two entries of a placement in flight, in one state (R85, R105). -/
structure Pair (s : State) (p r : Fin 32) (place present : Entry) (d : Destination) (c : Fin 4) :
    Prop where
  distinct  : p ≠ r
  atPlace   : s.entries.get p = some place
  atPresent : s.entries.get r = some present
  kinds     : place.kind = .place ∧ present.kind = .present
  board     : present.board = place.board
  linked    : place.partner = some r ∧ present.partner = some p
  dest      : place.dest = some d ∧ present.dest = some d
  cup       : place.cup = some c ∧ present.cup = none

/-- A pair has expired in `u`, but for its board, its lane, the flags and the capture: both entries stay as
EXPIRED with a stored report kept and are not due, the cup is SUSPECT with its reference kept, and so is
the assigned slot while the pair's magazine is in place (R112). -/
def expiredPair (u : State) (p r : Fin 32) (place present : Entry) (d : Destination) (c : Fin 4)
    (cause : ExpiryCause) : State :=
  let old := u.stations.get d.station
  { u with
    entries := (u.entries.set p (some { place with state := .expired cause })).set r
      (some { present with state := .expired cause })
    due := (u.due.erase p).erase r
    cups := u.cups.set c { u.cups.get c with state := .suspect }
    stations := u.stations.set d.station (match old.magazine with
      | none => old
      | some m =>
        if old.generation = d.generation then reslotted old m (m.slots.set d.slot .suspect) else old) }

/-- The lane, the flags and the station of a pair that has expired: one pair fewer pends in the lane, the
lanes are re-evaluated with their flags, UNCERTAIN is raised, and STATION_CHANGE when the station enters FULL;
beside these and the named flags none changes (R112, R138, R144 to R146). -/
structure PairGone (u t : State) (d : Destination) (named : List Flag) : Prop where
  lanes     : ∀ k, t.lanes.get k = reevaluated t
    (if k = d.lane then unloaded (u.lanes.get k) else u.lanes.get k)
  uncertain : t.flag .uncertain = true
  station   : t.flag .stationChange = true ↔ u.flag .stationChange = true ∨
    ((t.stations.get d.station).state = .full ∧ (u.stations.get d.station).state ≠ .full)
  laneFlags : LaneFlags u t u.lanes.get
  others    : FlagsBut u t (named ++ [.uncertain, .stationChange, .laneStopped, .laneExhausted])

/-- The source whose report is missing when a pair expires (R112). -/
def missing (place : Entry) : Source := if place.stored = none then .picker else .stacker

/-- What a resolved placement makes of its board, cup and slots (R126, R127). -/
inductive Outcome where
  | stacked (slot : Nat) (relocated : Bool)
  | stationChanged
  | collision
  | aborted
  | dropped
deriving DecidableEq

/-- The outcome of a pair by the picker's result and the stacker's observation (R126, R127). -/
def outcomeOf (s : State) (d : Destination) (result : Result) (o : Observation) : Outcome :=
  match result with
  | .abort | .fail => .aborted
  | .dropped => .dropped
  | .done =>
    match (s.stations.get d.station).magazine with
    | none => .stationChanged
    | some m =>
      if (s.stations.get d.station).generation ≠ d.generation ∨ o.serial ≠ d.serial then .stationChanged
      else if o.obstructed = true then .collision
      else if o.slot = d.slot then .stacked d.slot false
      else if m.slots[o.slot]? = some .free then .stacked o.slot true
      else .collision

/-- The board of a resolved placement (R30, R126, R127). -/
def Outcome.board (x : Outcome) (d : Destination) (h : BoardHw) : BoardHw :=
  match x with
  | .stacked slot relocated =>
    { h with
      state := .stacked, cup := none, placement := some ⟨d.station, slot, d.serial⟩
      relocated := h.relocated || relocated }
  | .stationChanged =>
    { h with state := .uncertain, cup := none, placement := none, lastCause := some .stationChanged }
  | .collision =>
    { h with state := .uncertain, cup := none, placement := none, lastCause := some .collision }
  | .aborted => { h with state := .held, placement := none }
  | .dropped => { h with state := .lost, cup := none, placement := none, lastCause := some .dropped }

/-- The slots of the magazine in place after a placement is resolved (R126, R127). -/
def Outcome.slots (x : Outcome) (d : Destination) (o : Observation) (slots : List SlotState) :
    List SlotState :=
  match x with
  | .stacked slot _ => (slots.set d.slot .free).set slot .occupied
  | .stationChanged => slots
  | .collision =>
    let seen := slots[o.slot]?
    if o.slot ≠ d.slot ∧ (seen = some .free ∨ seen = some .occupied ∨ seen = some .blocked) then
      (slots.set d.slot .suspect).set o.slot .suspect
    else slots.set d.slot .suspect
  | .aborted | .dropped =>
    let freed := slots.set d.slot .free
    if o.obstructed = true ∧ o.serial = d.serial ∧ freed[o.slot]? = some .free then
      freed.set o.slot .blocked
    else freed

/-- The station of a resolved placement, if the pair's magazine is in place (R126, R127, R149). -/
def Outcome.station (x : Outcome) (d : Destination) (o : Observation) (st : Station) : Station :=
  match st.magazine with
  | none => st
  | some m =>
    if st.generation ≠ d.generation then st
    else
      match x with
      | .stationChanged => st
      | .collision =>
        { st with
          state := .faulted .collision, magazine := some { m with slots := x.slots d o m.slots } }
      | .stacked _ _ | .aborted | .dropped => reslotted st m (x.slots d o m.slots)

/-- The lane of a resolved placement, before the re-evaluation (R127, R145, R149). -/
def Outcome.lane (x : Outcome) (l : Lane) : Lane :=
  unloaded (if x = .collision ∧ (l.state = .isOpen ∨ l.state = .exhausted) then
    { l with state := .paused } else l)

/-- The nest of a resolved placement, by whether another entry names it (R65, R67, R127). -/
def Outcome.nest (x : Outcome) (named : Bool) (c : NestContext) : NestContext :=
  let c := { c with status := ImageStatus.dirty }
  match x with
  | .stacked _ _ | .dropped => drained named (countedDown c)
  | .stationChanged | .collision | .aborted => drained named c

/-- A CUT_END has been applied to its entry in `y`, but for the images: the tabs that it reports done join the
mask, counted from the first tab of the effective span, the entry is removed, the claim re-evaluated, and a
TOOL_FAULT stops an ACTIVE nest (R24, R66, R67, R121, R122). -/
def CutEnded (y x : State) (i : Fin 32) (e : Entry) (span : Span) (l : CacheLine) (w1 : Word) : Prop :=
  let n := e.board.nest
  let v := without y i
  let mask := l.words.hw.cutMask ||| BitVec.ofNat 12 ((2 ^ cutEndDone w1 - 1) * 2 ^ span.first)
  let c : NestContext := { y.nest n with status := .dirty, claim := v.claimOf n }
  let c : NestContext :=
    if cutEndToolFault w1 = true ∧ c.state = .active then { c with state := .stopping } else c
  let c := drained (v.nestNamed n) c
  x = { State.withNest v n c with
    cache := x.cache, recency := x.recency, walker := x.walker
    flags := y.flags ||| nestFlags n (y.nest n).state c.state } ∧
  Rewritten y x e.board l
    { l.words.hw with cutMask := mask, state := derivedState l.words.hw.tabs mask }

/-- A PICK_END has been applied to its entry in `y`, but for the images (R65, R66, R121, R123). -/
def PickEnded (y x : State) (i : Fin 32) (e : Entry) (c : Fin 4) (l : CacheLine) (result : Result) : Prop :=
  let n := e.board.nest
  let v := without y i
  let k : NestContext := { y.nest n with status := .dirty, claim := v.claimOf n }
  let k : NestContext := drained (v.nestNamed n) (if result = .dropped then countedDown k else k)
  x = { State.withNest v n k with
    cups := y.cups.set c (if result = .done then ⟨.loaded, some e.board⟩ else ⟨.empty, none⟩)
    cache := x.cache, recency := x.recency, walker := x.walker
    flags := y.flags ||| nestFlags n (y.nest n).state k.state } ∧
  Rewritten y x e.board l
    (match result with
      | .done => { l.words.hw with state := .held }
      | .dropped =>
        { l.words.hw with
          state := .lost, cup := none, placement := none, lastCause := some .dropped }
      | _ => { l.words.hw with state := .free, cup := none })

/-- A DISCARD_END has been applied to its entry in `y`, but for the images; the claim stays (R65, R66, R121,
R124). -/
def DiscardEnded (y x : State) (i : Fin 32) (e : Entry) (c : Fin 4) (l : CacheLine) (result : Result) :
    Prop :=
  let n := e.board.nest
  let v := without y i
  let k : NestContext := { y.nest n with status := .dirty }
  let k : NestContext := drained (v.nestNamed n) (if result = .abort then k else countedDown k)
  x = { State.withNest v n k with
    cups := y.cups.set c (if result = .abort then ⟨.loaded, some e.board⟩ else ⟨.empty, none⟩)
    cache := x.cache, recency := x.recency, walker := x.walker
    flags := y.flags ||| nestFlags n (y.nest n).state k.state } ∧
  Rewritten y x e.board l
    (match result with
      | .done => { l.words.hw with state := .scrapped, cup := none }
      | .dropped =>
        { l.words.hw with
          state := .lost, cup := none, placement := none, lastCause := some .dropped }
      | _ => { l.words.hw with state := .held })

/-- The first report of a pair stored in the entry it answers; both entries are HALF (R105, R125). -/
def halved (y : State) (i j : Fin 32) (e partner : Entry) (report : StoredReport) : State :=
  { y with
    entries := (y.entries.set i (some { e with state := .half, stored := some report })).set j
      (some { partner with state := .half }) }

/-- The second report of a pair has resolved it in `y`, but for the EMPTY mark and the images: the board, the
cup, the slots of the magazine in place, the lane and the nest take what the outcome says, both entries are
removed, and the flags follow (R65, R67, R121, R125 to R127, R138, R144 to R146, R149). -/
def PairResolved (y x : State) (p r : Fin 32) (place : Entry) (d : Destination) (c : Fin 4)
    (l : CacheLine) (result : Result) (o : Observation) : Prop :=
  let b := place.board
  let out := outcomeOf y d result o
  let v := without (without y p) r
  let st := y.stations.get d.station
  x = { v with
    cups := y.cups.set c (if out = .aborted then ⟨.loaded, some b⟩ else ⟨.empty, none⟩)
    stations := y.stations.set d.station (out.station d o st)
    cache := x.cache, recency := x.recency, walker := x.walker, nestA := x.nestA
    nestB := x.nestB, lanes := x.lanes, flags := x.flags } ∧
  Rewritten y x b l (out.board d l.words.hw) ∧
  (∀ n, x.nest n = if n = b.nest then out.nest (v.nestNamed n) (y.nest n) else y.nest n) ∧
  (∀ k, x.lanes.get k = reevaluated x
    (if k = d.lane then out.lane (y.lanes.get k) else y.lanes.get k)) ∧
  (x.flag .relocated = true ↔ y.flag .relocated = true ∨ ∃ slot, out = .stacked slot true) ∧
  (x.flag .uncertain = true ↔
    y.flag .uncertain = true ∨ out = .stationChanged ∨ out = .collision) ∧
  (x.flag .stationChange = true ↔ y.flag .stationChange = true ∨ out = .collision ∨
    ((out.station d o st).state = .full ∧ st.state ≠ .full)) ∧
  NestFlags y x b.nest ∧ LaneFlags y x y.lanes.get ∧
  FlagsBut y x [.relocated, .uncertain, .stationChange, .laneStopped, .laneExhausted,
    .nestComplete b.nest, .nestStopped b.nest]

/-! ### Skips -/

/-- The PLACE entry of a pair that an entry belongs to. -/
def placeOf (s : State) (f : Entry) : Option Entry :=
  if f.kind = .place then some f else f.partner.bind s.entries.get

/-- The source under which an entry's expiry is handed to the Condition Unit (R111, R112). -/
def expirySource (s : State) (f : Entry) : Source :=
  match f.kind with
  | .cut => .router
  | .pick | .discard => .picker
  | .place | .present => ((placeOf s f).map missing).getD .picker

/-- The cup that an entry's expiry names: for one of a pair, that of its PLACE entry (R112, R113). -/
def expiryCup (s : State) (f : Entry) : Option (Fin 4) :=
  match f.kind with
  | .place | .present => (placeOf s f).bind fun p => p.cup
  | .cut | .pick | .discard => f.cup

/-- The skip of an entry of `s` has been handed to the Condition Unit in `z` (R113, R120). -/
def skipNoted (s z : State) (j : Fin 32) : State :=
  match s.entries.get j with
  | none => z
  | some f =>
    noted z (expirySource s f) ⟨.skipped, none, none, expiryRefs f j (expiryCup s f), z.time⟩

/-- An entry of `u` has expired with cause SKIPPED, but for the capture and the re-evaluation of the lanes. A
CUT, PICK or DISCARD stays as EXPIRED, its board becomes UNCERTAIN with last cause SKIPPED, its cup SUSPECT,
and UNCERTAIN is raised. A pair does so whole: both entries stay as EXPIRED with a stored report kept, the
assigned slot becomes SUSPECT while the pair's magazine is in place, and its lane has one pair fewer pending
(R111, R112, R120, R138, R145, R146). -/
def SkippedOne (u y : State) (j : Fin 32) : Prop :=
  ∃ f, u.entries.get j = some f ∧ Lost u y f.board .skipped ∧
    ((f.kind = .cut ∨ f.kind = .pick ∨ f.kind = .discard) →
      y = { expiredSingle u j f .skipped with
        cache := y.cache, recency := y.recency, walker := y.walker, nestA := y.nestA
        nestB := y.nestB }) ∧
    (∀ p r place present d c, Pair u p r place present d c →
      ((j = p ∧ f = place) ∨ (j = r ∧ f = present)) →
      y = { expiredPair u p r place present d c .skipped with
        lanes := u.lanes.set d.lane (unloaded (u.lanes.get d.lane))
        flags := y.flags, cache := y.cache, recency := y.recency, walker := y.walker
        nestA := y.nestA, nestB := y.nestB } ∧
      y.flag .uncertain = true ∧
      (y.flag .stationChange = true ↔ u.flag .stationChange = true ∨
        ((y.stations.get d.station).state = .full ∧ (u.stations.get d.station).state ≠ .full)) ∧
      LaneFlags u y u.lanes.get ∧
      FlagsBut u y [.uncertain, .stationChange, .laneStopped])

/-- Entries have expired with cause SKIPPED, in the order of a list (R113, R120). -/
def Skipped : List (Fin 32) → State → State → Prop
  | [], u, y => y = u
  | j :: rest, u, y => ∃ x, SkippedOne u x j ∧ Skipped rest x y

/-- The lanes have been re-evaluated, with their flags, and nothing else has changed (R144, R146). -/
def Resettled (x z : State) : Prop :=
  z = { x with lanes := z.lanes, flags := z.flags } ∧
    (∀ k, z.lanes.get k = reevaluated z (x.lanes.get k)) ∧ LaneFlags x z x.lanes.get ∧
    FlagsBut x z [.laneStopped, .laneExhausted]

/-- The images of a request are among some: those of every entry, cup, lane and station that differs, and of
every nest whose state, image status, claim or count does (R183). -/
structure ShowsChanges (s t : State) (changed : List ImageId) : Prop where
  entries  : ∀ j, t.entries.get j ≠ s.entries.get j → .entry j ∈ changed
  cups     : ∀ c, t.cups.get c ≠ s.cups.get c → .cup c ∈ changed
  lanes    : ∀ k, t.lanes.get k ≠ s.lanes.get k → .lane k ∈ changed
  stations : ∀ i, t.stations.get i ≠ s.stations.get i → .station i ∈ changed
  nests    : ∀ n, ((t.nest n).state, (t.nest n).status, (t.nest n).claim, (t.nest n).remaining) ≠
    ((s.nest n).state, (s.nest n).status, (s.nest n).claim, (s.nest n).remaining) → .nest n ∈ changed

/-! ### Recovery -/

/-- The target that word 1 of a RESOLVE gives an UNCERTAIN board, with the operands it uses, as far as it
fits the part's account (R162). -/
def Resolves (v : State) (b : BoardRef) (l : CacheLine) (w1 : Word) : Resolution → Prop
  | .derived target mask =>
    (target = .intact ∨ target = .partCut ∨ target = .free) ∧ cmdTarget w1 = target.code ∧
      mask = cmdMask w1 ∧ mask.toNat < 2 ^ l.words.hw.tabs ∧
      derivedState l.words.hw.tabs mask = target
  | .held c =>
    cmdTarget w1 = BoardState.held.code ∧ cmdCup w1 = c.val ∧
      ((v.cups.get c).state = .empty ∨ v.cups.get c = ⟨.suspect, some b⟩)
  | .stacked i slot serial =>
    cmdTarget w1 = BoardState.stacked.code ∧ cmdStation w1 = i.val ∧ cmdSlot w1 = slot ∧
      ∃ m, (v.stations.get i).magazine = some m ∧ m.serial = serial ∧
        (m.slots[slot]? = some .free ∨ m.slots[slot]? = some .suspect)
  | .scrapped => cmdTarget w1 = BoardState.scrapped.code
  | .lost => cmdTarget w1 = BoardState.lost.code

/-- The board as a RESOLVE leaves it (R163). -/
def resolvedBoard (x : Resolution) (h : BoardHw) : BoardHw :=
  match x with
  | .derived target mask =>
    { h with state := target, cutMask := mask, cup := none, placement := none, lastCause := none }
  | .held c =>
    { h with
      state := .held, cutMask := fullMask h.tabs, cup := some c, placement := none, lastCause := none }
  | .stacked i slot serial =>
    { h with
      state := .stacked, cutMask := fullMask h.tabs, cup := none
      placement := some ⟨i, slot, serial⟩, lastCause := none }
  | .scrapped =>
    { h with
      state := .scrapped, cutMask := fullMask h.tabs, cup := none, placement := none
      lastCause := none }
  | .lost => { h with state := .lost, cup := none, placement := none, lastCause := some .resolved }

/-- A cup after a RESOLVE of a board (R164). -/
def resolvedCup (x : Resolution) (b : BoardRef) (k : Fin 4) (cup : Cup) : Cup :=
  if x = .held k then ⟨.loaded, some b⟩
  else if cup.state = .suspect ∧ cup.ref = some b then ⟨.suspect, none⟩
  else cup

/-- Whether a RESOLVE makes its board terminal (R65). -/
def resolvedEnds (x : Resolution) : Bool :=
  match x with
  | .stacked _ _ _ | .scrapped | .lost => true
  | .derived _ _ | .held _ => false

/-- A slot as a request leaves it that clears the cell (R168). -/
def clearedSlot (x : SlotState) : SlotState := if x = .reserved then .suspect else x

/-! ### The Root Record -/

/-- What the reads of some sections return, section by section, each word as memory holds it when its read
is granted (R186). -/
def bodyRead (s : State) (answers : List MemAnswer) : List Nat → Body
  | [] => []
  | k :: rest =>
    let n := (sectionPlace k).2
    (k, s.wordsRead answers (Config.rootBase + (sectionPlace k).1) n) ::
      bodyRead (s.waited answers n) (answers.drop n) rest

/-- The sections that a load word selects, as the load reads them. -/
def bodyOf (s : State) (answers : List MemAnswer) (q : Request) : Body :=
  bodyRead s answers (loadSections q.data)

/-- How many words the selected sections have. -/
def bodySize (q : Request) : Nat := ((loadSections q.data).map fun k => (sectionPlace k).2).sum

/-- The state after the reads of a load, all answered DONE. -/
def loadRead (s : State) (answers : List MemAnswer) (q : Request) : State :=
  s.waited answers (bodySize q)

/-- The contents of a section pass the checks of R188. -/
def SectionFits (k : Nat) (ws : List Word) : Prop :=
  match k with
  | 0 =>
    let role := roleCode ws
    (∀ t, t < 16 → role t ≤ 5) ∧ (∃ t, t < 16 ∧ role t = 1) ∧
      ∀ axis, axis = 2 ∨ axis = 3 ∨ axis = 4 →
        ∃ t, t < 16 ∧ role t = axis ∧ ∀ t', t' < 16 → role t' = axis → t' = t
  | 1 => ∀ ring ∈ (ringsOf ws).list, ring.slots ∈ [16, 32, 64, 128, 256] ∧
    ring.base.toNat % (32 * ring.slots) = 0
  | 2 => (imageBaseOf ws).toNat % 4096 = 0
  | 3 | 4 =>
    let d := descriptorOf ws
    d.tableBase.toNat % 32 = 0 ∧ 1 ≤ d.count ∧ d.count ≤ 96 ∧
      d.tableBase.toNat + 32 * d.count ≤ 2 ^ 32 ∧ d.typeBase.toNat % 8 = 0 ∧ policyCode ws ≤ 2
  | 5 =>
    let on := fun i => i < 16 ∧ laneEnabled (wordAt ws i) = true
    let list := fun i => laneList (wordAt ws i)
    (∀ i, on i → 1 ≤ (list i).length ∧ (list i).length ≤ 8 ∧ (∀ x ∈ list i, x ≤ 7) ∧ (list i).Nodup) ∧
      ∀ i j, on i → on j → i ≠ j → ∀ x ∈ list i, x ∉ list j
  | 7 => ∀ i, i < 16 → bit (wordAt ws i) 0 = true →
    1 ≤ bits (wordAt ws i) 8 8 ∧ 1 ≤ bits (wordAt ws i) 16 8 ∧ bits (wordAt ws i) 16 8 ≤ 80
  | _ => True

/-- The regions whose places a load may set (R189). -/
inductive LoadRegion where
  | root
  | image
  | ring (i : Fin 7)
  | table (n : Nest)
deriving DecidableEq

/-- A region as it will stand after a load: the selected section that defines it, if one does, its base and
its size; none where it does not take part (R189). -/
def LoadRegion.after (x : LoadRegion) (s : State) (b : Body) : Option (Option Nat × Nat × Nat) :=
  match x with
  | .root => some (none, 0x800, 0x200)
  | .image =>
    if b.selects 2 = true then some (some 2, (imageBaseOf (b.words 2)).toNat, 2560)
    else s.imageBase.map fun base => (none, base.toNat, 2560)
  | .ring i =>
    if b.selects 1 = true then
      ((ringsOf (b.words 1)).list[i.val]?).map fun r => (some 1, r.base.toNat, 32 * r.slots)
    else (s.rings.bind fun l => l.list[i.val]?).map fun r => (none, r.base.toNat, 32 * r.slots)
  | .table n =>
    let place := fun (d : Descriptor) => (d.tableBase.toNat, 32 * d.count)
    let sect := match n with
      | .a => 3
      | .b => 4
    if b.selects sect = true then some (some sect, place (descriptorOf (b.words sect)))
    else if (s.nest n).state = .empty then none
    else (s.nest n).descriptor.map fun d => (none, place d)

/-- Two regions overlap after a load, and the higher of the selected sections that define them is a given
one (R189). -/
def OverlapAt (s : State) (b : Body) (k : Nat) : Prop :=
  ∃ x y, x ≠ y ∧ ∃ dx ax nx dy ay ny, LoadRegion.after x s b = some (dx, ax, nx) ∧
    LoadRegion.after y s b = some (dy, ay, ny) ∧ ax < ay + ny ∧ ay < ax + nx ∧
    (dx = some k ∨ dy = some k) ∧ dx.getD 0 ≤ k ∧ dy.getD 0 ≤ k

/-- The state of the part permits a section (R190). -/
def SectionPermitted (s : State) (k : Nat) : Prop :=
  match k with
  | 0 | 1 => ∀ i, s.entries.get i = none
  | 3 => (s.nest .a).state = .empty
  | 4 => (s.nest .b).state = .empty
  | 5 => ∀ i e, s.entries.get i = some e → (e.kind = .place ∨ e.kind = .present) → e.inFlight = false
  | _ => True

/-- How a load fails: in OPEN_PATH mode at the lowest missing of S0, S1 and S2; else at the first selected
section whose contents or regions do not pass, or that the part does not permit, the one looked at before
the other (R187). -/
def LoadFails (s : State) (b : Body) (f : LoadFailure) : Prop :=
  let complete := s.mode = .openPath → ∀ k, k < 3 → b.selects k = true
  let valid := fun k => SectionFits k (b.words k) ∧ ¬OverlapAt s b k
  let before := fun k => ∀ j, j < k → b.selects j = true → valid j ∧ SectionPermitted s j
  match f with
  | .incomplete k => s.mode = .openPath ∧ k < 3 ∧ b.selects k = false ∧ ∀ j, j < k → b.selects j = true
  | .invalid k => complete ∧ b.selects k = true ∧ before k ∧ ¬valid k
  | .notPermitted k => complete ∧ b.selects k = true ∧ before k ∧ valid k ∧ ¬SectionPermitted s k

/-! ### The walker's cycles -/

/-- The checks of a record that a LOAD job reads (R61). -/
def RecordFits (c : NestContext) (pos : Nat) (w : BoardWords) : Prop :=
  w.hw.position = pos ∧ (c.types.get (Fin.ofNat 64 w.hw.type)).isDefined = true ∧ w.hw.tabs ≤ 12 ∧
    w.hw.cutMask.toNat < 2 ^ w.hw.tabs ∧ bits w.w1 0 2 ≤ 2 ∧
    (bit w.w1 16 = true → bits w.w1 17 5 < 16)

/-- The hardware fields that normalisation gives a record; the time of change stays (R62). -/
def Normalised (w : BoardWords) (policy : XoutPolicy) : BoardHw :=
  { w.hw with
    state := if boardGrade w.w1 = some .xout ∧ policy = .leave then .left
      else derivedState w.hw.tabs w.hw.cutMask
    untouched := true, relocated := false, cup := none, placement := none, lastCause := none }

/-- A LOAD job that has taken a position, LEFT or not, goes on to the next one, or ends (R54, R63) with its scan
point where it is (notes/assumptions/32.md). -/
def LoadGoesOn (j : RunningJob) (d : Descriptor) (left : Bool) : RunningJob :=
  let counted := j.counted + if left = true then 0 else 1
  if j.cancelled = true ∨ d.count ≤ j.scan + 1 then { j with counted := counted, phase := .ended .ok }
  else { j with counted := counted, scan := j.scan + 1, phase := .record [] }

/-- Where the three writes of a write-back go in the record: words 0, 2 and 3 (R51). -/
def WritesBack.offset (k : Nat) : Nat := match k with
  | 0 => 0
  | 1 => 16
  | _ => 24

/-- What the three writes of a write-back carry (R51). -/
def WritesBack.word (w : BoardWords) (k : Nat) : Word := match k with
  | 0 => w.w0
  | 1 => w.w2
  | _ => w.w3

/-! ### Cycles as they arrive -/

/-- The state in which the Classifier meets an arriving cycle: its master waits. -/
def arriving (s : State) (tag : Tag) : State := { s with masters := s.masters.set tag .waiting }

/-- A guard refusal has been taken (R14). -/
def GuardRefused (s t : State) (tag : Tag) (addr : Addr) (kind : AccessKind) : Prop :=
  t = { arriving s tag with
    lastGuard := some ⟨addr, tag, kind⟩
    flags := s.flags ||| Flag.guard.bits
    images := (s.enqueue .status).images
    waits := s.waits ++ [⟨tag, .hard, [.status]⟩] }

/-- The cycles that a guard refusal answers in GUARDED mode: from a NONE tag, misaligned, or a write that
the permission table marks so (R5 to R14). -/
def GuardRow (s : State) (c : Cycle) : Prop :=
  s.roleOf c.tag = .none ∨ c.aligned = false ∨
    ((∃ d, c.op = .write d) ∧
      match s.regionOf c.addr with
      | .command ring _ _ => ring = .stacker ∨ s.roleOf c.tag ≠ .proc
      | .report ring _ => s.roleOf c.tag ≠ .proc ∧ s.roleOf c.tag ≠ ring.owner
      | .elsewhere => False
      | _ => s.roleOf c.tag ≠ .proc)

/-- The writes that the Classifier refuses SOFT in GUARDED mode, each with its cause (R7 to R13). -/
def PathRefused (s : State) (tag : Tag) (addr : Addr) (size : Size) (data : Word) (cause : Cause) :
    Prop :=
  let role := s.roleOf tag
  let narrow := size ≠ .b8 ∧ cause = .narrowWrite
  match s.regionOf addr with
  | .loadWord => role = .proc ∧ narrow
  | .captureWord _ => role = .proc ∧ narrow
  | .flagClearWord => role = .proc ∧ narrow
  | .imageOther => role = .proc ∧ cause = .imageWrite
  | .command ring slot word =>
    role = .proc ∧ ring ≠ .stacker ∧
      ((word = 0 ∧ narrow) ∨
        ((word = 0 → size = .b8 ∧ ringMark data ≠ markValid) ∧ s.slotNamed ring slot = true ∧
          cause = .slotInUse))
  | .report ring word =>
    word = 0 ∧
      (((role = .proc ∨ role = ring.owner) ∧ narrow) ∨
        (role = .proc ∧ size = .b8 ∧ ringMark data = markValid ∧ cause = .reportForged))
  | .board _ word =>
    role = .proc ∧ ((word = 1 ∧ narrow) ∨ (word ≠ 1 ∧ cause = .protectedField))
  | .rootBody => False
  | .elsewhere => False

/-- The 8-byte writes that the Classifier holds for the Engine, each with its class (R4, R7 to R12,
R17). -/
def HeldFor (s : State) (tag : Tag) (addr : Addr) (data : Word) (cls : RequestClass) : Prop :=
  match s.mode with
  | .openPath => rootRegion addr.toNat = some .loadWord ∧ cls = .load
  | .guarded =>
    let role := s.roleOf tag
    match s.regionOf addr with
    | .loadWord => role = .proc ∧ cls = .load
    | .captureWord src => role = .proc ∧ cls = .captureRelease src
    | .flagClearWord => role = .proc ∧ cls = .flagClear
    | .command ring _ word =>
      role = .proc ∧ ring ≠ .stacker ∧ word = 0 ∧ ringMark data = markValid ∧ cls = postClass ring
    | .report ring word =>
      role = ring.owner ∧ word = 0 ∧ ringMark data = markValid ∧ cls = .report ring
    | .board b word => role = .proc ∧ word = 1 ∧ cls = .boardEdit b
    | .rootBody => False
    | .imageOther => False
    | .elsewhere => False

/-- The writes that pass in GUARDED mode (R7, R9, R11). -/
def WritePasses (s : State) (tag : Tag) (addr : Addr) (size : Size) (data : Word) : Prop :=
  let role := s.roleOf tag
  match s.regionOf addr with
  | .elsewhere => role ≠ .none
  | .rootBody => role = .proc
  | .command ring slot word =>
    role = .proc ∧ ring ≠ .stacker ∧ s.slotNamed ring slot = false ∧
      (word = 0 → size = .b8 ∧ ringMark data ≠ markValid)
  | .report ring word =>
    (role = .proc ∨ role = ring.owner) ∧ (word = 0 → size = .b8 ∧ ringMark data ≠ markValid)
  | _ => False

end Sys2Proof.Claims

open Sys2Proof Sys2Proof.Machine Sys2Proof.Claims

/-! ### Steps, reset and time -/

/-- A step runs the command at the front of the queue on the state with the queue's rest; on an empty
queue it idles (notes/assumptions/1.md, notes/assumptions/12.md). -/
def Obligations.StepRunsFrontCommand : Prop :=
  ∀ s : State,
    (∀ c rest, s.pending = c :: rest → step s = exec c { s with pending := rest }) ∧
      (s.pending = [] → step s = .next s)

/-- The model stops in one case only: a cycle from a tag whose master still waits
(notes/assumptions/7.md). Every command answers a next state otherwise. -/
def Obligations.OnlyAnOutstandingTagStops : Prop :=
  ∀ (c : Instr) (s : State),
    (∀ tag, cycleTag c = some tag → s.masters.get tag = .waiting →
      exec c s = .fault (.tagOutstanding tag)) ∧
    ((∀ tag, cycleTag c = some tag → s.masters.get tag ≠ .waiting) → ∃ t, exec c s = .next t)

/-- What RESET_N makes of the configuration (R196). -/
def Obligations.ResetReturnsConfiguration : Prop :=
  ∀ s : State, ∃ t, exec .resetN s = .next t ∧ t.mem = s.mem ∧
    t.mode = .openPath ∧ t.loadGen = 0 ∧ t.loadStatus = .none ∧
    t.roles = none ∧
    t.rings = none ∧ (∀ ring, t.cursor ring = 0) ∧ (∀ a, t.ringRegion a = none) ∧
    t.imageBase = none ∧
    (∀ n, (t.nest n).descriptor = none ∧ (t.nest n).state = .empty) ∧
    (∀ i, (t.lanes.get i).enabled = false ∧ (t.lanes.get i).kind = .normal ∧
      (t.lanes.get i).order = .up ∧ (t.lanes.get i).stations = [] ∧ (t.lanes.get i).state = .closed) ∧
    (∀ i, (t.stations.get i).mask = 0 ∧ (t.stations.get i).state = .disabled) ∧
    (∀ i, t.magTypes.get i = ⟨false, 0, 0, 0⟩) ∧
    t.limits = ⟨0, 0, 0, 0, 0⟩ ∧
    t.routeA = 0 ∧ t.routeB = 0 ∧ t.lineA = false ∧ t.lineB = false

/-- What RESET_N leaves of the path, the tables and the Condition Unit: nothing waits, and cell memory
stands (R21, R38, R41, R52, R106, R108, R172, R177). That the commands queued at the part stand and that
every master is idle again is the model's choice (notes/assumptions/13.md). -/
def Obligations.ResetEndsEveryCycle : Prop :=
  ∀ s : State, ∃ t, exec .resetN s = .next t ∧ t.mem = s.mem ∧ t.pending = s.pending ∧
    (∀ tag, t.masters.get tag = .idle ∧ t.pass.get tag = none ∧ t.requests.get tag = none) ∧
    t.waits = [] ∧ t.engine = .idle ∧ t.lastServed = 17 ∧ t.portLast = .image ∧ t.images = [] ∧
    t.nextPass = none ∧ Fin.ofNat 16 (t.passLast.val + 1) = 0 ∧
    (∀ i, t.cache.get i = none) ∧ t.walker = .idle ∧ t.jobs = [] ∧
    (∀ i, t.entries.get i = none) ∧ t.order = [] ∧ t.due = [] ∧ t.time = 0 ∧
    (∀ c, t.cups.get c = ⟨.empty, none⟩) ∧ t.flags = 0 ∧ (∀ src, t.captureOf src = none) ∧
    t.lastGuard = none

/-- TIMEBASE raises the counter by one, and makes due exactly the entries in list order whose expiry time
it reaches and which are OPEN or HALF (R108, R110); a busy Engine goes on with what it has in hand. -/
def Obligations.TimebaseMakesEntriesDue : Prop :=
  ∀ s : State, ∃ t, exec .timebase s = .next t ∧
    t = { s with
      time := s.time + 1, due := t.due, images := t.images
      engine := t.engine, lastServed := t.lastServed } ∧
    (∀ i, i ∈ t.due ↔ i ∈ s.due ∨ (i ∈ s.order ∧ ∃ e, s.entries.get i = some e ∧
      e.expiry = some (s.time + 1) ∧ (e.state = .isOpen ∨ e.state = .half))) ∧
    (∃ fresh, t.due = s.due ++ fresh ∧ fresh.Sublist s.order ∧
      ∀ i ∈ fresh, s.mode = .guarded → .entry i ∈ t.images) ∧
    (s.engine ≠ .idle → t.engine = s.engine ∧ t.lastServed = s.lastServed)

/-! ### Cycles on the master-side bus -/

/-- A cycle that passes joins the pass-through source, and nothing else of the part changes. In GUARDED mode
a READ of a board table is answered from the entry that holds the record, and joins the pass-through source
where none does; the recency order stays (R4, R6, R7, R9, R11, R16, R47, R48). -/
def Obligations.PassedCycleWaitsAtThePort : Prop :=
  ∀ (s : State) (tag : Tag) (addr : Addr) (size : Size), s.masters.get tag ≠ .waiting →
    (Cycle.aligned ⟨tag, addr, size, .read⟩ = true →
      (s.mode = .openPath ∨ (s.mode = .guarded ∧ s.roleOf tag ≠ .none ∧
        ∀ b word, s.regionOf addr ≠ .board b word)) →
      exec (.passRead tag addr size) s =
        .next { arriving s tag with pass := s.pass.set tag (some ⟨tag, addr, size, .read⟩) }) ∧
    (∀ data, Cycle.aligned ⟨tag, addr, size, .write data⟩ = true →
      ((s.mode = .openPath ∧ rootRegion addr.toNat ≠ some .loadWord) ∨
        (s.mode = .guarded ∧ WritePasses s tag addr size data)) →
      exec (.passWrite tag addr size data) s =
        .next { arriving s tag with pass := s.pass.set tag (some ⟨tag, addr, size, .write data⟩) }) ∧
    (∀ b word, s.mode = .guarded → s.roleOf tag ≠ .none →
      Cycle.aligned ⟨tag, addr, size, .read⟩ = true → s.regionOf addr = .board b word →
      (∀ l, s.cached b = some l →
        exec (.boardTableRead tag addr size) s =
          .next { s with
            masters := s.masters.set tag
              (.answered .done (some (bytesOf (l.words.word word) (addr.toNat % 8) size.bytes))) }) ∧
      (s.cached b = none →
        exec (.boardTableRead tag addr size) s =
          .next { arriving s tag with pass := s.pass.set tag (some ⟨tag, addr, size, .read⟩) }))

/-- A misaligned cycle is answered HARD without a trace in OPEN_PATH mode, and is a guard refusal in
GUARDED mode, like every cycle that the permission table marks so (R1, R14). -/
def Obligations.GuardRefusalKeepsTheLastCycle : Prop :=
  ∀ (s : State) (c : Cycle), s.masters.get c.tag ≠ .waiting →
    (c.aligned = false → s.mode = .openPath →
      exec (.misalignedCycle c) s =
        .next { s with masters := s.masters.set c.tag (.answered .hard none) }) ∧
    (c.aligned = false → s.mode = .guarded →
      ∃ t, exec (.misalignedCycle c) s = .next t ∧ GuardRefused s t c.tag c.addr (cycleKind c)) ∧
    (GuardRow s c → s.mode = .guarded →
      ∃ t, exec (.guardRefusal c) s = .next t ∧ GuardRefused s t c.tag c.addr (cycleKind c))

/-- In GUARDED mode a write that the Classifier refuses is captured under the source of its tag's role and
answered SOFT, or, while that capture is HELD, answered HARD with the source's HARD flag set; the acknowledge
waits for the images, and memory is unchanged. In OPEN_PATH mode a write to the load word narrower than 8 bytes
is answered SOFT at once, whatever its tag, without a capture, a flag or an image (R4, R7 to R13, R15, R173,
R174). -/
def Obligations.PathRefusalIsCapturedOrEscalated : Prop :=
  ∀ (s : State) (tag : Tag) (addr : Addr) (size : Size) (data : Word),
    s.masters.get tag ≠ .waiting → Cycle.aligned ⟨tag, addr, size, .write data⟩ = true →
    (s.mode = .openPath → rootRegion addr.toNat = some .loadWord → size ≠ .b8 →
      exec (.pathRefusal tag addr size data) s =
        .next { s with masters := s.masters.set tag (.answered .soft none) }) ∧
    (∀ cause src, s.mode = .guarded → PathRefused s tag addr size data cause →
      (s.roleOf tag).source = some src →
      (s.captureOf src = none → ∃ images,
        exec (.pathRefusal tag addr size data) s = .next { arriving s tag with
          captures := s.captures.set src.idx
            (some ⟨cause, none, some ⟨tag, .write, addr⟩, {}, s.time⟩)
          flags := s.flags ||| (Flag.capture src).bits
          images := images
          waits := s.waits ++ [⟨tag, .soft, [.capture src, .status]⟩] } ∧
        ∀ id, id ∈ images ↔ id ∈ s.images ∨ id = .capture src ∨ id = .status) ∧
      (∀ held, s.captureOf src = some held →
        exec (.pathRefusal tag addr size data) s = .next { arriving s tag with
          flags := s.flags ||| (Flag.hard src).bits
          images := (s.enqueue .status).images
          waits := s.waits ++ [⟨tag, .hard, [.status]⟩] }))

/-- A write that the Classifier holds becomes a request of its class at the arbiter; an idle Engine with
no other request takes it at once, and a busy one goes on (R13, R17, R18). -/
def Obligations.HeldWriteWaitsForTheEngine : Prop :=
  ∀ (s : State) (tag : Tag) (addr : Addr) (data : Word) (cls : RequestClass),
    s.masters.get tag ≠ .waiting → Cycle.aligned ⟨tag, addr, .b8, .write data⟩ = true →
    HeldFor s tag addr data cls →
    ∃ t role, exec (.heldWrite tag addr .b8 data) s = .next t ∧
      t = { arriving s tag with
        requests := s.requests.set tag (some ⟨addr, data, role, cls⟩)
        engine := t.engine, lastServed := t.lastServed } ∧
      (s.mode = .guarded → role = some (s.roleOf tag)) ∧ (s.mode = .openPath → role = none) ∧
      (s.engine ≠ .idle → t.engine = s.engine ∧ t.lastServed = s.lastServed) ∧
      (s.engine = .idle → s.nextPosition = none →
        t.heldInHand = some (tag, ⟨addr, data, role, cls⟩) ∧ t.lastServed.val = tag.val)

/-! ### The downstream port -/

/-- A pass-through cycle that is granted goes to memory, and memory's answer goes up unchanged; a HARD
changes no other state of the part (R16, R20). That memory stands after a HARD is the model's choice
(notes/assumptions/3.md), and so is the scan of `visits` cache entries that a running flush job's walker
makes before the grant (notes/assumptions/9.md). -/
def Obligations.PassThroughReachesMemory : Prop :=
  ∀ (s : State) (visits : Nat) (c : Cycle), (s.scan visits).granted false = some .pass →
    (s.scan visits).nextPass = some c.tag → s.pass.get c.tag = some c →
    exec (.portCycle visits true) s = .next { s.scan visits with
      pass := s.pass.set c.tag none, passLast := c.tag, portLast := .pass
      masters := s.masters.set c.tag (.answered .hard none) } ∧
    (c.op = .read →
      exec (.portCycle visits false) s = .next { s.scan visits with
        pass := s.pass.set c.tag none, passLast := c.tag, portLast := .pass
        masters := s.masters.set c.tag (.answered .done
          (some (BitVec.ofNat 64 (Memory.readNat s.mem c.addr.toNat c.size.bytes)))) }) ∧
    (∀ data, c.op = .write data →
      exec (.portCycle visits false) s = .next { s.scan visits with
        pass := s.pass.set c.tag none, passLast := c.tag, portLast := .pass
        masters := s.masters.set c.tag (.answered .done none)
        mem := Memory.writeBytes s.mem c.addr.toNat data c.size.bytes })

/-- An image write carries its record as the part holds it at the grant, to the base in force; a status
block sets what the lines follow; whoever waited for this write alone is acknowledged with the answer kept for
it, and no other master is. A write answered HARD leaves memory, raises MEMORY, and is as good as done for
those who waited (R20, R180, R181, R183; that memory stands after a HARD is notes/assumptions/3.md, that one
grant carries all the words of the record notes/assumptions/11.md). A tag has one cycle in the part at most, as
every step keeps it. -/
def Obligations.ImageWriteCarriesTheRecordAsItStands : Prop :=
  ∀ (s : State) (hard : Bool) (id : ImageId) (rest : List ImageId) (base : Addr),
    s.mode = .guarded → s.granted false = some .image → s.images = id :: rest → s.imageBase = some base →
    OneCyclePerTag s →
    ∃ t, exec (.portCycle 0 hard) s = .next t ∧
      t = { s with
        images := if hard = true ∧ s.flag .memory = false ∧ .status ∉ rest then rest ++ [.status] else rest
        flags := if hard = true then s.flags ||| Flag.memory.bits else s.flags
        portLast := .image
        mem := if hard = true then s.mem
          else Memory.writeWords s.mem (base.toNat + id.offset) (s.image id)
        published := if id = .status then ⟨s.flags, s.routeA, s.routeB⟩ else s.published
        masters := t.masters
        waits := (s.waits.map fun w => w.without id).filter fun w => !w.images.isEmpty
        engine := t.engine
        lastServed := t.lastServed } ∧
      (∀ w ∈ s.waits, w.images.erase id = [] → t.masters.get w.tag = .answered w.ack none) ∧
      (∀ w, s.engine = .finishing w → w.images.erase id = [] →
        t.masters.get w.tag = .answered w.ack none ∧ t.engine ≠ .finishing w) ∧
      (∀ tag, (∀ w ∈ s.waits, w.images.erase id = [] → w.tag ≠ tag) →
        (∀ w, s.engine = .finishing w → w.images.erase id = [] → w.tag ≠ tag) →
        t.masters.get tag = s.masters.get tag) ∧
      (∀ w, s.engine = .finishing w → w.images.erase id ≠ [] →
        t.engine = .finishing (w.without id) ∧ t.lastServed = s.lastServed) ∧
      ((∀ w, s.engine ≠ .finishing w) → t.engine = s.engine ∧ t.lastServed = s.lastServed)

/-- The port serves its sources in rotation: the granted source has a cycle waiting, and no source between
the last granted and it has one; a cycle of the Engine takes its turn among them, with at most three grants
to other sources before it. What goes on beside a request changes nothing that the Engine judges by: entries
of the cache that stay keep their boards and words in their order, and a Type Store changes only under a LOAD
job of its nest (R16, R18, R20; notes/assumptions/4.md, notes/assumptions/5.md). -/
def Obligations.PortGrantsInRotation : Prop :=
  (∀ (s : State) (engine : Bool) (src : PortSource), s.granted engine = some src →
    s.presents engine src = true ∧
      ∀ before after, s.portLast.following = before ++ src :: after →
        ∀ x ∈ before, s.presents engine x = false) ∧
  (∀ (s : State), ∃ n, n ≤ 3 ∧ s.yieldPort 3 = s.yieldPort n ∧ (s.yieldPort n).granted true = some .engine ∧
    ∀ k, k < n → ∃ src, src ≠ .engine ∧ (s.yieldPort k).granted true = some src ∧
      s.yieldPort (k + 1) = (s.yieldPort k).grant false (some src)) ∧
  (∀ (s : State) (answers : List MemAnswer) (p : Fin 18), s.engine = .serving p →
    (s.awaitNext answers).portLast = .engine ∧ Undisturbed s (s.awaitNext answers))

/-! ### Command admission -/

/-- A post that the common prefix refuses: a kind that is not the ring's is BAD_KIND, a slot that is not the
cursor RING_ORDER, a slot that an entry names SLOT_IN_USE, in this order; word 3 takes the verdict, word 0 is
not forwarded, and the cursor stays. A TRIAL so refused is answered SOFT at once and without a capture,
whatever the PROC capture holds (R82, R84, R101, R102, R159, R171; that a TRIAL of an unknown kind is one of
them is notes/assumptions/17.md). -/
def Obligations.PrefixRefusesInOrder : Prop :=
  ∀ (s : State) (tag : Tag) (q : Request) (ring : CmdRing) (answers : List MemAnswer),
    s.mode = .guarded → s.heldInHand = some (tag, q) → q.cls = postClass ring → ring ≠ .stacker →
    Answered answers 3 →
    let refused := fun (c : Instr) (cause : Cause) =>
      PostRefused c s (s.waited answers 3) tag q (answers.drop 3) cause {}
    (postRow ring q.data answers = none → refused (.badKindPost answers) .badKind) ∧
    (∀ c, postRow ring q.data answers = some c →
      ((s.ring ring).slotOf q.addr.toNat ≠ some (s.cursor ring) → refused c .ringOrder) ∧
      ((s.ring ring).slotOf q.addr.toNat = some (s.cursor ring) →
        s.slotNamed ring (s.cursor ring) = true → refused c .slotInUse))

/-- A downstream read that memory answers HARD abandons the request of the Engine that issued it: the reads of
words 1 to 3 of a post of any kind, those of words 1 and 2 of a report, those of the sections of a load, and the
cycles of the fill that a post's lookup makes. MEMORY is raised, the answer is HARD, and nothing else changes
but what goes on beside the request; a load in OPEN_PATH mode raises nothing (R19, R44, R46, R102, R116, R160,
R186). -/
def Obligations.FailedReadAbandonsTheRequest : Prop :=
  ∀ (s : State) (tag : Tag) (q : Request) (answers : List MemAnswer), s.heldInHand = some (tag, q) →
    (∀ k, Answered answers k → ¬Answered answers (k + 1) →
      let u := s.waited answers (k + 1)
      (∀ ring, s.mode = .guarded → q.cls = postClass ring → ring ≠ .stacker → k < 3 →
        ∃ t, exec (servedBy ring q.data answers) s = .next t ∧ Abandoned u t tag ∧ Undisturbed s u) ∧
      (∀ ring, s.mode = .guarded → q.cls = .report ring → k < 2 →
        ∃ t, exec (reportRow ring q.data answers) s = .next t ∧ Abandoned u t tag ∧ Undisturbed s u) ∧
      (q.cls = .load → k < bodySize q →
        (s.mode = .guarded → (q.role ≠ none ∨ s.roleOf tag = .proc) →
          ∃ t, exec (.rootRecordLoad answers) s = .next t ∧ Abandoned u t tag ∧ Undisturbed s u) ∧
        (s.mode = .openPath →
          ∃ t, exec (.rootRecordLoad answers) s = .next t ∧ EndsAtOnce u t tag .hard ∧
            Undisturbed s u))) ∧
    (∀ ring b x rest, Posted s ring tag q → Answered answers 3 →
      ((∃ kind, physicalKind ring (ringKind q.data) = some kind ∧
          FetchesBoard s kind (word1 s answers q) b) ∨
        (ring = .service ∧ serviceKind (ringKind q.data) = some .resolve ∧
          ResolveLooksUp s (word1 s answers q) b)) →
      FillFails (s.waited answers 3) (answers.drop 3) b x rest →
      ∃ t, exec (servedBy ring q.data answers) s = .next t ∧ Abandoned x t tag)

/-- A downstream write that memory answers HARD, up to the forward and the forward with it, abandons the
request of the Engine that issued it: words that are in memory stay there, nothing is applied, MEMORY is
raised, and the answer is HARD without a capture. So it is with the verdict and the forward of an accepted
service command and of a report, and with the forward of a load and of a board edit; a load in OPEN_PATH mode
raises nothing (R19, R37, R116, R160, R186, R192). The statements of the admissions, of RESOLVE, of TRIAL and of
the refusals say it of theirs. -/
def Obligations.FailedWriteAbandonsTheRequest : Prop :=
  ∀ (s : State) (tag : Tag) (q : Request) (answers : List MemAnswer), s.heldInHand = some (tag, q) →
    (∀ kind k, Posted s .service tag q → serviceKind (ringKind q.data) = some kind →
      ringTrial q.data = false → servicePasses kind (word1 s answers q) (s.waited answers 3) → k < 2 →
      Answered answers (3 + k) → ¬Answered answers (3 + k + 1) →
      let v := s.waited answers 3
      ∃ t, exec (servedBy .service q.data answers) s = .next t ∧
        Abandoned (brokenOff v (answers.drop 3)
          [(q.word 3, verdictAdmitted none v.time), (q.word 0, q.data)] k) t tag) ∧
    (∀ ring k, Reported s ring tag q → k < 2 → Answered answers (2 + k) → ¬Answered answers (2 + k + 1) →
      let v := s.waited answers 2
      ∃ verdict t, exec (reportRow ring q.data answers) s = .next t ∧
        (verdict = verdictApplied v.time ∨ ∃ cause, verdict = verdictDisputed cause v.time) ∧
        Abandoned (brokenOff v (answers.drop 2) [(q.word 3, verdict), (q.word 0, q.data)] k) t tag) ∧
    (q.cls = .load → Answered answers (bodySize q) → ¬Answered answers (bodySize q + 1) →
      let v := loadRead s answers q
      v.judgeLoad (bodyOf s answers q) = none →
      let u := v.awaitNext (answers.drop (bodySize q))
      (s.mode = .guarded → (q.role ≠ none ∨ s.roleOf tag = .proc) →
        ∃ t, exec (.rootRecordLoad answers) s = .next t ∧ Abandoned u t tag) ∧
      (s.mode = .openPath →
        ∃ t, exec (.rootRecordLoad answers) s = .next t ∧ EndsAtOnce u t tag .hard)) ∧
    (∀ b, s.mode = .guarded → q.cls = .boardEdit b → (s.nest b.nest).state ≠ .loading → Unnamed s b →
      bits q.data 0 2 ≤ 2 → (bit q.data 16 = true → bits q.data 17 5 < 16) → ¬Answered answers 1 →
      ∃ t, exec (.boardEdit answers) s = .next t ∧ Abandoned (s.awaitNext answers) t tag)

/-- A CUT or a PICK, TRIAL or not, is refused with the cause of the first check that fails: those of the nest
before the board is looked at, without a reference; those of the board with its nest and position; and those
of a PICK from its cup's state on with the cup as well (R64, R84, R86, R87, R90, R101). -/
def Obligations.CutAndPickAreRefusedInOrder : Prop :=
  ∀ (s : State) (tag : Tag) (q : Request) (ring : CmdRing) (kind : Physical) (c : Instr)
    (answers : List MemAnswer),
    Posted s ring tag q → physicalKind ring (ringKind q.data) = some kind → (kind = .cut ∨ kind = .pick) →
    postRow ring q.data answers = some c → Answered answers 3 →
    let w1 := word1 s answers q
    let v := s.waited answers 3
    (∀ cause, NestRefuses s w1 cause → PostRefused c s v tag q (answers.drop 3) cause {}) ∧
    (∀ b l x rest cause, FetchesBoard s kind w1 b → Fetched v (answers.drop 3) b l x rest →
      let refs : Refs := { nest := some b.nest, pos := some b.pos }
      (kind = .cut → FirstFails (cutTable x l w1) cause → PostRefused c s x tag q rest cause refs) ∧
      (kind = .pick → FirstFails (pickTable x l w1) cause → PostRefused c s x tag q rest cause refs) ∧
      (∀ cup : Fin 4, kind = .pick → AllHold (pickTable x l w1) → cmdCup w1 = cup.val →
        FirstFails (pickCupTable x b.nest cup) cause →
        PostRefused c s x tag q rest cause { refs with cup := some cup }))

/-- A PLACE or a DISCARD, TRIAL or not, is refused with the cause of the first check that fails: an operand that
names no cup, the cup's state, then the board's grade with the cup as reference, and for a PLACE the lane,
the stacker ring and the table with the lane as well. Where no entry holds the board and its nest is not
loaded, the nest's state gives the cause (R39, R44, R84, R92 to R94, R98, R101; that no lane fits a grade code
that names none, and that it is not GOOD, is notes/assumptions/15.md, that the lane counts as reached from its
first check on notes/assumptions/16.md). -/
def Obligations.PlaceAndDiscardAreRefusedInOrder : Prop :=
  ∀ (s : State) (tag : Tag) (q : Request) (kind : Physical) (c : Instr) (answers : List MemAnswer),
    Posted s .picker tag q → physicalKind .picker (ringKind q.data) = some kind →
    (kind = .place ∨ kind = .discard) → postRow .picker q.data answers = some c → Answered answers 3 →
    LanesSettled s →
    let w1 := word1 s answers q
    let v := s.waited answers 3
    let refused := fun cause refs => PostRefused c s v tag q (answers.drop 3) cause refs
    (4 ≤ cmdCup w1 → refused .cupRange {}) ∧
    (∀ cup : Fin 4, cmdCup w1 = cup.val →
      let refs : Refs := { cup := some cup }
      let state := (s.cups.get cup).state
      (state = .empty → refused .cupEmpty refs) ∧
      (state = .reserved ∨ state = .reservedOut → refused .cupBusy refs) ∧
      (state = .suspect → refused .cupSuspect refs) ∧
      (∀ b cause, s.cups.get cup = ⟨.loaded, some b⟩ → v.lineOf b = none →
        NotCachedRefuses (s.nest b.nest).state cause → refused cause refs) ∧
      (∀ b l x rest cause, s.cups.get cup = ⟨.loaded, some b⟩ → Fetched v (answers.drop 3) b l x rest →
        (kind = .discard → FirstFails (discardTable x l) cause → PostRefused c s x tag q rest cause refs) ∧
        (kind = .place → FirstFails (placeGradeTable x l) cause → PostRefused c s x tag q rest cause refs) ∧
        (kind = .place → AllHold (placeGradeTable x l) → FirstFails (placeLaneTable x l w1) cause →
          PostRefused c s x tag q rest cause { refs with lane := some (x.effectiveLane l) })))

/-- A lookup that finds the board's entry makes it the most recent and issues no cycle; one that misses
in a loaded nest, with memory answering DONE, writes a dirty victim back, makes the victim invalid and fills
its place with the four words as memory holds them at the reads; the victim is the lowest invalid entry, or
the least recent that is neither pinned nor in write-back; in a nest that is not loaded it finds none. A HARD
to the write-back fails the fill with the victim as it was, and a HARD to a read fails it with the victim
invalid. The recency order holds the valid entries once each, as every step keeps it (R42, R44, R45, R46,
R51). -/
def Obligations.LookupHitsOrFills : Prop :=
  ∀ (s : State) (answers : List MemAnswer) (b : BoardRef), RecencyListed s →
    (∀ i l, s.lineOf b = some i → s.cache.get i = some l →
      Fetched s answers b l { s with recency := i :: s.recency.erase i } answers) ∧
    (s.lineOf b = none → (s.nest b.nest).state.loaded = false →
      Run.lookup (Run.start s answers) b = (.notCached, Run.start s answers)) ∧
    (∀ i p, s.engine = .serving p → s.lineOf b = none → (s.nest b.nest).state.loaded = true →
      s.victim = some i →
      let back := match s.cache.get i with
        | some l => if l.dirty then l.words.writeBack (s.boardAddr l.board) else []
        | none => []
      let u := s.wroteAll answers back
      let v := { u with cache := u.cache.set i none, recency := u.recency.erase i }
      let rest := answers.drop back.length
      let w := v.waited rest 4
      let words := v.wordsRead rest (s.boardAddr b) 4
      let l : CacheLine := ⟨b, ⟨wordAt words 0, wordAt words 1, wordAt words 2, wordAt words 3⟩,
        false, false⟩
      (Answered answers (back.length + 4) → Fetched s answers b l
        { w with cache := w.cache.set i (some l), recency := i :: w.recency.erase i } (rest.drop 4)) ∧
      (∀ k, k < back.length → Answered answers k → ¬Answered answers (k + 1) →
        FillFails s answers b (brokenOff s answers back k) (answers.drop (k + 1))) ∧
      (∀ k, k < 4 → Answered answers (back.length + k) → ¬Answered answers (back.length + k + 1) →
        FillFails s answers b (v.waited rest (k + 1)) (rest.drop (k + 1)))) ∧
    (∀ i, s.victim = some i →
      (s.cache.get i = none ∧ ∀ j, j.val < i.val → s.cache.get j ≠ none) ∨
      ((∀ j, s.cache.get j ≠ none) ∧ s.evictable i = true ∧
        ∃ older newer, s.recency = newer ++ i :: older ∧ ∀ j ∈ older, s.evictable j = false))

/-- The effective span runs from the lowest uncut tab of the written span to the highest, and there is
none exactly when every tab of it is cut (R88). -/
def Obligations.EffectiveSpanBoundsTheUncutTabs : Prop :=
  ∀ (written : Span) (mask : BitVec 12),
    let uncut := fun t => written.first ≤ t ∧ t < written.first + written.count ∧ tabCut mask t = false
    (∀ span, effectiveSpan written mask = some span →
      1 ≤ span.count ∧ uncut span.first ∧ uncut (span.first + span.count - 1) ∧
        ∀ t, uncut t → span.first ≤ t ∧ t < span.first + span.count) ∧
    (effectiveSpan written mask = none ↔ ∀ t, ¬uncut t)

/-- A CUT that passes its checks is admitted: word 2 takes the effective span, word 3 the verdict, word 0
is forwarded; an entry opens in the lowest free place with the sum of its limits, the board becomes
CUTTING and is no longer untouched, the nest is claimed by the router, and the router cursor advances. A HARD
to one of the three writes abandons it (R83, R85, R87, R89, R102, R106, R110). -/
def Obligations.CutIsAdmitted : Prop :=
  ∀ (s v : State) (tag : Tag) (q : Request) (answers rest : List MemAnswer) (b : BoardRef)
    (l m : CacheLine) (span : Span) (i : Fin 32) (free : List (Fin 32)),
    Posted s .router tag q → postRow .router q.data answers = some (.cut answers) →
    Answered answers 3 → Nest.ofCode (cmdNest (word1 s answers q)) = some b.nest →
    b.pos = cmdPosition (word1 s answers q) → (s.nest b.nest).state = .active →
    b.pos < s.boardCount b.nest →
    Fetched (s.waited answers 3) (answers.drop 3) b l v rest →
    v.boardBusy b = false → v.effectiveHold l ≠ .locked →
    (l.words.hw.state = .intact ∨ l.words.hw.state = .partCut) →
    1 ≤ (cmdSpan (word1 s answers q)).count →
    (cmdSpan (word1 s answers q)).first + (cmdSpan (word1 s answers q)).count ≤ l.words.hw.tabs →
    effectiveSpan (cmdSpan (word1 s answers q)) l.words.hw.cutMask = some span →
    (v.nest b.nest).claim ≠ .picker → v.freeEntries = i :: free →
    let limit := v.limits.cutBase + v.limits.cutTab * span.count
    let writes := [(q.word 2, cutTranslation span), (q.word 3, verdictAdmitted (some i) v.time),
      (q.word 0, q.data)]
    let u := v.wroteAll rest writes
    (∀ k, k < 3 → Answered rest k → ¬Answered rest (k + 1) →
      ∃ t, exec (.cut answers) s = .next t ∧ Abandoned (brokenOff v rest writes k) t tag) ∧
    (Answered rest 3 → u.cached b = some m → m.words = l.words →
      ∃ t, exec (.cut answers) s = .next t ∧
        (∃ changed, .entry i ∈ changed ∧ .status ∈ changed ∧ Ends { u with
          entries := v.entries.set i (some {
            state := .isOpen, ring := .router, slot := s.cursor .router
            sequence := ringSequence q.data, kind := .cut, board := b, cup := none, dest := none
            span := some span, partner := none, admitted := v.time
            expiry := if limit = 0 then none else some (v.time + BitVec.ofNat 32 limit), stored := none })
          order := v.order ++ [i]
          due := if limit ≠ 0 ∧ limit ≤ (u.time - v.time).toNat then u.due ++ [i] else u.due
          cache := t.cache, recency := t.recency, walker := t.walker, nestA := t.nestA, nestB := t.nestB
          cursors := advanced s .router } t tag .done changed) ∧
        Rewritten u t b m { l.words.hw with state := .cutting, untouched := false } ∧
        (∀ n, t.nest n = if n = b.nest then { u.nest n with status := .dirty, claim := .router }
          else u.nest n))

/-- A PICK that passes its checks is admitted: word 3 takes the verdict and word 0 is forwarded; an entry
opens, the board becomes PICKING with its cup, the cup becomes RESERVED for it, a SUSPECT cup that
named the board loses it, and the picker cursor advances. A HARD to one of the two writes abandons it (R38,
R83, R85, R90, R91, R102). -/
def Obligations.PickIsAdmitted : Prop :=
  ∀ (s v : State) (tag : Tag) (q : Request) (answers rest : List MemAnswer) (b : BoardRef)
    (l m : CacheLine) (c : Fin 4) (i : Fin 32) (free : List (Fin 32)),
    Posted s .picker tag q → postRow .picker q.data answers = some (.pick answers) →
    Answered answers 3 → Nest.ofCode (cmdNest (word1 s answers q)) = some b.nest →
    b.pos = cmdPosition (word1 s answers q) → (s.nest b.nest).state = .active →
    b.pos < s.boardCount b.nest →
    Fetched (s.waited answers 3) (answers.drop 3) b l v rest →
    v.boardBusy b = false → v.effectiveHold l = .isOpen → l.words.hw.state = .free →
    cmdCup (word1 s answers q) = c.val → (v.cups.get c).state = .empty →
    (v.nest b.nest).claim ≠ .router → v.freeEntries = i :: free →
    let limit := v.limits.pick
    let writes := [(q.word 3, verdictAdmitted (some i) v.time), (q.word 0, q.data)]
    let u := v.wroteAll rest writes
    (∀ k, k < 2 → Answered rest k → ¬Answered rest (k + 1) →
      ∃ t, exec (.pick answers) s = .next t ∧ Abandoned (brokenOff v rest writes k) t tag) ∧
    (Answered rest 2 → u.cached b = some m → m.words = l.words →
      ∃ t, exec (.pick answers) s = .next t ∧
        (∃ changed, .entry i ∈ changed ∧ .cup c ∈ changed ∧ .status ∈ changed ∧ Ends { u with
          entries := v.entries.set i (some {
            state := .isOpen, ring := .picker, slot := s.cursor .picker
            sequence := ringSequence q.data, kind := .pick, board := b, cup := some c, dest := none
            span := none, partner := none, admitted := v.time
            expiry := if limit = 0 then none else some (v.time + BitVec.ofNat 32 limit), stored := none })
          order := v.order ++ [i]
          due := if limit ≠ 0 ∧ limit ≤ (u.time - v.time).toNat then u.due ++ [i] else u.due
          cups := t.cups
          cache := t.cache, recency := t.recency, walker := t.walker, nestA := t.nestA, nestB := t.nestB
          cursors := advanced s .picker } t tag .done changed) ∧
        Rewritten u t b m { l.words.hw with state := .picking, cup := some c, untouched := false } ∧
        (∀ k, t.cups.get k = if k = c then ⟨.reserved, some b⟩
          else if (v.cups.get k).state = .suspect ∧ (v.cups.get k).ref = some b then ⟨.suspect, none⟩
          else v.cups.get k) ∧
        (∀ n, t.nest n = if n = b.nest then
            { u.nest n with
              status := .dirty, claim := if v.kindNames .cut n then .router else .picker }
          else u.nest n))

/-- A DISCARD of a board that is not GOOD is admitted: its cup becomes RESERVED_OUT, the board
DISCARDING; the claim and the other cups stay. A HARD to one of the two writes abandons it (R39, R83, R85, R98,
R99, R102; that a grade code that names none is not GOOD is notes/assumptions/15.md, that the nest summary is
written even where it is unchanged notes/assumptions/27.md). -/
def Obligations.DiscardIsAdmitted : Prop :=
  ∀ (s v : State) (tag : Tag) (q : Request) (answers rest : List MemAnswer) (b : BoardRef)
    (l m : CacheLine) (c : Fin 4) (i : Fin 32) (free : List (Fin 32)),
    Posted s .picker tag q → postRow .picker q.data answers = some (.discard answers) →
    Answered answers 3 → cmdCup (word1 s answers q) = c.val → s.cups.get c = ⟨.loaded, some b⟩ →
    Fetched (s.waited answers 3) (answers.drop 3) b l v rest →
    boardGrade l.words.w1 ≠ some .good → l.words.hw.state = .held → v.freeEntries = i :: free →
    let limit := v.limits.discard
    let writes := [(q.word 3, verdictAdmitted (some i) v.time), (q.word 0, q.data)]
    let u := v.wroteAll rest writes
    (∀ k, k < 2 → Answered rest k → ¬Answered rest (k + 1) →
      ∃ t, exec (.discard answers) s = .next t ∧ Abandoned (brokenOff v rest writes k) t tag) ∧
    (Answered rest 2 → u.cached b = some m → m.words = l.words →
      ∃ t, exec (.discard answers) s = .next t ∧
        (∃ changed, (∀ id ∈ [.entry i, .cup c, .nest b.nest, .status], id ∈ changed) ∧ Ends { u with
          entries := v.entries.set i (some {
            state := .isOpen, ring := .picker, slot := s.cursor .picker
            sequence := ringSequence q.data, kind := .discard, board := b, cup := some c, dest := none
            span := none, partner := none, admitted := v.time
            expiry := if limit = 0 then none else some (v.time + BitVec.ofNat 32 limit), stored := none })
          order := v.order ++ [i]
          due := if limit ≠ 0 ∧ limit ≤ (u.time - v.time).toNat then u.due ++ [i] else u.due
          cups := v.cups.set c ⟨.reservedOut, some b⟩
          cache := t.cache, recency := t.recency, walker := t.walker, nestA := t.nestA, nestB := t.nestB
          cursors := advanced s .picker } t tag .done changed) ∧
        Rewritten u t b m { l.words.hw with state := .discarding } ∧
        (∀ n, t.nest n = if n = b.nest then { u.nest n with status := .dirty } else u.nest n))

/-- A PLACE that passes its checks is admitted: the PRESENT record's words 1 to 3, the translation, the
verdict and the forwarded word 0 are written in this order; a pair opens whose entries name each other, the
board becomes PLACING with its placement, the cup RESERVED_OUT, the selected slot RESERVED; then the
PRESENT's VALID mark is written, and both cursors advance. If memory answers that last write HARD, the pair
expires at once with cause MEMORY: MEMORY is raised, both entries are EXPIRED, the board UNCERTAIN, the cup
and the slot SUSPECT, the capture is PICKER's; both cursors advance, and the answer is DONE all the same. A HARD
to one of the six writes before it abandons the command (R83, R85, R92 to R97, R102, R103, R112, R148; that the
capture names the PLACE's entry is notes/assumptions/16.md, that the nest summary is written even where it is
unchanged notes/assumptions/27.md). -/
def Obligations.PlaceIsAdmitted : Prop :=
  ∀ (s v : State) (tag : Tag) (q : Request) (answers rest : List MemAnswer) (b : BoardRef)
    (l m : CacheLine) (c : Fin 4) (sel : Selection) (mag : Magazine) (i j : Fin 32)
    (free : List (Fin 32)),
    Posted s .picker tag q → postRow .picker q.data answers = some (.place answers) →
    Answered answers 3 → cmdCup (word1 s answers q) = c.val → s.cups.get c = ⟨.loaded, some b⟩ →
    Fetched (s.waited answers 3) (answers.drop 3) b l v rest →
    l.words.hw.state = .held →
    ¬(boardGrade l.words.w1 = some .xout ∧ v.policy b.nest = some .discard) →
    (cmdLane (word1 s answers q) = laneAuto ∨
      cmdLane (word1 s answers q) = (v.effectiveLane l).val) →
    laneKindFits (boardGrade l.words.w1) (v.lanes.get (v.effectiveLane l)).kind = true →
    (v.lanes.get (v.effectiveLane l)).state = .isOpen → v.select (v.effectiveLane l) = some sel →
    (v.stations.get sel.station).magazine = some mag →
    v.slotNamed .stacker (v.cursor .stacker) = false → v.freeEntries = i :: j :: free →
    16 ≤ (s.ring .stacker).slots →
    let limit := v.limits.pair
    let a := (s.ring .stacker).slotAddr (s.cursor .stacker)
    let seq := ringSequence q.data
    let expiry := if limit = 0 then none else some (v.time + BitVec.ofNat 32 limit)
    let dest : Destination := ⟨sel.station, sel.lane, sel.slot, sel.generation, sel.serial⟩
    let place : Entry := {
      state := .isOpen, ring := .picker, slot := s.cursor .picker, sequence := seq, kind := .place
      board := b, cup := some c, dest := some dest, span := none, partner := some j
      admitted := v.time, expiry := expiry, stored := none }
    let present : Entry := { place with
      ring := .stacker, slot := s.cursor .stacker, kind := .present, cup := none, partner := some i }
    let writes := [
      (a + 8, presentWord1 sel.station sel.slot sel.serial sel.pitch),
      (a + 16, presentWord2 b (s.cursor .picker)), (a + 24, verdictAdmitted (some j) v.time),
      (q.word 2, placeTranslation sel.station sel.slot (s.cursor .stacker)),
      (q.word 3, verdictAdmitted (some i) v.time), (q.word 0, q.data)]
    let u := v.wroteAll rest writes
    let last := rest.drop 6
    let cursors := (s.cursors.set .picker ((s.ring .picker).after (s.cursor .picker))).set .stacker
      ((s.ring .stacker).after (s.cursor .stacker))
    (∀ k, k < 6 → Answered rest k → ¬Answered rest (k + 1) →
      ∃ t, exec (.place answers) s = .next t ∧ Abandoned (brokenOff v rest writes k) t tag) ∧
    (Answered rest 6 → u.cached b = some m → m.words = l.words →
      ∃ x t, exec (.place answers) s = .next t ∧
        x = { u with
          entries := (v.entries.set i (some place)).set j (some present)
          order := v.order ++ [i, j]
          due := if limit ≠ 0 ∧ limit ≤ (u.time - v.time).toNat then u.due ++ [i, j] else u.due
          cups := v.cups.set c ⟨.reservedOut, some b⟩
          stations := v.stations.set sel.station { v.stations.get sel.station with
            state := .filling, magazine := some { mag with slots := mag.slots.set sel.slot .reserved } }
          lanes := v.lanes.set sel.lane { v.lanes.get sel.lane with
            current := sel.index, pending := (v.lanes.get sel.lane).pending + 1 }
          cache := x.cache, recency := x.recency, walker := x.walker, nestA := x.nestA, nestB := x.nestB } ∧
        Rewritten u x b m { l.words.hw with
          state := .placing, placement := some ⟨sel.station, sel.slot, sel.serial⟩ } ∧
        (∀ n, x.nest n = if n = b.nest then { u.nest n with status := .dirty } else u.nest n) ∧
        (Answered last 1 →
          let y := x.wrote last (a, presentWord0 markValid seq)
          (∃ changed, (∀ id ∈ [.entry i, .entry j, .cup c, .lane sel.lane, .station sel.station,
              .nest b.nest, .status], id ∈ changed) ∧
            Ends { y with lanes := t.lanes, flags := t.flags, cursors := cursors } t tag .done changed) ∧
          (∀ k, t.lanes.get k = reevaluated t (x.lanes.get k)) ∧ LaneFlags y t x.lanes.get ∧
          FlagsBut y t [.laneStopped, .laneExhausted]) ∧
        (¬Answered last 1 →
          let y := x.awaitNext last
          let z := expiredPair { y with flags := y.flags ||| Flag.memory.bits } i j place present dest c
            .memory
          let capture : Capture := ⟨.memory, none, none, expiryRefs place i (some c), y.time⟩
          (∃ changed, (∀ id ∈ [.entry i, .entry j, .cup c, .lane sel.lane, .station sel.station,
              .nest b.nest, .status], id ∈ changed) ∧
            Ends { noted z .picker capture with
              lanes := t.lanes, flags := t.flags, cursors := cursors
              cache := t.cache, recency := t.recency, walker := t.walker, nestA := t.nestA
              nestB := t.nestB } t tag .done changed) ∧
          Lost y t b .memory ∧ t.flag .memory = true ∧
          (y.captureOf .picker = none → t.flag (.capture .picker) = true) ∧
          PairGone y t dest [.memory, .capture .picker]))

/-- A TRIAL that passes every check of its kind, RESOLVE's lookup with them, shows where a PLACE would go, takes
the verdict TRIED_OK, is forwarded with the mark TRIED and advances its cursor; its lookup may move the Board
Cache, and nothing else changes but what goes on beside the request. A HARD to one of its writes abandons it
(R100, R102, R159, R160). -/
def Obligations.TrialIsTriedAndChangesNothing : Prop :=
  ∀ (s v : State) (tag : Tag) (q : Request) (ring : CmdRing) (answers rest : List MemAnswer),
    ringTrial q.data = true → Answered answers 3 → Posted s ring tag q →
    let w1 := word1 s answers q
    let tried := fun (c : Instr) (dest : Option Selection) =>
      let shown := match dest with
        | some x => [(q.word 2, placeTranslation x.station x.slot (s.cursor .stacker))]
        | none => []
      let writes := shown ++ [(q.word 3, verdictTried (dest.map fun x => (x.station, x.slot)) v.time),
        (q.word 0, withMark q.data markTried)]
      let u := v.wroteAll rest writes
      OnlyBeside s v ∧
      (Answered rest writes.length → Undisturbed v u ∧ ∃ t, exec c s = .next t ∧
        Ends { u with cursors := advanced s ring } t tag .done [.status]) ∧
      (∀ k, k < writes.length → Answered rest k → ¬Answered rest (k + 1) →
        ∃ t, exec c s = .next t ∧ Abandoned (brokenOff v rest writes k) t tag)
    (∀ kind sel, postRow ring q.data answers = some (.trialCommand answers) →
      physicalKind ring (ringKind q.data) = some kind →
      physicalPasses kind w1 (Run.start (s.waited answers 3) (answers.drop 3)) =
        some (sel, Run.start v rest) →
      tried (.trialCommand answers) sel) ∧
    (∀ kind, ring = .service → postRow ring q.data answers = some (.trialServiceCommand answers) →
      serviceKind (ringKind q.data) = some kind → servicePasses kind w1 (s.waited answers 3) →
      v = s.waited answers 3 → rest = answers.drop 3 →
      tried (.trialServiceCommand answers) none) ∧
    (∀ b l r, ring = .service → postRow ring q.data answers = some (.trialServiceCommand answers) →
      serviceKind (ringKind q.data) = some .resolve → ResolveLooksUp s w1 b →
      Fetched (s.waited answers 3) (answers.drop 3) b l v rest → l.words.hw.state = .uncertain →
      Resolves v b l w1 r →
      tried (.trialServiceCommand answers) none)

/-! ### Service commands -/

/-- NEST_STOP makes an ACTIVE nest STOPPING, and STOPPED with NEST_STOPPED at once when no entry names it;
NEST_RESUME makes it ACTIVE again; a nest that is STOPPING or STOPPED already stays under a stop, and an
ACTIVE one under a resume (R67, R68, R69, R158). -/
def Obligations.NestStopsAndResumes : Prop :=
  ∀ (s : State) (tag : Tag) (q : Request) (answers : List MemAnswer) (n : Nest),
    Posted s .service tag q → Answered answers 5 → Nest.ofCode (cmdNest (word1 s answers q)) = some n →
    ((s.nest n).state = .active ∨ (s.nest n).state = .stopping ∨ (s.nest n).state = .stopped) →
    let u := accepted s answers q
    (postRow .service q.data answers = some (.nestStop answers) → cmdCondition (word1 s answers q) = 0 →
      let c := if (s.nest n).state = .active then
          drained (s.nestNamed n) { u.nest n with state := .stopping }
        else u.nest n
      ∃ t, exec (.nestStop answers) s = .next t ∧
        Ended { u.withNest n c with flags := u.flags ||| nestFlags n (s.nest n).state c.state } t tag
          [.status] [.nest n, .status]) ∧
    (postRow .service q.data answers = some (.nestResume answers) →
      ∃ t, exec (.nestResume answers) s = .next t ∧
        Ended (u.withNest n { u.nest n with state := .active }) t tag [.status] [.nest n, .status])

/-- NEST_SYNC queues a SYNC job and changes no nest. NEST_RELEASE makes a nest that nothing names RELEASING
and queues a RELEASE job; a LOADING nest it empties at once, its LOAD job removed from the queue, marked
cancelled, or its completion withdrawn (R71, R73, R74). -/
def Obligations.SyncAndReleaseReachTheWalker : Prop :=
  ∀ (s : State) (tag : Tag) (q : Request) (answers : List MemAnswer) (n : Nest),
    Posted s .service tag q → Answered answers 5 → Nest.ofCode (cmdNest (word1 s answers q)) = some n →
    let v := s.waited answers 3
    let u := accepted s answers q
    let noSync := .sync n ∉ v.jobs ∧ (∀ j, v.walker = .running j → j.job ≠ .sync n) ∧
      ∀ clean failed, v.walker ≠ .waiting (.sync n clean failed)
    let state := (s.nest n).state
    (postRow .service q.data answers = some (.nestSync answers) → noSync →
      (state = .illegal ∨ state = .active ∨ state = .stopping ∨ state = .stopped ∨ state = .complete) →
      ∃ t, exec (.nestSync answers) s = .next t ∧
        Ends { u with jobs := u.jobs ++ [.sync n] } t tag .done [.status]) ∧
    (postRow .service q.data answers = some (.nestRelease answers) → noSync →
      (state = .illegal ∨ state = .stopped ∨ state = .complete) →
      (∀ i e, s.entries.get i = some e → e.board.nest ≠ n) →
      (∀ c b, (s.cups.get c).ref = some b → b.nest ≠ n) →
      ∃ t, exec (.nestRelease answers) s = .next t ∧
        Ends { u.withNest n { u.nest n with
            state := .releasing, claim := .none, remaining := 0, typesValid := false } with
          jobs := u.jobs ++ [.release n] } t tag .done [.nest n, .status]) ∧
    (postRow .service q.data answers = some (.nestRelease answers) → state = .loading →
      ∃ t, exec (.nestRelease answers) s = .next t ∧
        Ends { u.withNest n { u.nest n with
            descriptor := none, typesValid := false, state := .empty, status := .off, claim := .none
            remaining := 0, loadResult := .none, firstBad := none } with
          jobs := t.jobs, walker := t.walker } t tag .done [.nest n, .status] ∧
        (t.jobs.Sublist u.jobs ∧ ∀ job, job ∈ t.jobs ↔ job ∈ u.jobs ∧ ∀ d, job ≠ .load n d) ∧
        (∀ result count, u.walker = .waiting (.load n result count) → t.walker = .idle) ∧
        (∀ j d, u.walker = .running j → j.job = .load n d →
          ∃ j', t.walker = .running j' ∧ j'.job = j.job ∧ j'.scan = j.scan ∧ j'.cancelled = true) ∧
        ((∀ j d, u.walker = .running j → j.job ≠ .load n d) →
          (∀ result count, u.walker ≠ .waiting (.load n result count)) → t.walker = u.walker))

/-- LANE_STOP records its request and stops the lane now, at the end of its current station, or not at all
where it is STOPPED already; a lane that stops announces it under its notice. LANE_RESUME drops the stop
request without announcing it; a PAUSED or STOPPED lane ends OPEN if one of its stations is usable, and
EXHAUSTED with LANE_EXHAUSTED raised if none is (R144, R146, R151, R152; that the lane's image is written and
waited for even where the lane is unchanged is notes/assumptions/22.md). -/
def Obligations.LaneStopAndResumeActOnTheLane : Prop :=
  ∀ (s : State) (tag : Tag) (q : Request) (answers : List MemAnswer) (l : Fin 16),
    Posted s .service tag q → Answered answers 5 → LanesSettled s → cmdLane (word1 s answers q) = l.val →
    (s.lanes.get l).state ≠ .closed →
    let old := s.lanes.get l
    let u := accepted s answers q
    (∀ (condition : StopCondition) (notice : StopNotice),
      postRow .service q.data answers = some (.laneStop answers) →
      cmdCondition (word1 s answers q) = condition.code → cmdNotice (word1 s answers q) = notice.code →
      let asked := { old with stop := some (⟨condition, notice⟩ : StopRequest) }
      let new := match old.state with
        | .stopped => old
        | .isOpen =>
          if condition = .now ∨ s.currentUsable old = false then noticed { asked with state := .stopped }
          else asked
        | _ => noticed { asked with state := .stopped }
      let announced := old.state ≠ .stopped ∧ new.state = .stopped ∧ new.stop = none
      ∃ t, exec (.laneStop answers) s = .next t ∧
        Ends { u with
          lanes := s.lanes.set l new
          flags := if announced then u.flags ||| Flag.laneStopped.bits else u.flags } t tag .done
          [.lane l, .status]) ∧
    (postRow .service q.data answers = some (.laneResume answers) →
      let held := old.state = .paused ∨ old.state = .stopped
      ∃ t, exec (.laneResume answers) s = .next t ∧
        Ends { u with
          lanes := s.lanes.set l { old with
            stop := none
            state := if held then (if s.someUsable old = true then .isOpen else .exhausted)
              else old.state }
          flags := if held ∧ s.someUsable old = false then u.flags ||| Flag.laneExhausted.bits
            else u.flags } t tag .done [.lane l, .status])

/-- STATION_RESET forgets the magazine, fault and attempts of a FAULTED or IDENTIFYING station to which no
pair in place is in flight, keeps its generation and label, and raises no flag. SLOT_SET gives a FREE, BLOCKED
or SUSPECT slot its target; the station's state follows from its slots, entering FULL raises STATION_CHANGE, and
the lanes are re-evaluated (R138, R144, R150, R153, R154; that SLOT_SET writes the station's image and waits for
it even where the slot is in its target state already is notes/assumptions/22.md). -/
def Obligations.StationResetAndSlotSetActOnTheStation : Prop :=
  ∀ (s : State) (tag : Tag) (q : Request) (answers : List MemAnswer) (i : Fin 8),
    Posted s .service tag q → Answered answers 5 → cmdStation (word1 s answers q) = i.val →
    let old := s.stations.get i
    (postRow .service q.data answers = some (.stationReset answers) → LanesSettled s →
      (old.state = .identifying ∨ ∃ c, old.state = .faulted c) → ¬PairAt s i →
      ∃ t, exec (.stationReset answers) s = .next t ∧
        Ends { accepted s answers q with
          stations := s.stations.set i { old with
            magazine := none, attempts := 0
            state := if old.mask = 0 then .disabled else .vacant } } t tag .done
          [.station i, .status]) ∧
    (∀ (m : Magazine) (target : SlotState),
      postRow .service q.data answers = some (.slotSet answers) →
      (target = .free ∨ target = .blocked) → cmdTarget (word1 s answers q) = target.code →
      old.magazine = some m →
      (∃ x, m.slots[cmdSlot (word1 s answers q)]? = some x ∧
        (x = .free ∨ x = .blocked ∨ x = .suspect)) →
      let new := reslotted old m (m.slots.set (cmdSlot (word1 s answers q)) target)
      let u := { accepted s answers q with stations := s.stations.set i new }
      ∃ t, exec (.slotSet answers) s = .next t ∧
        Ended { u with lanes := t.lanes, flags := t.flags } t tag [.station i, .status]
          (.station i :: .status :: (List.finRange 16).map .lane) ∧
        (∀ k, t.lanes.get k = reevaluated u (s.lanes.get k)) ∧ LaneFlags u t s.lanes.get ∧
        FlagsBut u t [.stationChange, .laneStopped, .laneExhausted] ∧
        (t.flag .stationChange = true ↔
          u.flag .stationChange = true ∨ (new.state = .full ∧ old.state ≠ .full)))

/-- The nest and lane commands, TRIAL or not, are refused SERVICE_RANGE for an operand that names none of its
values, and after that SERVICE_STATE: a stop and a resume outside ACTIVE, STOPPING and STOPPED, a sync outside
its states or beside another SYNC job of the nest, a release in its states or of a nest that something holds,
a lane command for a CLOSED lane (R68, R69, R71, R73, R84, R151, R152, R159; the references are those of
notes/assumptions/16.md). -/
def Obligations.NestAndLaneCommandsAreRefusedInOrder : Prop :=
  ∀ (s : State) (tag : Tag) (q : Request) (kind : ServiceKind) (c : Instr) (answers : List MemAnswer),
    Posted s .service tag q → serviceKind (ringKind q.data) = some kind →
    postRow .service q.data answers = some c → Answered answers 3 →
    let w1 := word1 s answers q
    let v := s.waited answers 3
    let refused := fun cause refs => PostRefused c s v tag q (answers.drop 3) cause refs
    ((kind = .nestStop ∨ kind = .nestResume ∨ kind = .nestSync ∨ kind = .nestRelease) →
      (Nest.ofCode (cmdNest w1) = none → refused .serviceRange {}) ∧
      (kind = .nestStop → cmdCondition w1 ≠ StopCondition.now.code → refused .serviceRange {}) ∧
      ∀ n, Nest.ofCode (cmdNest w1) = some n →
        let state := (s.nest n).state
        (((kind = .nestStop ∧ cmdCondition w1 = StopCondition.now.code) ∨ kind = .nestResume) →
          (state = .empty ∨ state = .loading ∨ state = .illegal ∨ state = .complete ∨
            state = .releasing) → refused .serviceState {}) ∧
        (kind = .nestSync →
          (state = .empty ∨ state = .loading ∨ state = .releasing ∨ SyncExists v n) →
          refused .serviceState {}) ∧
        (kind = .nestRelease →
          (state = .empty ∨ state = .active ∨ state = .stopping ∨ state = .releasing ∨
            (state ≠ .loading ∧ (SyncExists v n ∨
              (∃ i e, s.entries.get i = some e ∧ e.board.nest = n) ∨
              ∃ k b, (s.cups.get k).ref = some b ∧ b.nest = n))) →
          refused .serviceState {})) ∧
    ((kind = .laneStop ∨ kind = .laneResume) →
      (16 ≤ cmdLane w1 → refused .serviceRange {}) ∧
      ∀ l : Fin 16, cmdLane w1 = l.val →
        let refs : Refs := { lane := some l }
        let named := (∃ x : StopCondition, cmdCondition w1 = x.code) ∧
          ∃ x : StopNotice, cmdNotice w1 = x.code
        (kind = .laneStop → ¬named → refused .serviceRange refs) ∧
        ((kind = .laneStop → named) → (s.lanes.get l).state = .closed → refused .serviceState refs))

/-- STATION_RESET, SLOT_SET and RESOLVE, TRIAL or not, are refused with the cause of the first check that fails,
and with the references that their judgement has reached; those of RESOLVE after its lookup judge the part as
the lookup leaves it (R84, R153, R154, R159, R161, R162; notes/assumptions/16.md). -/
def Obligations.StationAndBoardCommandsAreRefusedInOrder : Prop :=
  ∀ (s : State) (tag : Tag) (q : Request) (kind : ServiceKind) (c : Instr) (answers : List MemAnswer),
    Posted s .service tag q → serviceKind (ringKind q.data) = some kind →
    postRow .service q.data answers = some c → Answered answers 3 →
    let w1 := word1 s answers q
    let v := s.waited answers 3
    let refused := fun cause refs => PostRefused c s v tag q (answers.drop 3) cause refs
    ((kind = .stationReset ∨ kind = .slotSet) →
      (8 ≤ cmdStation w1 → refused .serviceRange {}) ∧
      ∀ i : Fin 8, cmdStation w1 = i.val →
        let st := s.stations.get i
        let refs : Refs := { station := some i }
        (kind = .stationReset → (((st.state ≠ .identifying ∧ ∀ x, st.state ≠ .faulted x) ∨ PairAt s i) →
          refused .serviceState refs)) ∧
        (kind = .slotSet →
          let named := cmdTarget w1 = SlotState.free.code ∨ cmdTarget w1 = SlotState.blocked.code
          (¬named → refused .serviceRange refs) ∧
          (named → st.magazine = none → refused .serviceState refs) ∧
          (∀ m, named → st.magazine = some m → m.slots.length ≤ cmdSlot w1 →
            refused .serviceRange refs) ∧
          (∀ m, named → st.magazine = some m →
            (m.slots[cmdSlot w1]? = some .reserved ∨ m.slots[cmdSlot w1]? = some .occupied) →
            refused .serviceState { refs with slot := some (cmdSlot w1) }))) ∧
    (kind = .resolve →
      (Nest.ofCode (cmdNest w1) = none → refused .serviceRange {}) ∧
      (∀ n, Nest.ofCode (cmdNest w1) = some n →
        let refs : Refs := { nest := some n }
        (¬TargetNamed (cmdTarget w1) → refused .serviceRange refs) ∧
        (TargetNamed (cmdTarget w1) → (s.nest n).state.loaded = false → refused .serviceState refs) ∧
        (TargetNamed (cmdTarget w1) → (s.nest n).state.loaded = true → s.boardCount n ≤ cmdPosition w1 →
          refused .serviceRange refs)) ∧
      (∀ b l x rest, ResolveLooksUp s w1 b → Fetched v (answers.drop 3) b l x rest →
        let refs : Refs := { nest := some b.nest, pos := some b.pos }
        let h := l.words.hw
        let refusedThen := fun cause refs => PostRefused c s x tag q rest cause refs
        (h.state ≠ .uncertain → refusedThen .serviceState refs) ∧
        (∀ target, h.state = .uncertain → (target = .intact ∨ target = .partCut ∨ target = .free) →
          cmdTarget w1 = target.code →
          (2 ^ h.tabs ≤ (cmdMask w1).toNat ∨ derivedState h.tabs (cmdMask w1) ≠ target) →
          refusedThen .serviceRange refs) ∧
        (h.state = .uncertain → cmdTarget w1 = BoardState.held.code →
          (4 ≤ cmdCup w1 → refusedThen .serviceRange refs) ∧
          ∀ k : Fin 4, cmdCup w1 = k.val → (s.cups.get k).state ≠ .empty →
            s.cups.get k ≠ ⟨.suspect, some b⟩ →
            refusedThen .serviceState { refs with cup := some k }) ∧
        (h.state = .uncertain → cmdTarget w1 = BoardState.stacked.code →
          (8 ≤ cmdStation w1 → refusedThen .serviceRange refs) ∧
          ∀ i : Fin 8, cmdStation w1 = i.val →
            let refs := { refs with station := some i }
            ((s.stations.get i).magazine = none → refusedThen .serviceState refs) ∧
            (∀ m, (s.stations.get i).magazine = some m → m.slots.length ≤ cmdSlot w1 →
              refusedThen .serviceRange refs) ∧
            (∀ m y, (s.stations.get i).magazine = some m → m.slots[cmdSlot w1]? = some y →
              y ≠ .free → y ≠ .suspect →
              refusedThen .serviceState { refs with slot := some (cmdSlot w1) }))))

/-- RESOLVE gives an UNCERTAIN board its true state: the board, the cups, the slot and the nest's count take
what the target says, every entry that names the board is removed, and the EMPTY marks of the removed
PRESENT entries follow. NEST_COMPLETE, NEST_STOPPED and STATION_CHANGE are raised when the nest completes or
drains and the station enters FULL. A HARD to the verdict or the forward abandons it (R65, R67, R80, R121, R138,
R144, R146, R160 to R164; that the lanes have settled when the EMPTY marks are written is notes/assumptions/21.md). -/
def Obligations.ResolveSettlesTheBoard : Prop :=
  ∀ (s v : State) (tag : Tag) (q : Request) (answers rest : List MemAnswer) (b : BoardRef)
    (l m : CacheLine) (r : Resolution),
    Posted s .service tag q → postRow .service q.data answers = some (.resolve answers) →
    Answered answers 3 → TableListed s → Nest.ofCode (cmdNest (word1 s answers q)) = some b.nest →
    b.pos = cmdPosition (word1 s answers q) → (s.nest b.nest).state.loaded = true →
    b.pos < s.boardCount b.nest →
    Fetched (s.waited answers 3) (answers.drop 3) b l v rest →
    l.words.hw.state = .uncertain → Resolves v b l (word1 s answers q) r →
    let writes := [(q.word 3, verdictAdmitted none v.time), (q.word 0, q.data)]
    let u := v.wroteAll rest writes
    let gone := fun (e : Entry) => decide (e.board = b)
    (∀ k, k < 2 → Answered rest k → ¬Answered rest (k + 1) →
      ∃ t, exec (.resolve answers) s = .next t ∧ Abandoned (brokenOff v rest writes k) t tag) ∧
    (Answered rest 2 → u.cached b = some m → m.words = l.words →
      ∃ x t, exec (.resolve answers) s = .next t ∧
        x = { u with
          entries := x.entries, order := x.order, due := x.due, cache := x.cache, recency := x.recency
          walker := x.walker, nestA := x.nestA, nestB := x.nestB, cups := x.cups
          stations := x.stations, lanes := x.lanes, flags := x.flags, cursors := advanced s .service } ∧
        (∃ changed, .status ∈ changed ∧ .nest b.nest ∈ changed ∧
          (∀ i e, s.entries.get i = some e → e.board = b → .entry i ∈ changed) ∧
          Ends (emptiedAll x (rest.drop 2) (emptyMarks s gone)) t tag .done changed) ∧
        Rewritten u x b m (resolvedBoard r l.words.hw) ∧
        (∀ i, ∀ e, s.entries.get i = some e → x.entries.get i = if e.board = b then none else some e) ∧
        (∀ i, s.entries.get i = none → x.entries.get i = none) ∧
        (∀ i, i ∈ x.order ↔ i ∈ s.order ∧ ∀ e, s.entries.get i = some e → e.board ≠ b) ∧
        (∀ i, i ∈ x.due ↔ i ∈ u.due ∧ ∀ e, s.entries.get i = some e → e.board ≠ b) ∧
        (∀ k, x.cups.get k = resolvedCup r b k (v.cups.get k)) ∧
        (∀ i, (∀ slot serial, r ≠ .stacked i slot serial) → x.stations.get i = s.stations.get i) ∧
        (∀ i slot serial mag, r = .stacked i slot serial → (s.stations.get i).magazine = some mag →
          x.stations.get i = reslotted (s.stations.get i) mag (mag.slots.set slot .occupied)) ∧
        (∀ k, x.lanes.get k = match r with
          | .stacked _ _ _ => reevaluated x (s.lanes.get k)
          | _ => s.lanes.get k) ∧
        (∀ n, n ≠ b.nest → x.nest n = u.nest n) ∧
        (let c := { u.nest b.nest with
            status := ImageStatus.dirty
            claim := if ∃ i e, s.entries.get i = some e ∧ e.board = b ∧ (e.kind = .cut ∨ e.kind = .pick) then
              x.claimOf b.nest else (u.nest b.nest).claim };
          x.nest b.nest =
            drained (x.nestNamed b.nest) (if resolvedEnds r = true then countedDown c else c)) ∧
        NestFlags u x b.nest ∧ LaneFlags u x s.lanes.get ∧
        (x.flag .stationChange = true ↔ u.flag .stationChange = true ∨
          ∃ i, (x.stations.get i).state = .full ∧ (s.stations.get i).state ≠ .full) ∧
        FlagsBut u x [.nestComplete b.nest, .nestStopped b.nest, .stationChange, .laneStopped,
          .laneExhausted])

/-- FORGET removes one EXPIRED entry and leaves its board, cup, slot and partner; a removed PRESENT has its
stacker ring slot written EMPTY, the claim of the nest of a removed CUT or PICK is re-evaluated, and a
STOPPING nest is tested for drain; an entry that is free or in flight is refused, and so is an index above 31.
CUP_CLEAR empties a SUSPECT cup and drops its reference, leaves an EMPTY one as it is, and is refused for a cup
that an entry or a HELD board depends on and for a cup above 3 (R66, R67, R80, R121, R159, R165, R166). -/
def Obligations.ForgetAndCupClearRelease : Prop :=
  ∀ (s : State) (tag : Tag) (q : Request) (answers : List MemAnswer), Posted s .service tag q →
    let w1 := word1 s answers q
    let a := accepted s answers q
    let refused := fun c cause refs =>
      PostRefused c s (s.waited answers 3) tag q (answers.drop 3) cause refs
    (∀ c, postRow .service q.data answers = some c → serviceKind (ringKind q.data) = some .forget →
      Answered answers 3 →
      (32 ≤ cmdEntry w1 → refused c .serviceRange {}) ∧
      ∀ i : Fin 32, cmdEntry w1 = i.val → (∀ e, s.entries.get i = some e → e.inFlight = true) →
        refused c .serviceState { entry := some i }) ∧
    (∀ (i : Fin 32) e cause, postRow .service q.data answers = some (.forget answers) →
      Answered answers 5 → cmdEntry w1 = i.val → s.entries.get i = some e → e.state = .expired cause →
      let n := e.board.nest
      let v := without s i
      let c := drained (v.nestNamed n) { a.nest n with
        claim := if e.kind = .cut ∨ e.kind = .pick then v.claimOf n else (s.nest n).claim }
      let u := { State.withNest (without a i) n c with
        flags := a.flags ||| nestFlags n (s.nest n).state c.state }
      ∃ t, exec (.forget answers) s = .next t ∧
        Ended (if e.kind = .present then emptied u (answers.drop 5) (emptyMark s e) else u) t tag
          [.entry i, .status] [.entry i, .nest n, .status]) ∧
    (∀ c, postRow .service q.data answers = some c → serviceKind (ringKind q.data) = some .cupClear →
      Answered answers 3 →
      (4 ≤ cmdCup w1 → refused c .serviceRange {}) ∧
      ∀ k : Fin 4, cmdCup w1 = k.val →
        ((s.cups.get k).state = .reserved ∨ (s.cups.get k).state = .loaded ∨
          (s.cups.get k).state = .reservedOut) → refused c .serviceState { cup := some k }) ∧
    (∀ k : Fin 4, postRow .service q.data answers = some (.cupClear answers) → Answered answers 5 →
      cmdCup w1 = k.val →
      ((s.cups.get k).state = .suspect → ∃ t, exec (.cupClear answers) s = .next t ∧
        Ends { a with cups := s.cups.set k ⟨.empty, none⟩ } t tag .done [.cup k, .status]) ∧
      ((s.cups.get k).state = .empty → ∃ t, exec (.cupClear answers) s = .next t ∧
        Ends a t tag .done [.status]))

/-- CELL_CLEAR removes every entry and queues the image of each of the 32; boards in flight become UNCERTAIN
with last cause CLEARED, RESERVED and RESERVED_OUT cups and RESERVED slots SUSPECT, every pending pair
count 0 with its drain notice looked at, and STOPPING nests STOPPED; UNCERTAIN is raised for a board made
so, STATION_CHANGE for a station that enters FULL, there is no capture, and the EMPTY marks of the removed PRESENT entries follow. The nests are DIRTY where a
record of theirs has changed and keep the rest, and a running SYNC job that has passed a changed record is told
(R49, R56, R70, R80, R138, R144, R146, R167, R168; that the lanes, flags and nests have settled when the EMPTY marks are written
is notes/assumptions/21.md). -/
def Obligations.CellClearDiscardsEveryEntry : Prop :=
  ∀ (s : State) (tag : Tag) (q : Request) (answers : List MemAnswer),
    Posted s .service tag q → postRow .service q.data answers = some (.cellClear answers) →
    Answered answers 5 → TableListed s →
    let u := accepted s answers q
    let flying := fun b => ∃ i e, s.entries.get i = some e ∧ e.inFlight = true ∧ e.board = b
    let lost := fun b => flying b ∧
      ∃ l, u.cached b = some l ∧ madeUncertain .cleared l.words.hw ≠ l.words.hw
    ∃ x t, exec (.cellClear answers) s = .next t ∧
      x = { u with
        entries := x.entries, order := [], due := [], cache := x.cache, recency := x.recency
        walker := x.walker, nestA := x.nestA, nestB := x.nestB, cups := x.cups
        stations := x.stations, lanes := x.lanes, flags := x.flags } ∧
      (∃ changed, .status ∈ changed ∧ (∀ i, .entry i ∈ changed) ∧
        Ends (emptiedAll x (answers.drop 5) (emptyMarks s fun _ => true)) t tag .done changed) ∧
      (∀ i, x.entries.get i = none) ∧
      (∀ b l, lost b → u.cached b = some l → x.cached b = some { l with
        words := l.words.withHw { madeUncertain .cleared l.words.hw with time := u.time }, dirty := true }) ∧
      (∀ b, ¬lost b → x.cached b = u.cached b) ∧ Told u x lost ∧
      (∀ k, x.cups.get k =
        if (s.cups.get k).state = .reserved ∨ (s.cups.get k).state = .reservedOut then
          { s.cups.get k with state := .suspect } else s.cups.get k) ∧
      (∀ i, x.stations.get i =
        match (s.stations.get i).magazine with
        | some m =>
          if .reserved ∈ m.slots then reslotted (s.stations.get i) m (m.slots.map clearedSlot)
          else s.stations.get i
        | none => s.stations.get i) ∧
      (∀ k, x.lanes.get k = reevaluated x (noticed { s.lanes.get k with pending := 0 })) ∧
      (∀ n, x.nest n = { u.nest n with
        state := if (s.nest n).state = .stopping then .stopped else (s.nest n).state
        claim :=
          if ∃ i e, s.entries.get i = some e ∧ e.board.nest = n ∧ (e.kind = .cut ∨ e.kind = .pick) then
            .none else (s.nest n).claim
        status := (x.nest n).status }) ∧
      (∀ n b, lost b → b.nest = n → (x.nest n).status = .dirty) ∧
      (∀ n, (∀ b, lost b → b.nest ≠ n) → (x.nest n).status = (s.nest n).status) ∧
      (∀ n, x.flag (.nestStopped n) = true ↔
        u.flag (.nestStopped n) = true ∨ (s.nest n).state = .stopping) ∧
      (x.flag .uncertain = true ↔ u.flag .uncertain = true ∨ ∃ b, flying b) ∧
      (x.flag .stationChange = true ↔ u.flag .stationChange = true ∨
        ∃ i, (x.stations.get i).state = .full ∧ (s.stations.get i).state ≠ .full) ∧
      LaneFlags u x s.lanes.get ∧
      FlagsBut u x [.nestStopped .a, .nestStopped .b, .uncertain, .stationChange, .laneStopped,
        .laneExhausted]

/-! ### Reports -/

/-- A CUT_END adds the tabs it reports done to the mask, counted from the first tab of the effective span,
and the board takes the state that the mask gives; its entry is removed, the claim re-evaluated, and a
TOOL_FAULT stops an ACTIVE nest (R24, R66, R67, R121, R122). -/
def Obligations.CutEndDerivesTheBoard : Prop :=
  ∀ (s : State) (tag : Tag) (q : Request) (answers : List MemAnswer) (i : Fin 32) (e : Entry)
    (span : Span) (l : CacheLine),
    Reported s .router tag q → reportRow .router q.data answers = .cutEnd answers →
    Answered answers 4 → Answers s .router q i e → e.kind = .cut → e.state = .isOpen →
    e.span = some span → cutEndDone (word1 s answers q) ≤ span.count →
    let u := appliedReport s answers q
    u.cached e.board = some l → l.words.hw.state = .cutting →
    ∃ x t, exec (.cutEnd answers) s = .next t ∧ CutEnded u x i e span l (word1 s answers q) ∧
      Ended x t tag [.entry i] [.entry i, .nest e.board.nest, .status]

/-- A PICK_END ends its pick: DONE makes the board HELD and the cup LOADED, FAIL the board FREE and the cup
EMPTY, DROPPED the board LOST and the cup EMPTY with one board fewer remaining. A DISCARD_END ends its discard:
DONE makes the board SCRAPPED and DROPPED makes it LOST, each with the cup EMPTY and one board fewer remaining,
ABORT makes it HELD with the cup LOADED; the claim stays (R65, R66, R121, R123, R124). -/
def Obligations.PickAndDiscardEndsSettleTheCup : Prop :=
  ∀ (s : State) (tag : Tag) (q : Request) (answers : List MemAnswer) (i : Fin 32) (e : Entry)
    (c : Fin 4) (l : CacheLine),
    Reported s .picker tag q → Answered answers 4 → Answers s .picker q i e → e.state = .isOpen →
    e.cup = some c →
    let u := appliedReport s answers q
    u.cached e.board = some l →
    let result := reportResult (word1 s answers q)
    let images := [ImageId.entry i, .cup c, .nest e.board.nest, .status]
    (reportRow .picker q.data answers = .pickEnd answers → e.kind = .pick → result ≠ .abort →
      l.words.hw.state = .picking →
      ∃ x t, exec (.pickEnd answers) s = .next t ∧ PickEnded u x i e c l result ∧
        Ended x t tag [.entry i] images) ∧
    (reportRow .picker q.data answers = .discardEnd answers → e.kind = .discard → result ≠ .fail →
      l.words.hw.state = .discarding →
      ∃ x t, exec (.discardEnd answers) s = .next t ∧ DiscardEnded u x i e c l result ∧
        Ended x t tag [.entry i] images)

/-- The first report of an OPEN pair is stored in the entry it answers with its payload, ring slot and time,
both entries become HALF, and no board, cup, slot, lane or count changes (R105, R125; that a report which lies
in its report ring no longer is stored as at slot 0 is notes/assumptions/31.md). -/
def Obligations.FirstReportOfAPairIsStored : Prop :=
  ∀ (s : State) (tag : Tag) (q : Request) (answers : List MemAnswer) (p r : Fin 32)
    (place present : Entry) (d : Destination) (c : Fin 4) (layout : RingLayout) (slot : Nat),
    Answered answers 4 → Pair s p r place present d c → place.state = .isOpen →
    present.state = .isOpen → place.stored = none → present.stored = none → s.rings = some layout →
    let u := appliedReport s answers q
    let result := reportResult (word1 s answers q)
    let seen := presentEndObs (word1 s answers q)
    (Reported s .picker tag q → reportRow .picker q.data answers = .placeEnd answers →
      slot = ((layout.report .picker).slotOf q.addr.toNat).getD 0 → Answers s .picker q p place →
      result ≠ .fail →
      ∃ t, exec (.placeEnd answers) s = .next t ∧
        Ends (halved u p r place present ⟨.placeEnd result, slot, u.time⟩) t tag .done
          [.entry p, .entry r]) ∧
    (Reported s .stacker tag q → reportRow .stacker q.data answers = .presentEnd answers →
      slot = ((layout.report .stacker).slotOf q.addr.toNat).getD 0 → Answers s .stacker q r present →
      ∃ t, exec (.presentEnd answers) s = .next t ∧
        Ends (halved u r p present place ⟨.presentEnd seen, slot, u.time⟩) t tag .done
          [.entry r, .entry p])

/-- The second report of a pair resolves it by the picker's result and the stacker's observation, whichever
came first: the board, the cup, the slots of the magazine in place, the lane and the nest take what the
outcome says, both entries are removed, the nest summary is among the images, and the stacker ring slot is
marked EMPTY; NEST_COMPLETE and NEST_STOPPED are raised when the nest completes or drains (R65, R67, R80, R121,
R125 to R127, R138, R144 to R146, R149; that the lanes have settled when the EMPTY mark is written
is notes/assumptions/21.md, that a collision raises STATION_CHANGE at a station that is FAULTED already
notes/assumptions/25.md, that another serial leaves the slot of a magazine in place RESERVED
notes/assumptions/30.md). -/
def Obligations.SecondReportResolvesThePair : Prop :=
  ∀ (s : State) (tag : Tag) (q : Request) (ring : RepRing) (row : Instr) (answers : List MemAnswer)
    (p r : Fin 32) (place present : Entry) (d : Destination) (c : Fin 4) (l : CacheLine)
    (result : Result) (o : Observation),
    Reported s ring tag q → reportRow ring q.data answers = row → Answered answers 4 →
    Pair s p r place present d c → place.state = .half → present.state = .half →
    ((row = .placeEnd answers ∧ Answers s ring q p place ∧ place.stored = none ∧
        result = reportResult (word1 s answers q) ∧ result ≠ .fail ∧
        ∃ k tm, present.stored = some ⟨.presentEnd o, k, tm⟩) ∨
      (row = .presentEnd answers ∧ Answers s ring q r present ∧ present.stored = none ∧
        o = presentEndObs (word1 s answers q) ∧ result ≠ .fail ∧
        ∃ k tm, place.stored = some ⟨.placeEnd result, k, tm⟩)) →
    let u := appliedReport s answers q
    u.cached place.board = some l → l.words.hw.state = .placing →
    ∃ x t changed, exec row s = .next t ∧ PairResolved u x p r place d c l result o ∧
      .entry p ∈ changed ∧ .entry r ∈ changed ∧ .nest place.board.nest ∈ changed ∧
      (x.cups.get c ≠ s.cups.get c → .cup c ∈ changed) ∧
      Ends (emptied x (answers.drop 4) (emptyMark s present)) t tag .done changed

/-- A solicited report that fits its entry, a half of a pair or not, passes over every earlier entry of its ring
that awaits its report. Each expires with cause SKIPPED in list order, a pair whole, with the effects by kind;
then the report does what it does where none is passed over, the lanes are re-evaluated, and each skip is handed
to the Condition Unit in list order, so that the first one fills an EMPTY capture of its source. The images of
all that has changed, with the nest summaries of the skipped boards, are queued and waited for (R65 to R67, R80,
R111 to R113, R120 to R127, R138, R144 to R146, R149, R173, R183; that a capture names the skipped entry of a
pair is notes/assumptions/16.md, that it takes the time after the EMPTY mark's cycle and that the lanes have
settled when that mark is written notes/assumptions/21.md; notes/assumptions/25.md, notes/assumptions/27.md,
notes/assumptions/30.md and notes/assumptions/31.md hold as for the reports that skip none). The pairs in flight
are linked, and the lanes settled, as every step keeps them; `m` is what the cache holds for the matched entry's
board after the skips. -/
def Obligations.FittingReportSkipsEarlierEntries : Prop :=
  ∀ (s : State) (tag : Tag) (q : Request) (ring : RepRing) (answers : List MemAnswer) (i : Fin 32)
    (e : Entry) (l : CacheLine) (before after : List (Fin 32)),
    Reported s ring tag q → Answered answers 4 → PairsLinked s → LanesSettled s →
    s.entryNamed ring.answers (ringAnswered q.data) (ringSequence q.data) = some i →
    s.entries.get i = some e → s.order = before ++ i :: after → i ∉ before →
    let w1 := word1 s answers q
    let result := reportResult w1
    let u := appliedReport s answers q
    let row := reportRow ring q.data answers
    let skipped := before.filter fun j =>
      (s.entries.get j).any fun f => f.ring == ring.answers && f.awaits
    let report := fun (does : State → State → Prop) =>
      ∃ y z t changed, exec row s = .next t ∧ Skipped skipped u y ∧ does y z ∧
        ShowsChanges s t changed ∧
        (∀ j ∈ skipped, ∀ f, s.entries.get j = some f → .nest f.board.nest ∈ changed) ∧
        (∀ src, z.captureOf src = none → t.captureOf src ≠ none →
          .capture src ∈ changed ∧ .status ∈ changed) ∧
        Ends (skipped.foldl (skipNoted s) z) t tag .done changed
    (u.cached e.board = some l → e.state = .isOpen →
      (∀ span, row = .cutEnd answers → e.kind = .cut → e.span = some span →
        cutEndDone w1 ≤ span.count → l.words.hw.state = .cutting →
        report fun y z => ∃ x m, y.cached e.board = some m ∧
          CutEnded y x i e span m w1 ∧ Resettled x z) ∧
      (∀ c, row = .pickEnd answers → e.kind = .pick → e.cup = some c → result ≠ .abort →
        l.words.hw.state = .picking →
        report fun y z => ∃ x m, y.cached e.board = some m ∧
          PickEnded y x i e c m result ∧ Resettled x z) ∧
      (∀ c, row = .discardEnd answers → e.kind = .discard → e.cup = some c → result ≠ .fail →
        l.words.hw.state = .discarding →
        report fun y z => ∃ x m, y.cached e.board = some m ∧
          DiscardEnded y x i e c m result ∧ Resettled x z)) ∧
    (∀ p r place present d c, Pair s p r place present d c →
      (∀ layout slot, place.state = .isOpen → present.state = .isOpen → place.stored = none →
        present.stored = none → s.rings = some layout →
        slot = ((layout.report ring).slotOf q.addr.toNat).getD 0 →
        (row = .placeEnd answers → i = p → result ≠ .fail → report fun y z =>
          Resettled (halved y p r place present ⟨.placeEnd result, slot, u.time⟩) z) ∧
        (row = .presentEnd answers → i = r → report fun y z =>
          Resettled (halved y r p present place ⟨.presentEnd (presentEndObs w1), slot, u.time⟩) z)) ∧
      (∀ final o, u.cached place.board = some l → l.words.hw.state = .placing →
        place.state = .half → present.state = .half → final ≠ .fail →
        ((row = .placeEnd answers ∧ i = p ∧ place.stored = none ∧ final = result ∧
            ∃ k tm, present.stored = some ⟨.presentEnd o, k, tm⟩) ∨
          (row = .presentEnd answers ∧ i = r ∧ present.stored = none ∧ o = presentEndObs w1 ∧
            ∃ k tm, place.stored = some ⟨.placeEnd final, k, tm⟩)) →
        report fun y z => ∃ x m, y.cached place.board = some m ∧
          PairResolved y x p r place d c m final o ∧
          z = emptied x (answers.drop 4) (emptyMark s present)))

/-- A solicited report that meets no entry, and a report of a kind that is not its ring's, change nothing but
the verdict and the capture of their source, which names the station of an ARRIVED or REMOVED on the router or
picker report ring; a late report removes its entry too, with the EMPTY mark of a PRESENT, and its partner,
board, cup and slot stay (R80, R116 to R118, R121, R173; that the capture of a late PRESENT_END names no cup is
notes/assumptions/16.md, that it takes the time after the EMPTY mark's cycle notes/assumptions/21.md). -/
def Obligations.UnmatchedReportsAreDisputed : Prop :=
  ∀ (s : State) (tag : Tag) (q : Request) (ring : RepRing) (answers : List MemAnswer),
    Reported s ring tag q → Answered answers 4 →
    (reportKind ring (ringKind q.data) = none →
      let ofStation := reportKind .stacker (ringKind q.data) = some .arrived ∨
        reportKind .stacker (ringKind q.data) = some .removed
      (¬ofStation → ∃ t, exec (.reportKindMismatch answers) s = .next t ∧
        Disputed s t answers tag q ring .kindMismatch {}) ∧
      (ofStation → 8 ≤ ringStation q.data → ∃ t, exec (.reportKindMismatch answers) s = .next t ∧
        Disputed s t answers tag q ring .kindMismatch {}) ∧
      (∀ i : Fin 8, ofStation → ringStation q.data = i.val →
        ∃ t, exec (.reportKindMismatch answers) s = .next t ∧
          Disputed s t answers tag q ring .kindMismatch { station := some i })) ∧
    (∀ k, reportKind ring (ringKind q.data) = some k → k ≠ .arrived → k ≠ .removed →
      s.entryNamed ring.answers (ringAnswered q.data) (ringSequence q.data) = none →
      ∃ t, exec (reportRow ring q.data answers) s = .next t ∧
        Disputed s t answers tag q ring .noEntry {}) ∧
    (∀ k i e cause, reportKind ring (ringKind q.data) = some k → k ≠ .arrived → k ≠ .removed →
      s.entryNamed ring.answers (ringAnswered q.data) (ringSequence q.data) = some i →
      s.entries.get i = some e → e.state = .expired cause →
      let n := e.board.nest
      let v := without s i
      let w := disputedReport s answers q .late
      let c := drained (v.nestNamed n) { w.nest n with
        claim := if e.kind = .cut ∨ e.kind = .pick then v.claimOf n else (s.nest n).claim }
      let x := { State.withNest (without w i) n c with
        flags := w.flags ||| nestFlags n (s.nest n).state c.state }
      let u := if e.kind = .present then emptied x (answers.drop 4) (emptyMark s e) else x
      let capture : Capture := ⟨.late, none, some ⟨tag, .write, q.addr⟩, expiryRefs e i e.cup, u.time⟩
      ∃ t, exec (reportRow ring q.data answers) s = .next t ∧
        Ended (noted u ring.source capture) t tag (.entry i :: notedImages u ring.source)
          [.entry i, .nest n, .capture ring.source, .status])

/-- A report whose kind does not answer its entry, that repeats a half of a pair, or that carries a result
not given for its kind is disputed KIND_MISMATCH; a CUT_END that fits but counts more tabs than the span has
is disputed OUT_OF_SPAN. The entry expires with cause DISPUTED, a pair whole and with its stored report
kept; the dispute is handed to the Condition Unit under the report's source, and then the expiry under the
source of its kind (R111, R112, R113, R116, R117, R119; that the expiry's capture names the matched entry of
a pair is notes/assumptions/16.md). -/
def Obligations.MisfitReportExpiresItsEntry : Prop :=
  ∀ (s : State) (tag : Tag) (q : Request) (ring : RepRing) (k : ReportKind) (answers : List MemAnswer)
    (i : Fin 32) (e : Entry) (cause : Cause),
    Reported s ring tag q → reportKind ring (ringKind q.data) = some k → k ≠ .arrived → k ≠ .removed →
    Answered answers 4 →
    s.entryNamed ring.answers (ringAnswered q.data) (ringSequence q.data) = some i →
    s.entries.get i = some e → (e.state = .isOpen ∨ e.state = .half) →
    Misfits k e (word1 s answers q) cause →
    let u := disputedReport s answers q cause
    let disputed : Refs → Capture := fun refs => ⟨cause, none, some ⟨tag, .write, q.addr⟩, refs, u.time⟩
    ((e.kind = .cut ∨ e.kind = .pick ∨ e.kind = .discard) →
      let src : Source := if e.kind = .cut then .router else .picker
      let x := noted (expiredSingle u i e .disputed) ring.source (disputed (expiryRefs e i e.cup))
      ∃ t, exec (reportRow ring q.data answers) s = .next t ∧
        (∃ changed, .entry i ∈ changed ∧ .nest e.board.nest ∈ changed ∧
          Ends { noted x src ⟨.disputed, none, none, expiryRefs e i e.cup, u.time⟩ with
            cache := t.cache, recency := t.recency, walker := t.walker, nestA := t.nestA
            nestB := t.nestB } t tag .done changed) ∧
        Lost u t e.board .disputed) ∧
    (∀ p r place present d c, Pair s p r place present d c →
      ((i = p ∧ e = place) ∨ (i = r ∧ e = present)) →
      let x := noted (expiredPair u p r place present d c .disputed) ring.source
        (disputed (expiryRefs e i e.cup))
      ∃ t, exec (reportRow ring q.data answers) s = .next t ∧
        (∃ changed, .entry p ∈ changed ∧ .entry r ∈ changed ∧ .nest place.board.nest ∈ changed ∧
          Ends { noted x (missing place) ⟨.disputed, none, none, expiryRefs e i (some c), u.time⟩ with
            lanes := t.lanes, flags := t.flags, cache := t.cache, recency := t.recency
            walker := t.walker, nestA := t.nestA, nestB := t.nestB } t tag .done changed) ∧
        Lost u t place.board .disputed ∧
        PairGone u t d [.capture ring.source, .capture (missing place)])

/-- A label reported at a VACANT or IDENTIFYING station is kept; a bad check counts an attempt and faults
the station at the fourth; a good one identifies the magazine by the lowest matching type that the mask
allows, under the next generation that no entry records for the station, or faults the station
(R129, R133 to R136). -/
def Obligations.ArrivedLabelIsJudged : Prop :=
  ∀ (s : State) (tag : Tag) (q : Request) (answers : List MemAnswer) (i : Fin 8),
    Reported s .stacker tag q → reportRow .stacker q.data answers = .arrived answers →
    Answered answers 4 → ringStation q.data = i.val →
    let old := s.stations.get i
    (old.state = .vacant ∨ old.state = .identifying) → old.attempts ≤ 3 →
    let label := arrivedLabel (word1 s answers q)
    let held := fun (g : BitVec 8) => ∃ j e d, s.entries.get j = some e ∧ e.dest = some d ∧
      d.station = i ∧ d.generation = g
    let matching := fun k => (s.magTypes.get k).isDefined = true ∧ (s.magTypes.get k).code = label.code
    let u := appliedReport s answers q
    ∃ t, exec (.arrived answers) s = .next t ∧
      Ended { u with
        stations := t.stations, lanes := t.lanes, flags := t.flags } t tag [.station i]
        (.station i :: .status :: (List.finRange 16).map .lane) ∧
      (∀ k, k ≠ i → t.stations.get k = s.stations.get k) ∧
      (∀ k, t.lanes.get k = reevaluated t (s.lanes.get k)) ∧ LaneFlags u t s.lanes.get ∧
      FlagsBut u t [.stationChange, .laneStopped, .laneExhausted] ∧
      (label.crc ≠ label.check → old.attempts + 1 < 4 →
        t.stations.get i = { old with
          label := some label, attempts := old.attempts + 1, state := .identifying } ∧
        t.flag .stationChange = u.flag .stationChange) ∧
      (label.crc ≠ label.check → old.attempts = 3 →
        t.stations.get i = { old with
          label := some label, attempts := 4, state := .faulted .labelUnreadable } ∧
        t.flag .stationChange = true) ∧
      (label.crc = label.check → (∀ k, ¬matching k) →
        t.stations.get i = { old with
          label := some label, attempts := 0, state := .faulted .typeUnknown } ∧
        t.flag .stationChange = true) ∧
      (label.crc = label.check → (∃ k, matching k) →
        (∀ k, matching k → old.mask.getLsbD k.val = false) →
        t.stations.get i = { old with
          label := some label, attempts := 0, state := .faulted .typeNotAllowed } ∧
        t.flag .stationChange = true) ∧
      (∀ k, label.crc = label.check → matching k → old.mask.getLsbD k.val = true →
        (∀ j, matching j → old.mask.getLsbD j.val = true → k ≤ j) →
        ∃ step : Nat, 1 ≤ step ∧ step ≤ 33 ∧
          (¬held (old.generation + BitVec.ofNat 8 step)) ∧
          (∀ x, 1 ≤ x → x < step → held (old.generation + BitVec.ofNat 8 x)) ∧
          t.stations.get i = { old with
            label := some label, attempts := 0, state := .ready
            generation := old.generation + BitVec.ofNat 8 step
            magazine := some ⟨k, label.serial, (s.magTypes.get k).pitch, label.inhibit != 0,
              List.replicate (s.magTypes.get k).slotCount .free⟩ } ∧
          t.flag .stationChange = true)

/-- A station report for a station that does not exist or is DISABLED, an ARRIVED at one that is taken and a
REMOVED at one without a magazine to lose are disputed; another REMOVED forgets the magazine, its slots
and the attempts, keeps the generation and the label, and raises STATION_CHANGE; entries and boards stay
(R128, R134, R137). -/
def Obligations.RemovedForgetsTheMagazine : Prop :=
  ∀ (s : State) (tag : Tag) (q : Request) (answers : List MemAnswer),
    Reported s .stacker tag q → Answered answers 4 →
    (∀ row, row = .arrived answers ∨ row = .removed answers → reportRow .stacker q.data answers = row →
      8 ≤ ringStation q.data →
      ∃ t, exec row s = .next t ∧ Disputed s t answers tag q .stacker .stationDisabled {}) ∧
    (∀ i : Fin 8, reportRow .stacker q.data answers = .arrived answers → ringStation q.data = i.val →
      let state := (s.stations.get i).state
      (state = .disabled → ∃ t, exec (.arrived answers) s = .next t ∧
        Disputed s t answers tag q .stacker .stationDisabled { station := some i }) ∧
      ((state = .ready ∨ state = .filling ∨ state = .full ∨ ∃ c, state = .faulted c) →
        ∃ t, exec (.arrived answers) s = .next t ∧
          Disputed s t answers tag q .stacker .arrivalConflict { station := some i })) ∧
    (∀ i : Fin 8, reportRow .stacker q.data answers = .removed answers → ringStation q.data = i.val →
      let old := s.stations.get i
      ((old.state = .vacant ∨ old.state = .disabled) → ∃ t, exec (.removed answers) s = .next t ∧
        Disputed s t answers tag q .stacker .nothingToRemove { station := some i }) ∧
      (old.state ≠ .vacant → old.state ≠ .disabled → ∃ t, exec (.removed answers) s = .next t ∧
        Ended { appliedReport s answers q with
          stations := s.stations.set i { old with
            magazine := none, attempts := 0, state := if old.mask = 0 then .disabled else .vacant }
          lanes := t.lanes, flags := t.flags } t tag [.station i]
          (.station i :: .status :: (List.finRange 16).map .lane) ∧
        (∀ k, t.lanes.get k = reevaluated t (s.lanes.get k)) ∧ t.flag .stationChange = true ∧
        LaneFlags (appliedReport s answers q) t s.lanes.get ∧
        FlagsBut (appliedReport s answers q) t [.stationChange, .laneStopped, .laneExhausted]))

/-! ### Expiry -/

/-- The entry that became due first expires. A CUT, PICK or DISCARD stays in the list as EXPIRED, its board
becomes UNCERTAIN, its cup SUSPECT with its reference kept, UNCERTAIN is raised, the capture of its axis is
filled if it is EMPTY, and the nest summary is queued. A pair expires whole: both entries stay as EXPIRED with a
stored report kept, the board becomes UNCERTAIN, the cup SUSPECT, the assigned slot SUSPECT while the pair's
magazine is in place, and the lane has one pair fewer pending; the capture is that of the source whose report is
missing, and the nest summary is queued (R110 to R113, R145). That the capture names the entry through which the
pair came due is the model's choice (notes/assumptions/16.md). -/
def Obligations.ExpiryLeavesTheBoardUncertain : Prop :=
  ∀ (s : State) (i : Fin 32) (later : List (Fin 32)),
    s.mode = .guarded → s.engine = .serving expiryPosition → s.due = i :: later →
    (∀ e, s.entries.get i = some e → (e.kind = .cut ∨ e.kind = .pick ∨ e.kind = .discard) →
      let src : Source := if e.kind = .cut then .router else .picker
      let x := expiredSingle s i e .expired
      ∃ t, exec .expiry s = .next t ∧
        EndedInternally { noted x src ⟨.expired, none, none, expiryRefs e i e.cup, s.time⟩ with
          cache := t.cache, recency := t.recency, walker := t.walker, nestA := t.nestA
          nestB := t.nestB } t (.entry i :: .nest e.board.nest :: notedImages x src)
          (.entry i :: .nest e.board.nest :: .status :: .capture src :: e.cup.toList.map .cup) ∧
        Lost s t e.board .expired) ∧
    (∀ (p r : Fin 32) (place present : Entry) (d : Destination) (c : Fin 4),
      TableListed s → (i = p ∨ i = r) → Pair s p r place present d c →
      let src := missing place
      let x := expiredPair s p r place present d c .expired
      ∃ t, exec .pairExpiry s = .next t ∧
        (∃ changed, .entry p ∈ changed ∧ .entry r ∈ changed ∧ .nest place.board.nest ∈ changed ∧
          EndsInternally { noted x src ⟨.expired, none, none, expiryRefs place i (some c), s.time⟩ with
            lanes := t.lanes, flags := t.flags
            cache := t.cache, recency := t.recency, walker := t.walker, nestA := t.nestA
            nestB := t.nestB } t changed) ∧
        Lost s t place.board .expired ∧ PairGone s t d [.capture src])

/-! ### Captures, flags, edits -/

/-- A release with the state EMPTY empties a HELD capture and clears its flag, and leaves an EMPTY one; any
other state is refused IMAGE_WRITE under PROC, and the capture named stays (R173, R174, R176). A flag clear
clears the flags of 4 to 23 whose bits it carries and no other; one that names no set flag of those changes
nothing (R178, R179). -/
def Obligations.CapturesAndFlagsAreCleared : Prop :=
  ∀ (s : State) (tag : Tag) (q : Request), s.mode = .guarded → s.heldInHand = some (tag, q) →
    (∀ src, q.cls = .captureRelease src →
      (ringMark q.data = 0 → s.captureOf src = none →
        ∃ t, exec .captureRelease s = .next t ∧ EndsAtOnce s t tag .done) ∧
      (ringMark q.data = 0 → s.captureOf src ≠ none →
        ∃ t, exec .captureRelease s = .next t ∧
          Ends { s with
            captures := s.captures.set src.idx none
            flags := s.flags &&& ~~~(Flag.capture src).bits } t tag .done [.capture src, .status]) ∧
      (ringMark q.data ≠ 0 →
        ∃ t, exec .captureRelease s = .next t ∧
          Refused s t tag .proc ⟨.imageWrite, none, some ⟨tag, .write, q.addr⟩, {}, s.time⟩)) ∧
    (q.cls = .flagClear →
      let named := fun k => 4 ≤ k ∧ q.data.getLsbD k = true
      ((∀ k, named k → s.flags.getLsbD k = false) →
        ∃ t, exec .flagClear s = .next t ∧ EndsAtOnce s t tag .done) ∧
      (∀ k, named k → s.flags.getLsbD k = true →
        ∃ t, exec .flagClear s = .next t ∧
          Ends { s with flags := t.flags } t tag .done [.status] ∧
          ∀ j, t.flags.getLsbD j = true ↔ s.flags.getLsbD j = true ∧ ¬named j))

/-- A board edit is refused while the nest loads, while an entry names the board, and for a word with an
unnamed grade or a lane of 16 or more, in this order; another is forwarded and replaces word 1 in the
entry that holds the record, which stays as it is otherwise (R36, R37; that a nest which has become EMPTY while
the edit waited is one of the others is notes/assumptions/20.md). -/
def Obligations.BoardEditReplacesWord1 : Prop :=
  ∀ (s : State) (tag : Tag) (q : Request) (answers : List MemAnswer) (b : BoardRef),
    s.mode = .guarded → s.heldInHand = some (tag, q) → q.cls = .boardEdit b →
    let loading := (s.nest b.nest).state = .loading
    let busy := ∃ i e, s.entries.get i = some e ∧ e.board = b
    let valid := bits q.data 0 2 ≤ 2 ∧ (bit q.data 16 = true → bits q.data 17 5 < 16)
    let refused := fun cause => ∃ t, exec (.boardEdit answers) s = .next t ∧
      Refused s t tag .proc ⟨cause, none, some ⟨tag, .write, q.addr⟩,
        { nest := some b.nest, pos := some b.pos }, s.time⟩
    (loading → refused .nestLoading) ∧
    (¬loading → busy → refused .boardBusy) ∧
    (¬loading → ¬busy → ¬valid → refused .serviceRange) ∧
    (¬loading → ¬busy → valid → Answered answers 1 →
      let u := s.wrote answers (q.word 0, q.data)
      ∃ t, exec (.boardEdit answers) s = .next t ∧
        EndsAtOnce { u with cache := t.cache } t tag .done ∧
        (∀ b', t.cached b' = if b' = b then
            (u.cached b).map fun l => { l with words := { l.words with w1 := q.data } }
          else u.cached b'))

/-! ### The Root Record -/

/-- The judgement of a load follows the sections: in OPEN_PATH mode the lowest missing of S0, S1 and S2 fails
it; then the selected sections are looked at in order, each with its contents, its regions against every region
that will stand, an overlap being charged to the higher of the selected sections that define the two, and then
its permission (R187 to R190). -/
def Obligations.LoadIsJudgedInOrder : Prop :=
  ∀ (s v : State) (q : Request) (answers : List MemAnswer),
    let b := bodyOf s answers q
    (∀ k, b.selects k = true ↔ k < 10 ∧ bit q.data (16 + k) = true) ∧
    (∀ f, v.judgeLoad b = some f ↔ LoadFails v b f) ∧
    (v.judgeLoad b = none ↔ ∀ f, ¬LoadFails v b f)

/-- A load reads its sections word by word, each as memory holds it when that read is granted, and judges
them with the part as it stands after the last read. One that fails a step of its judgement applies
nothing: in GUARDED mode the last load result takes the cause and its section and the refusal goes through
the PROC capture rule; in OPEN_PATH mode it is answered SOFT and leaves no trace. In OPEN_PATH mode the
lowest missing of S0, S1 and S2 fails it. A load that was classified in OPEN_PATH mode and is taken in GUARDED
mode from a tag that is not PROC is a guard refusal: it reads and forwards nothing, the last-guard record takes
it, GUARD is set, and it is answered HARD after the status block (R14, R186, R187, R191). -/
def Obligations.RefusedLoadAppliesNothing : Prop :=
  ∀ (s : State) (tag : Tag) (q : Request) (answers : List MemAnswer),
    s.heldInHand = some (tag, q) → q.cls = .load →
    (s.mode = .guarded → q.role = none → s.roleOf tag ≠ .proc →
      ∃ t, exec (.rootRecordLoad answers) s = .next t ∧
        Ends { s with
          lastGuard := some ⟨q.addr, tag, .write⟩
          flags := s.flags ||| Flag.guard.bits } t tag .hard [.status]) ∧
    (∀ f, Answered answers (bodySize q) →
      let v := loadRead s answers q
      v.judgeLoad (bodyOf s answers q) = some f →
      (s.mode = .guarded → (q.role ≠ none ∨ s.roleOf tag = .proc) →
        ∃ t, exec (.rootRecordLoad answers) s = .next t ∧
          Refused { v with loadStatus := f.status } t tag .proc
            ⟨f.cause, some f.sect, some ⟨tag, .write, q.addr⟩, {}, v.time⟩) ∧
      (s.mode = .openPath →
        ∃ t, exec (.rootRecordLoad answers) s = .next t ∧
          EndsAtOnce v t tag .soft) ∧
      (s.mode = .openPath → ∀ k, k < 3 → bit q.data (16 + k) = false →
        (∀ j, j < k → bit q.data (16 + j) = true) → f = .incomplete k))

/-- A load that passes its judgement forwards the load word and replaces what its sections select: roles,
rings with the cursors at 0, image base, descriptors with their LOAD jobs, lanes, masks, magazine types,
limits and routing; the part is GUARDED with LOAD_DONE set, the full image follows S2, and nothing else
changes (R59, R109, R129, R132, R142, R192 to R194). -/
def Obligations.AcceptedLoadAppliesItsSections : Prop :=
  ∀ (s : State) (tag : Tag) (q : Request) (answers : List MemAnswer),
    s.heldInHand = some (tag, q) → q.cls = .load → Answered answers (bodySize q + 1) →
    let v := loadRead s answers q
    v.judgeLoad (bodyOf s answers q) = none → LanesSettled s →
    (s.mode = .guarded → q.role ≠ none ∨ s.roleOf tag = .proc) →
    let b := bodyOf s answers q
    let u := v.wrote (answers.drop (bodySize q)) (q.word 0, q.data)
    ∃ t waits, exec (.rootRecordLoad answers) s = .next t ∧
      t = { u with
        mode := .guarded
        loadGen := loadGeneration q.data
        loadStatus := .ok
        roles := if b.selects 0 then some (rolesOf (b.words 0)) else s.roles
        rings := if b.selects 1 then some (ringsOf (b.words 1)) else s.rings
        cursors := if b.selects 1 then ⟨0, 0, 0, 0⟩ else s.cursors
        imageBase := if b.selects 2 then some (imageBaseOf (b.words 2)) else s.imageBase
        jobs := t.jobs, nestA := t.nestA, nestB := t.nestB, lanes := t.lanes, stations := t.stations
        magTypes := if b.selects 7 then
          Table.ofFn fun i => magTypeOf (wordAt (b.words 7) i.val) else s.magTypes
        limits := if b.selects 8 then limitsOf (b.words 8) else s.limits
        routeA := if b.selects 9 then BitVec.ofNat 24 (bits (wordAt (b.words 9) 0) 0 24) else s.routeA
        routeB := if b.selects 9 then BitVec.ofNat 24 (bits (wordAt (b.words 9) 0) 32 24) else s.routeB
        flags := t.flags, images := t.images
        requests := u.requests.set tag none
        engine := .finishing ⟨tag, .done, waits⟩ } ∧
      .status ∈ waits ∧ (∀ id ∈ waits, id ∈ t.images) ∧
      (b.selects 2 = true → ∀ id, id ∈ waits) ∧
      (∀ n, t.nest n = if b.selects n.sect then
          { u.nest n with
            descriptor := some (descriptorOf (b.words n.sect)), state := .loading, loadResult := .none
            firstBad := none }
        else u.nest n) ∧
      t.jobs = u.jobs ++ ([Nest.a, Nest.b].filter fun n => b.selects n.sect).map (fun n =>
        Job.load n (descriptorOf (b.words n.sect))) ∧
      (∀ i, t.stations.get i = if b.selects 6 then
          { s.stations.get i with
            mask := maskOf (b.words 6) i
            state := match (s.stations.get i).state with
              | .vacant => if maskOf (b.words 6) i = 0 then .disabled else .vacant
              | .disabled => if maskOf (b.words 6) i = 0 then .disabled else .vacant
              | other => other }
        else s.stations.get i) ∧
      (∀ k, t.lanes.get k = if b.selects 5 then
          reevaluated t ((s.lanes.get k).configured (wordAt (b.words 5) k.val)) else s.lanes.get k) ∧
      t.flag .loadDone = true ∧
      LaneFlags u t (fun k => if b.selects 5 then (s.lanes.get k).configured (wordAt (b.words 5) k.val)
        else s.lanes.get k) ∧ FlagsBut u t [.loadDone, .laneExhausted]

/-! ### The walker -/

/-- An idle walker starts the oldest job. A LOAD job whose work has ended presents its result, and ends
without one when it was cancelled. A SYNC or RELEASE job ends when no entry of its nest from the scan point
on needs a write-back; a RELEASE job drops those entries (R53 to R57; that the end takes in the clean
entries left is notes/assumptions/9.md). -/
def Obligations.WalkerStartsAndEndsJobs : Prop :=
  ∀ s : State,
    (∀ job rest, s.walker = .idle → s.jobs = job :: rest →
      exec .walkerJobStart s = .next { s with
        walker := .running ⟨job, 0, false, false, none, 0, match job with
          | .load _ _ => .types 0
          | _ => .scanning⟩
        jobs := rest }) ∧
    (∀ j n d result, s.walker = .running j → j.job = .load n d → j.phase = .ended result →
      exec .loadJobEnd s = .next (if j.cancelled = true then { s with walker := .idle }
        else State.takeNext { s with walker := .waiting (.load n result j.counted) })) ∧
    (∀ j n, s.walker = .running j → j.phase = .scanning →
      (∀ i l, j.scan ≤ i.val → s.cache.get i = some l → l.board.nest = n → l.dirty = false) →
      (j.job = .sync n →
        exec .syncJobEnd s = .next (State.takeNext { s with
          walker := .waiting (.sync n (!j.redirtied) j.failure.isSome) })) ∧
      (j.job = .release n →
        ∃ t, exec .releaseJobEnd s = .next t ∧
          t = State.takeNext { s with
            walker := .waiting (.release n j.failure.isSome), cache := t.cache
            recency := t.recency } ∧
          (∀ i, t.cache.get i =
            if j.scan ≤ i.val ∧ (s.cache.get i).any (fun l => l.board.nest == n) then none
            else s.cache.get i)))

/-- A downstream cycle of the walker is granted in its turn and does what its job is at. A LOAD job reads the
64 types into the Type Store, then the four words of each record; it ends INVALID at a record that fails a
check, writes words 0, 2 and 3 of one that normalisation changes, and counts those that are not LEFT. A
SYNC or RELEASE job takes up a dirty entry with a snapshot, writes words 0, 2 and 3 of it, and leaves the
entry valid or invalid. A HARD raises MEMORY, ends a LOAD job FAILED with its step, and ends a write-back
with its failure kept, a SYNC's entry dirty again (R20, R51, R53 to R57, R60 to R62, R180; that memory stands
after a HARD is notes/assumptions/3.md, that `visits` entries are taken up before the grant
notes/assumptions/9.md, when a record counts as changed notes/assumptions/15.md, that the addresses of the
type table wrap notes/assumptions/18.md, that an entry whose in-flight mark is gone is left as it is
notes/assumptions/28.md, that of several failures the latest is kept notes/assumptions/29.md, that a LOAD job's
scan point stays at its last position notes/assumptions/32.md). -/
def Obligations.WalkerCycleServesItsJob : Prop :=
  ∀ (s : State) (visits : Nat) (j : RunningJob), s.mode = .guarded →
    (∀ i l, s.walker = .running j → j.phase = .scanning → (∀ n d, j.job ≠ .load n d) → j.scan = i.val →
      s.cache.get i = some l → l.board.nest = j.job.nest → l.dirty = true →
      s.scan 1 = { s with
        cache := s.cache.set i (some { l with dirty := false, writeBack := true })
        walker := .running { j with phase := .flushing 0 l.board.pos l.words } }) ∧
    let u := s.scan visits
    let v := { u with portLast := .walker }
    (u.walker = .running j → u.granted false = some .walker →
      (∀ n d, j.job = .load n d →
        let next := fun (left : Bool) => LoadGoesOn j d left
        let a := d.tableBase.toNat + 32 * j.scan
        (∀ k, j.phase = .types k → k < 64 →
          let entry := typeEntryOf
            (Memory.readWord u.mem ((d.typeBase.toNat + 8 * k) % Config.addressSpace))
          exec (.portCycle visits false) s = .next { v.withNest n { u.nest n with
              types := (u.nest n).types.set (Fin.ofNat 64 k) entry } with
            walker := .running { j with phase := if k = 63 then .record [] else .types (k + 1) } }) ∧
        (∀ ws, j.phase = .record ws → ws.length < 3 →
          exec (.portCycle visits false) s = .next { v with
            walker := .running { j with
              phase := .record (ws ++ [Memory.readWord u.mem (a + 8 * ws.length)]) } }) ∧
        (∀ w0 w1 w2, j.phase = .record [w0, w1, w2] →
          let w : BoardWords := ⟨w0, w1, w2, Memory.readWord u.mem (a + 24)⟩
          let normal := Normalised w d.policy
          (¬RecordFits (u.nest n) j.scan w →
            exec (.portCycle visits false) s = .next { v with
              walker := .running { j with phase := .ended (.invalid j.scan) } }) ∧
          (RecordFits (u.nest n) j.scan w →
            exec (.portCycle visits false) s = .next { v with
              walker := .running (
                if w.sameFields (w.withHw normal) = true then next (normal.state == .left)
                else { j with phase := .storing 0 (w.withHw { normal with time := u.time }) }) })) ∧
        (∀ k w, j.phase = .storing k w → k < 3 →
          exec (.portCycle visits false) s = .next { v with
            mem := Memory.writeBytes u.mem (a + WritesBack.offset k) (WritesBack.word w k) 8
            walker := .running (if k < 2 then { j with phase := .storing (k + 1) w }
              else next (w.hw.state == .left)) }) ∧
        (∀ pos, ((∃ k, j.phase = .types k ∧ pos = none) ∨ (∃ ws, j.phase = .record ws ∧ pos = some j.scan) ∨
            (∃ k w, j.phase = .storing k w ∧ pos = some j.scan)) →
          ∃ t, exec (.portCycle visits true) s = .next t ∧
            t = { v with
              flags := u.flags ||| Flag.memory.bits, images := t.images
              walker := .running { j with
                failure := some (match pos with
                  | none => .typeTable
                  | some p => .position p)
                phase := .ended (.failed pos) } } ∧
            ∀ id, id ∈ t.images ↔ id ∈ u.images ∨ (id = .status ∧ u.flag .memory = false))) ∧
      (∀ k pos w i, (∀ n d, j.job ≠ .load n d) → j.phase = .flushing k pos w → j.scan = i.val →
        let past := { j with scan := j.scan + 1, phase := .scanning }
        let left := fun (failed : Bool) => match u.cache.get i with
          | some l =>
            if l.writeBack = false then some l
            else if j.job = .release j.job.nest then none
            else some { l with dirty := l.dirty || failed, writeBack := false }
          | none => none
        (k < 3 →
          ∃ t, exec (.portCycle visits false) s = .next t ∧
            t = { v with
              mem := Memory.writeBytes u.mem (u.boardAddr ⟨j.job.nest, pos⟩ + WritesBack.offset k)
                (WritesBack.word w k) 8
              cache := if k < 2 then u.cache else u.cache.set i (left false)
              recency := if k = 2 ∧ u.cache.get i ≠ none ∧ left false = none then u.recency.erase i
                else u.recency
              walker := .running (if k < 2 then { j with phase := .flushing (k + 1) pos w } else past) }) ∧
        ∃ t, exec (.portCycle visits true) s = .next t ∧
          t = { v with
            flags := u.flags ||| Flag.memory.bits, images := t.images
            cache := u.cache.set i (left true)
            recency := if u.cache.get i ≠ none ∧ left true = none then u.recency.erase i else u.recency
            walker := .running { past with
              failure := some (.entry i.val)
              redirtied := if j.job = .release j.job.nest then j.redirtied else true } } ∧
          ∀ id, id ∈ t.images ↔ id ∈ u.images ∨ (id = .status ∧ u.flag .memory = false)))

/-- The Engine applies a completion to its nest: a load's result decides state, count, load result and first
bad position; a sync makes the status CLEAN only when its result is and no entry of the nest is dirty; a
release empties the nest. The walker becomes idle (R53, R63, R72, R75). -/
def Obligations.CompletionsReachTheNest : Prop :=
  ∀ (s : State) (n : Nest), s.mode = .guarded → s.engine = .serving walkerPosition →
    (∀ result count, s.walker = .waiting (.load n result count) → (s.nest n).state = .loading →
      let c := match result with
        | .ok => { s.nest n with
            state := if count = 0 then .complete else .active, remaining := count, loadResult := .ok
            firstBad := none, status := .initial, typesValid := true }
        | .invalid p => { s.nest n with
            state := .illegal, remaining := 0, loadResult := .invalid, firstBad := some p
            status := .initial }
        | .failed p => { s.nest n with
            state := .illegal, remaining := 0, loadResult := .failed, firstBad := p
            status := .initial }
      ∃ t, exec .loadCompletion s = .next t ∧
        EndedInternally { State.withNest s n c with
          walker := .idle
          flags := s.flags ||| (Flag.nestReady n).bits ||| nestFlags n .loading c.state }
          t [.nest n] [.nest n, .status]) ∧
    (∀ clean failed, s.walker = .waiting (.sync n clean failed) →
      ∃ t, exec .syncCompletion s = .next t ∧
        EndedInternally { State.withNest s n { s.nest n with
            status := if clean = true ∧ ∀ i l, s.cache.get i = some l → l.board.nest = n →
              l.dirty = false then .clean else .dirty } with
          walker := .idle, flags := s.flags ||| (Flag.nestSynced n).bits }
          t [.nest n] [.nest n, .status]) ∧
    (∀ failed, s.walker = .waiting (.release n failed) →
      ∃ t, exec .releaseCompletion s = .next t ∧
        EndedInternally { State.withNest s n { s.nest n with
            descriptor := none, typesValid := false, state := .empty, status := .off, claim := .none
            remaining := 0, loadResult := .none, firstBad := none } with
          walker := .idle, flags := s.flags ||| (Flag.nestSynced n).bits }
          t [.nest n] [.nest n, .status])

/-! ### Stations and lanes -/

/-- When a station is usable (R143). -/
def Obligations.StationIsUsableWhen : Prop :=
  ∀ st : Station,
    (st.usable = true ↔ (st.state = .ready ∨ st.state = .filling) ∧
      ∃ m, st.magazine = some m ∧ m.inhibited = false ∧ .free ∈ m.slots) ∧
    ((st.state = .disabled ∨ st.state = .vacant ∨ st.state = .identifying ∨ st.state = .full ∨
      ∃ c, st.state = .faulted c) → st.usable = false) ∧
    (∀ m, st.magazine = some m → m.inhibited = true → st.usable = false)

/-! ### What every step keeps -/

/-- Cell memory keeps its canonical form (notes/assumptions/2.md). -/
def Obligations.MemoryStaysCanonical : Prop := KeptByStep MemoryCanonical

/-- The CAPTURE flags mirror the captures (R178). -/
def Obligations.CaptureFlagsMirrorTheCaptures : Prop := KeptByStep FlagsMirrorCaptures

/-- In OPEN_PATH mode no image is queued, no capture is taken and no flag is set (R4, R172, R177). -/
def Obligations.OpenPathStaysSilent : Prop := KeptByStep OpenPathSilent

/-- An OPEN lane has a usable station, and its current one is usable while a stop waits for that station's
end; an EXHAUSTED lane has no usable station and no such stop (R141, R144). -/
def Obligations.LanesStaySettled : Prop := KeptByStep LanesSettled

/-- The list of the table holds each entry in use once and no other, and only those are due; so listed, only OPEN
and HALF entries are due; and where that holds, each entry stands for its ring, and the two entries of a pair in
flight name each other, their state, board and destination being the same; the recency order of the Board Cache holds each valid entry once and no other (R42, R85, R105, R106,
R110). -/
def Obligations.ListsStayListed : Prop :=
  KeptByStep TableListed ∧ KeptByStep (fun s => TableListed s ∧ DueInFlight s) ∧
    KeptByStep TableInOrder ∧ KeptByStep RecencyListed

/-- A tag has one cycle in the part at most, in one place: at the pass-through source, at the arbiter, waiting
for the images of a refusal of the Classifier, or ended by the Engine but for its images; its master waits
meanwhile (R1, R2). -/
def Obligations.EachTagWaitsInOnePlace : Prop := KeptByStep OneCyclePerTag

/-- Once GUARDED the part stays so until RESET_N, and a HELD capture stays as it is until RESET_N or a
release of it (R4, R173, R176). -/
def Obligations.GuardedModeAndHeldCapturesStay : Prop :=
  ∀ (c : Instr) (s t : State), c ≠ .resetN → exec c s = .next t →
    (s.mode = .guarded → t.mode = .guarded) ∧
    (∀ src held, s.captureOf src = some held → t.captureOf src ≠ some held →
      c = .captureRelease ∧ ∃ tag q, s.heldInHand = some (tag, q) ∧ q.cls = .captureRelease src ∧
        t.captureOf src = none)

/-- The state after RESET_N meets every condition that the steps keep. -/
def Obligations.ResetMeetsWhatStepsKeep : Prop :=
  MemoryCanonical State.reset ∧ FlagsMirrorCaptures State.reset ∧ OpenPathSilent State.reset ∧
    LanesSettled State.reset ∧ TableInOrder State.reset ∧
    RecencyListed State.reset ∧ OneCyclePerTag State.reset
end

