-- ==== Sys2Proof/Laws/Table.lean ====
section
/-! SUPPORT. What reading a table gives after it was written, and which numbers a search in a table
finds. -/

namespace Sys2Proof.Table

variable {n : Nat} {α : Type}

theorem ext_get {t u : Table n α} (h : ∀ i, t.get i = u.get i) : t = u := by
  cases t with
  | mk tv ht =>
    cases u with
    | mk uv hu =>
      have : tv = uv := by
        apply List.ext_getElem (by rw [ht, hu])
        intro i h1 _
        exact h ⟨i, ht ▸ h1⟩
      cases this
      rfl

@[simp] theorem get_set_self (t : Table n α) (i : Fin n) (x : α) : (t.set i x).get i = x := by
  simp [get, set]

@[simp] theorem get_set_ne (t : Table n α) {i j : Fin n} (x : α) (h : j ≠ i) :
    (t.set i x).get j = t.get j := by
  have : i.val ≠ j.val := fun e => h (Fin.ext e.symm)
  simp [get, set, this]

theorem get_set (t : Table n α) (i j : Fin n) (x : α) :
    (t.set i x).get j = if j = i then x else t.get j := by
  by_cases h : j = i
  · subst h; simp
  · simp [h]

@[simp] theorem get_replicate (x : α) (i : Fin n) : (replicate n x).get i = x := by
  simp [get, replicate]

@[simp] theorem get_ofFn (f : Fin n → α) (i : Fin n) : (ofFn f).get i = f i := by
  simp [get, ofFn]

@[simp] theorem set_get_self (t : Table n α) (i : Fin n) : t.set i (t.get i) = t := by
  apply ext_get
  intro j
  rw [get_set]
  split
  · next h => rw [h]
  · rfl

theorem any_iff (t : Table n α) (p : α → Bool) : t.any p = true ↔ ∃ i, p (t.get i) = true := by
  simp only [any, List.any_eq_true, get]
  constructor
  · rintro ⟨x, hx, hp⟩
    obtain ⟨k, hk, rfl⟩ := List.mem_iff_getElem.1 hx
    exact ⟨⟨k, t.size ▸ hk⟩, hp⟩
  · rintro ⟨i, hp⟩
    exact ⟨_, List.getElem_mem _, hp⟩

theorem any_false_iff (t : Table n α) (p : α → Bool) :
    t.any p = false ↔ ∀ i, p (t.get i) = false := by
  constructor
  · intro h i
    cases hp : p (t.get i) with
    | false => rfl
    | true => rw [(any_iff t p).2 ⟨i, hp⟩] at h; cases h
  · intro h
    cases ha : t.any p with
    | false => rfl
    | true =>
      obtain ⟨i, hp⟩ := (any_iff t p).1 ha
      rw [h i] at hp; cases hp

theorem mem_indices (t : Table n α) (p : α → Bool) (i : Fin n) :
    i ∈ t.indices p ↔ p (t.get i) = true := by
  simp [indices]

theorem nodup_indices (t : Table n α) (p : α → Bool) : (t.indices p).Nodup :=
  (List.nodup_finRange n).filter _

theorem firstIndex_some {t : Table n α} {p : α → Bool} {i : Fin n} (h : t.firstIndex p = some i) :
    p (t.get i) = true := by
  have := List.find?_some h
  exact this

theorem firstIndex_none {t : Table n α} {p : α → Bool} :
    t.firstIndex p = none ↔ ∀ i, p (t.get i) = false := by
  simp [firstIndex]

end Sys2Proof.Table
end

