-- ==== Sys2Proof/Laws/State.lean ====
section
/-! SUPPORT. The state, field by field: what each named update of the state leaves in every field. -/

namespace Sys2Proof.Machine

/-! ### State.acknowledge -/

@[simp] theorem State.acknowledge_mode (s : State) (t : Tag) (a : Ack) (d : Option Word) :
    (s.acknowledge t a d).mode = s.mode := rfl

@[simp] theorem State.acknowledge_roles (s : State) (t : Tag) (a : Ack) (d : Option Word) :
    (s.acknowledge t a d).roles = s.roles := rfl

@[simp] theorem State.acknowledge_rings (s : State) (t : Tag) (a : Ack) (d : Option Word) :
    (s.acknowledge t a d).rings = s.rings := rfl

@[simp] theorem State.acknowledge_imageBase (s : State) (t : Tag) (a : Ack) (d : Option Word) :
    (s.acknowledge t a d).imageBase = s.imageBase := rfl

@[simp] theorem State.acknowledge_masters (s : State) (t : Tag) (a : Ack) (d : Option Word) :
    (s.acknowledge t a d).masters = s.masters.set t (.answered a d) := rfl

@[simp] theorem State.acknowledge_waits (s : State) (t : Tag) (a : Ack) (d : Option Word) :
    (s.acknowledge t a d).waits = s.waits := rfl

@[simp] theorem State.acknowledge_pass (s : State) (t : Tag) (a : Ack) (d : Option Word) :
    (s.acknowledge t a d).pass = s.pass := rfl

@[simp] theorem State.acknowledge_passLast (s : State) (t : Tag) (a : Ack) (d : Option Word) :
    (s.acknowledge t a d).passLast = s.passLast := rfl

@[simp] theorem State.acknowledge_requests (s : State) (t : Tag) (a : Ack) (d : Option Word) :
    (s.acknowledge t a d).requests = s.requests := rfl

@[simp] theorem State.acknowledge_engine (s : State) (t : Tag) (a : Ack) (d : Option Word) :
    (s.acknowledge t a d).engine = s.engine := rfl

@[simp] theorem State.acknowledge_lastServed (s : State) (t : Tag) (a : Ack) (d : Option Word) :
    (s.acknowledge t a d).lastServed = s.lastServed := rfl

@[simp] theorem State.acknowledge_portLast (s : State) (t : Tag) (a : Ack) (d : Option Word) :
    (s.acknowledge t a d).portLast = s.portLast := rfl

@[simp] theorem State.acknowledge_images (s : State) (t : Tag) (a : Ack) (d : Option Word) :
    (s.acknowledge t a d).images = s.images := rfl

@[simp] theorem State.acknowledge_cache (s : State) (t : Tag) (a : Ack) (d : Option Word) :
    (s.acknowledge t a d).cache = s.cache := rfl

@[simp] theorem State.acknowledge_recency (s : State) (t : Tag) (a : Ack) (d : Option Word) :
    (s.acknowledge t a d).recency = s.recency := rfl

@[simp] theorem State.acknowledge_walker (s : State) (t : Tag) (a : Ack) (d : Option Word) :
    (s.acknowledge t a d).walker = s.walker := rfl

@[simp] theorem State.acknowledge_jobs (s : State) (t : Tag) (a : Ack) (d : Option Word) :
    (s.acknowledge t a d).jobs = s.jobs := rfl

@[simp] theorem State.acknowledge_nestA (s : State) (t : Tag) (a : Ack) (d : Option Word) :
    (s.acknowledge t a d).nestA = s.nestA := rfl

@[simp] theorem State.acknowledge_nestB (s : State) (t : Tag) (a : Ack) (d : Option Word) :
    (s.acknowledge t a d).nestB = s.nestB := rfl

@[simp] theorem State.acknowledge_entries (s : State) (t : Tag) (a : Ack) (d : Option Word) :
    (s.acknowledge t a d).entries = s.entries := rfl

@[simp] theorem State.acknowledge_order (s : State) (t : Tag) (a : Ack) (d : Option Word) :
    (s.acknowledge t a d).order = s.order := rfl

@[simp] theorem State.acknowledge_due (s : State) (t : Tag) (a : Ack) (d : Option Word) :
    (s.acknowledge t a d).due = s.due := rfl

@[simp] theorem State.acknowledge_time (s : State) (t : Tag) (a : Ack) (d : Option Word) :
    (s.acknowledge t a d).time = s.time := rfl

@[simp] theorem State.acknowledge_limits (s : State) (t : Tag) (a : Ack) (d : Option Word) :
    (s.acknowledge t a d).limits = s.limits := rfl

@[simp] theorem State.acknowledge_cursors (s : State) (t : Tag) (a : Ack) (d : Option Word) :
    (s.acknowledge t a d).cursors = s.cursors := rfl

@[simp] theorem State.acknowledge_cups (s : State) (t : Tag) (a : Ack) (d : Option Word) :
    (s.acknowledge t a d).cups = s.cups := rfl

@[simp] theorem State.acknowledge_lanes (s : State) (t : Tag) (a : Ack) (d : Option Word) :
    (s.acknowledge t a d).lanes = s.lanes := rfl

@[simp] theorem State.acknowledge_stations (s : State) (t : Tag) (a : Ack) (d : Option Word) :
    (s.acknowledge t a d).stations = s.stations := rfl

@[simp] theorem State.acknowledge_magTypes (s : State) (t : Tag) (a : Ack) (d : Option Word) :
    (s.acknowledge t a d).magTypes = s.magTypes := rfl

@[simp] theorem State.acknowledge_flags (s : State) (t : Tag) (a : Ack) (d : Option Word) :
    (s.acknowledge t a d).flags = s.flags := rfl

@[simp] theorem State.acknowledge_captures (s : State) (t : Tag) (a : Ack) (d : Option Word) :
    (s.acknowledge t a d).captures = s.captures := rfl

@[simp] theorem State.acknowledge_lastGuard (s : State) (t : Tag) (a : Ack) (d : Option Word) :
    (s.acknowledge t a d).lastGuard = s.lastGuard := rfl

@[simp] theorem State.acknowledge_loadGen (s : State) (t : Tag) (a : Ack) (d : Option Word) :
    (s.acknowledge t a d).loadGen = s.loadGen := rfl

@[simp] theorem State.acknowledge_loadStatus (s : State) (t : Tag) (a : Ack) (d : Option Word) :
    (s.acknowledge t a d).loadStatus = s.loadStatus := rfl

@[simp] theorem State.acknowledge_routeA (s : State) (t : Tag) (a : Ack) (d : Option Word) :
    (s.acknowledge t a d).routeA = s.routeA := rfl

@[simp] theorem State.acknowledge_routeB (s : State) (t : Tag) (a : Ack) (d : Option Word) :
    (s.acknowledge t a d).routeB = s.routeB := rfl

@[simp] theorem State.acknowledge_published (s : State) (t : Tag) (a : Ack) (d : Option Word) :
    (s.acknowledge t a d).published = s.published := rfl

@[simp] theorem State.acknowledge_mem (s : State) (t : Tag) (a : Ack) (d : Option Word) :
    (s.acknowledge t a d).mem = s.mem := rfl

@[simp] theorem State.acknowledge_pending (s : State) (t : Tag) (a : Ack) (d : Option Word) :
    (s.acknowledge t a d).pending = s.pending := rfl

/-! ### State.forward -/

@[simp] theorem State.forward_mode (s : State) (c : Cycle) : (s.forward c).mode = s.mode := rfl

@[simp] theorem State.forward_roles (s : State) (c : Cycle) : (s.forward c).roles = s.roles := rfl

@[simp] theorem State.forward_rings (s : State) (c : Cycle) : (s.forward c).rings = s.rings := rfl

@[simp] theorem State.forward_imageBase (s : State) (c : Cycle) :
    (s.forward c).imageBase = s.imageBase := rfl

@[simp] theorem State.forward_masters (s : State) (c : Cycle) :
    (s.forward c).masters = s.masters := rfl

@[simp] theorem State.forward_waits (s : State) (c : Cycle) : (s.forward c).waits = s.waits := rfl

@[simp] theorem State.forward_pass (s : State) (c : Cycle) :
    (s.forward c).pass = s.pass.set c.tag (some c) := rfl

@[simp] theorem State.forward_passLast (s : State) (c : Cycle) :
    (s.forward c).passLast = s.passLast := rfl

@[simp] theorem State.forward_requests (s : State) (c : Cycle) :
    (s.forward c).requests = s.requests := rfl

@[simp] theorem State.forward_engine (s : State) (c : Cycle) :
    (s.forward c).engine = s.engine := rfl

@[simp] theorem State.forward_lastServed (s : State) (c : Cycle) :
    (s.forward c).lastServed = s.lastServed := rfl

@[simp] theorem State.forward_portLast (s : State) (c : Cycle) :
    (s.forward c).portLast = s.portLast := rfl

@[simp] theorem State.forward_images (s : State) (c : Cycle) :
    (s.forward c).images = s.images := rfl

@[simp] theorem State.forward_cache (s : State) (c : Cycle) : (s.forward c).cache = s.cache := rfl

@[simp] theorem State.forward_recency (s : State) (c : Cycle) :
    (s.forward c).recency = s.recency := rfl

@[simp] theorem State.forward_walker (s : State) (c : Cycle) :
    (s.forward c).walker = s.walker := rfl

@[simp] theorem State.forward_jobs (s : State) (c : Cycle) : (s.forward c).jobs = s.jobs := rfl

@[simp] theorem State.forward_nestA (s : State) (c : Cycle) : (s.forward c).nestA = s.nestA := rfl

@[simp] theorem State.forward_nestB (s : State) (c : Cycle) : (s.forward c).nestB = s.nestB := rfl

@[simp] theorem State.forward_entries (s : State) (c : Cycle) :
    (s.forward c).entries = s.entries := rfl

@[simp] theorem State.forward_order (s : State) (c : Cycle) : (s.forward c).order = s.order := rfl

@[simp] theorem State.forward_due (s : State) (c : Cycle) : (s.forward c).due = s.due := rfl

@[simp] theorem State.forward_time (s : State) (c : Cycle) : (s.forward c).time = s.time := rfl

@[simp] theorem State.forward_limits (s : State) (c : Cycle) :
    (s.forward c).limits = s.limits := rfl

@[simp] theorem State.forward_cursors (s : State) (c : Cycle) :
    (s.forward c).cursors = s.cursors := rfl

@[simp] theorem State.forward_cups (s : State) (c : Cycle) : (s.forward c).cups = s.cups := rfl

@[simp] theorem State.forward_lanes (s : State) (c : Cycle) : (s.forward c).lanes = s.lanes := rfl

@[simp] theorem State.forward_stations (s : State) (c : Cycle) :
    (s.forward c).stations = s.stations := rfl

@[simp] theorem State.forward_magTypes (s : State) (c : Cycle) :
    (s.forward c).magTypes = s.magTypes := rfl

@[simp] theorem State.forward_flags (s : State) (c : Cycle) : (s.forward c).flags = s.flags := rfl

@[simp] theorem State.forward_captures (s : State) (c : Cycle) :
    (s.forward c).captures = s.captures := rfl

@[simp] theorem State.forward_lastGuard (s : State) (c : Cycle) :
    (s.forward c).lastGuard = s.lastGuard := rfl

@[simp] theorem State.forward_loadGen (s : State) (c : Cycle) :
    (s.forward c).loadGen = s.loadGen := rfl

@[simp] theorem State.forward_loadStatus (s : State) (c : Cycle) :
    (s.forward c).loadStatus = s.loadStatus := rfl

@[simp] theorem State.forward_routeA (s : State) (c : Cycle) :
    (s.forward c).routeA = s.routeA := rfl

@[simp] theorem State.forward_routeB (s : State) (c : Cycle) :
    (s.forward c).routeB = s.routeB := rfl

@[simp] theorem State.forward_published (s : State) (c : Cycle) :
    (s.forward c).published = s.published := rfl

@[simp] theorem State.forward_mem (s : State) (c : Cycle) : (s.forward c).mem = s.mem := rfl

@[simp] theorem State.forward_pending (s : State) (c : Cycle) :
    (s.forward c).pending = s.pending := rfl

/-! ### State.setLine -/

@[simp] theorem State.setLine_mode (s : State) (i : Fin 64) (l : Option CacheLine) :
    (s.setLine i l).mode = s.mode := rfl

@[simp] theorem State.setLine_roles (s : State) (i : Fin 64) (l : Option CacheLine) :
    (s.setLine i l).roles = s.roles := rfl

@[simp] theorem State.setLine_rings (s : State) (i : Fin 64) (l : Option CacheLine) :
    (s.setLine i l).rings = s.rings := rfl

@[simp] theorem State.setLine_imageBase (s : State) (i : Fin 64) (l : Option CacheLine) :
    (s.setLine i l).imageBase = s.imageBase := rfl

@[simp] theorem State.setLine_masters (s : State) (i : Fin 64) (l : Option CacheLine) :
    (s.setLine i l).masters = s.masters := rfl

@[simp] theorem State.setLine_waits (s : State) (i : Fin 64) (l : Option CacheLine) :
    (s.setLine i l).waits = s.waits := rfl

@[simp] theorem State.setLine_pass (s : State) (i : Fin 64) (l : Option CacheLine) :
    (s.setLine i l).pass = s.pass := rfl

@[simp] theorem State.setLine_passLast (s : State) (i : Fin 64) (l : Option CacheLine) :
    (s.setLine i l).passLast = s.passLast := rfl

@[simp] theorem State.setLine_requests (s : State) (i : Fin 64) (l : Option CacheLine) :
    (s.setLine i l).requests = s.requests := rfl

@[simp] theorem State.setLine_engine (s : State) (i : Fin 64) (l : Option CacheLine) :
    (s.setLine i l).engine = s.engine := rfl

@[simp] theorem State.setLine_lastServed (s : State) (i : Fin 64) (l : Option CacheLine) :
    (s.setLine i l).lastServed = s.lastServed := rfl

@[simp] theorem State.setLine_portLast (s : State) (i : Fin 64) (l : Option CacheLine) :
    (s.setLine i l).portLast = s.portLast := rfl

@[simp] theorem State.setLine_images (s : State) (i : Fin 64) (l : Option CacheLine) :
    (s.setLine i l).images = s.images := rfl

@[simp] theorem State.setLine_cache (s : State) (i : Fin 64) (l : Option CacheLine) :
    (s.setLine i l).cache = s.cache.set i l := rfl

@[simp] theorem State.setLine_recency (s : State) (i : Fin 64) (l : Option CacheLine) :
    (s.setLine i l).recency = s.recency := rfl

@[simp] theorem State.setLine_walker (s : State) (i : Fin 64) (l : Option CacheLine) :
    (s.setLine i l).walker = s.walker := rfl

@[simp] theorem State.setLine_jobs (s : State) (i : Fin 64) (l : Option CacheLine) :
    (s.setLine i l).jobs = s.jobs := rfl

@[simp] theorem State.setLine_nestA (s : State) (i : Fin 64) (l : Option CacheLine) :
    (s.setLine i l).nestA = s.nestA := rfl

@[simp] theorem State.setLine_nestB (s : State) (i : Fin 64) (l : Option CacheLine) :
    (s.setLine i l).nestB = s.nestB := rfl

@[simp] theorem State.setLine_entries (s : State) (i : Fin 64) (l : Option CacheLine) :
    (s.setLine i l).entries = s.entries := rfl

@[simp] theorem State.setLine_order (s : State) (i : Fin 64) (l : Option CacheLine) :
    (s.setLine i l).order = s.order := rfl

@[simp] theorem State.setLine_due (s : State) (i : Fin 64) (l : Option CacheLine) :
    (s.setLine i l).due = s.due := rfl

@[simp] theorem State.setLine_time (s : State) (i : Fin 64) (l : Option CacheLine) :
    (s.setLine i l).time = s.time := rfl

@[simp] theorem State.setLine_limits (s : State) (i : Fin 64) (l : Option CacheLine) :
    (s.setLine i l).limits = s.limits := rfl

@[simp] theorem State.setLine_cursors (s : State) (i : Fin 64) (l : Option CacheLine) :
    (s.setLine i l).cursors = s.cursors := rfl

@[simp] theorem State.setLine_cups (s : State) (i : Fin 64) (l : Option CacheLine) :
    (s.setLine i l).cups = s.cups := rfl

@[simp] theorem State.setLine_lanes (s : State) (i : Fin 64) (l : Option CacheLine) :
    (s.setLine i l).lanes = s.lanes := rfl

@[simp] theorem State.setLine_stations (s : State) (i : Fin 64) (l : Option CacheLine) :
    (s.setLine i l).stations = s.stations := rfl

@[simp] theorem State.setLine_magTypes (s : State) (i : Fin 64) (l : Option CacheLine) :
    (s.setLine i l).magTypes = s.magTypes := rfl

@[simp] theorem State.setLine_flags (s : State) (i : Fin 64) (l : Option CacheLine) :
    (s.setLine i l).flags = s.flags := rfl

@[simp] theorem State.setLine_captures (s : State) (i : Fin 64) (l : Option CacheLine) :
    (s.setLine i l).captures = s.captures := rfl

@[simp] theorem State.setLine_lastGuard (s : State) (i : Fin 64) (l : Option CacheLine) :
    (s.setLine i l).lastGuard = s.lastGuard := rfl

@[simp] theorem State.setLine_loadGen (s : State) (i : Fin 64) (l : Option CacheLine) :
    (s.setLine i l).loadGen = s.loadGen := rfl

@[simp] theorem State.setLine_loadStatus (s : State) (i : Fin 64) (l : Option CacheLine) :
    (s.setLine i l).loadStatus = s.loadStatus := rfl

@[simp] theorem State.setLine_routeA (s : State) (i : Fin 64) (l : Option CacheLine) :
    (s.setLine i l).routeA = s.routeA := rfl

@[simp] theorem State.setLine_routeB (s : State) (i : Fin 64) (l : Option CacheLine) :
    (s.setLine i l).routeB = s.routeB := rfl

@[simp] theorem State.setLine_published (s : State) (i : Fin 64) (l : Option CacheLine) :
    (s.setLine i l).published = s.published := rfl

@[simp] theorem State.setLine_mem (s : State) (i : Fin 64) (l : Option CacheLine) :
    (s.setLine i l).mem = s.mem := rfl

@[simp] theorem State.setLine_pending (s : State) (i : Fin 64) (l : Option CacheLine) :
    (s.setLine i l).pending = s.pending := rfl

/-! ### State.touch -/

@[simp] theorem State.touch_mode (s : State) (i : Fin 64) : (s.touch i).mode = s.mode := rfl

@[simp] theorem State.touch_roles (s : State) (i : Fin 64) : (s.touch i).roles = s.roles := rfl

@[simp] theorem State.touch_rings (s : State) (i : Fin 64) : (s.touch i).rings = s.rings := rfl

@[simp] theorem State.touch_imageBase (s : State) (i : Fin 64) :
    (s.touch i).imageBase = s.imageBase := rfl

@[simp] theorem State.touch_masters (s : State) (i : Fin 64) :
    (s.touch i).masters = s.masters := rfl

@[simp] theorem State.touch_waits (s : State) (i : Fin 64) : (s.touch i).waits = s.waits := rfl

@[simp] theorem State.touch_pass (s : State) (i : Fin 64) : (s.touch i).pass = s.pass := rfl

@[simp] theorem State.touch_passLast (s : State) (i : Fin 64) :
    (s.touch i).passLast = s.passLast := rfl

@[simp] theorem State.touch_requests (s : State) (i : Fin 64) :
    (s.touch i).requests = s.requests := rfl

@[simp] theorem State.touch_engine (s : State) (i : Fin 64) : (s.touch i).engine = s.engine := rfl

@[simp] theorem State.touch_lastServed (s : State) (i : Fin 64) :
    (s.touch i).lastServed = s.lastServed := rfl

@[simp] theorem State.touch_portLast (s : State) (i : Fin 64) :
    (s.touch i).portLast = s.portLast := rfl

@[simp] theorem State.touch_images (s : State) (i : Fin 64) : (s.touch i).images = s.images := rfl

@[simp] theorem State.touch_cache (s : State) (i : Fin 64) : (s.touch i).cache = s.cache := rfl

@[simp] theorem State.touch_recency (s : State) (i : Fin 64) :
    (s.touch i).recency = i :: s.recency.erase i := rfl

@[simp] theorem State.touch_walker (s : State) (i : Fin 64) : (s.touch i).walker = s.walker := rfl

@[simp] theorem State.touch_jobs (s : State) (i : Fin 64) : (s.touch i).jobs = s.jobs := rfl

@[simp] theorem State.touch_nestA (s : State) (i : Fin 64) : (s.touch i).nestA = s.nestA := rfl

@[simp] theorem State.touch_nestB (s : State) (i : Fin 64) : (s.touch i).nestB = s.nestB := rfl

@[simp] theorem State.touch_entries (s : State) (i : Fin 64) :
    (s.touch i).entries = s.entries := rfl

@[simp] theorem State.touch_order (s : State) (i : Fin 64) : (s.touch i).order = s.order := rfl

@[simp] theorem State.touch_due (s : State) (i : Fin 64) : (s.touch i).due = s.due := rfl

@[simp] theorem State.touch_time (s : State) (i : Fin 64) : (s.touch i).time = s.time := rfl

@[simp] theorem State.touch_limits (s : State) (i : Fin 64) : (s.touch i).limits = s.limits := rfl

@[simp] theorem State.touch_cursors (s : State) (i : Fin 64) :
    (s.touch i).cursors = s.cursors := rfl

@[simp] theorem State.touch_cups (s : State) (i : Fin 64) : (s.touch i).cups = s.cups := rfl

@[simp] theorem State.touch_lanes (s : State) (i : Fin 64) : (s.touch i).lanes = s.lanes := rfl

@[simp] theorem State.touch_stations (s : State) (i : Fin 64) :
    (s.touch i).stations = s.stations := rfl

@[simp] theorem State.touch_magTypes (s : State) (i : Fin 64) :
    (s.touch i).magTypes = s.magTypes := rfl

@[simp] theorem State.touch_flags (s : State) (i : Fin 64) : (s.touch i).flags = s.flags := rfl

@[simp] theorem State.touch_captures (s : State) (i : Fin 64) :
    (s.touch i).captures = s.captures := rfl

@[simp] theorem State.touch_lastGuard (s : State) (i : Fin 64) :
    (s.touch i).lastGuard = s.lastGuard := rfl

@[simp] theorem State.touch_loadGen (s : State) (i : Fin 64) :
    (s.touch i).loadGen = s.loadGen := rfl

@[simp] theorem State.touch_loadStatus (s : State) (i : Fin 64) :
    (s.touch i).loadStatus = s.loadStatus := rfl

@[simp] theorem State.touch_routeA (s : State) (i : Fin 64) : (s.touch i).routeA = s.routeA := rfl

@[simp] theorem State.touch_routeB (s : State) (i : Fin 64) : (s.touch i).routeB = s.routeB := rfl

@[simp] theorem State.touch_published (s : State) (i : Fin 64) :
    (s.touch i).published = s.published := rfl

@[simp] theorem State.touch_mem (s : State) (i : Fin 64) : (s.touch i).mem = s.mem := rfl

@[simp] theorem State.touch_pending (s : State) (i : Fin 64) :
    (s.touch i).pending = s.pending := rfl

/-! ### State.setJob -/

@[simp] theorem State.setJob_mode (s : State) (j : RunningJob) : (s.setJob j).mode = s.mode := rfl

@[simp] theorem State.setJob_roles (s : State) (j : RunningJob) :
    (s.setJob j).roles = s.roles := rfl

@[simp] theorem State.setJob_rings (s : State) (j : RunningJob) :
    (s.setJob j).rings = s.rings := rfl

@[simp] theorem State.setJob_imageBase (s : State) (j : RunningJob) :
    (s.setJob j).imageBase = s.imageBase := rfl

@[simp] theorem State.setJob_masters (s : State) (j : RunningJob) :
    (s.setJob j).masters = s.masters := rfl

@[simp] theorem State.setJob_waits (s : State) (j : RunningJob) :
    (s.setJob j).waits = s.waits := rfl

@[simp] theorem State.setJob_pass (s : State) (j : RunningJob) : (s.setJob j).pass = s.pass := rfl

@[simp] theorem State.setJob_passLast (s : State) (j : RunningJob) :
    (s.setJob j).passLast = s.passLast := rfl

@[simp] theorem State.setJob_requests (s : State) (j : RunningJob) :
    (s.setJob j).requests = s.requests := rfl

@[simp] theorem State.setJob_engine (s : State) (j : RunningJob) :
    (s.setJob j).engine = s.engine := rfl

@[simp] theorem State.setJob_lastServed (s : State) (j : RunningJob) :
    (s.setJob j).lastServed = s.lastServed := rfl

@[simp] theorem State.setJob_portLast (s : State) (j : RunningJob) :
    (s.setJob j).portLast = s.portLast := rfl

@[simp] theorem State.setJob_images (s : State) (j : RunningJob) :
    (s.setJob j).images = s.images := rfl

@[simp] theorem State.setJob_cache (s : State) (j : RunningJob) :
    (s.setJob j).cache = s.cache := rfl

@[simp] theorem State.setJob_recency (s : State) (j : RunningJob) :
    (s.setJob j).recency = s.recency := rfl

@[simp] theorem State.setJob_walker (s : State) (j : RunningJob) :
    (s.setJob j).walker = .running j := rfl

@[simp] theorem State.setJob_jobs (s : State) (j : RunningJob) : (s.setJob j).jobs = s.jobs := rfl

@[simp] theorem State.setJob_nestA (s : State) (j : RunningJob) :
    (s.setJob j).nestA = s.nestA := rfl

@[simp] theorem State.setJob_nestB (s : State) (j : RunningJob) :
    (s.setJob j).nestB = s.nestB := rfl

@[simp] theorem State.setJob_entries (s : State) (j : RunningJob) :
    (s.setJob j).entries = s.entries := rfl

@[simp] theorem State.setJob_order (s : State) (j : RunningJob) :
    (s.setJob j).order = s.order := rfl

@[simp] theorem State.setJob_due (s : State) (j : RunningJob) : (s.setJob j).due = s.due := rfl

@[simp] theorem State.setJob_time (s : State) (j : RunningJob) : (s.setJob j).time = s.time := rfl

@[simp] theorem State.setJob_limits (s : State) (j : RunningJob) :
    (s.setJob j).limits = s.limits := rfl

@[simp] theorem State.setJob_cursors (s : State) (j : RunningJob) :
    (s.setJob j).cursors = s.cursors := rfl

@[simp] theorem State.setJob_cups (s : State) (j : RunningJob) : (s.setJob j).cups = s.cups := rfl

@[simp] theorem State.setJob_lanes (s : State) (j : RunningJob) :
    (s.setJob j).lanes = s.lanes := rfl

@[simp] theorem State.setJob_stations (s : State) (j : RunningJob) :
    (s.setJob j).stations = s.stations := rfl

@[simp] theorem State.setJob_magTypes (s : State) (j : RunningJob) :
    (s.setJob j).magTypes = s.magTypes := rfl

@[simp] theorem State.setJob_flags (s : State) (j : RunningJob) :
    (s.setJob j).flags = s.flags := rfl

@[simp] theorem State.setJob_captures (s : State) (j : RunningJob) :
    (s.setJob j).captures = s.captures := rfl

@[simp] theorem State.setJob_lastGuard (s : State) (j : RunningJob) :
    (s.setJob j).lastGuard = s.lastGuard := rfl

@[simp] theorem State.setJob_loadGen (s : State) (j : RunningJob) :
    (s.setJob j).loadGen = s.loadGen := rfl

@[simp] theorem State.setJob_loadStatus (s : State) (j : RunningJob) :
    (s.setJob j).loadStatus = s.loadStatus := rfl

@[simp] theorem State.setJob_routeA (s : State) (j : RunningJob) :
    (s.setJob j).routeA = s.routeA := rfl

@[simp] theorem State.setJob_routeB (s : State) (j : RunningJob) :
    (s.setJob j).routeB = s.routeB := rfl

@[simp] theorem State.setJob_published (s : State) (j : RunningJob) :
    (s.setJob j).published = s.published := rfl

@[simp] theorem State.setJob_mem (s : State) (j : RunningJob) : (s.setJob j).mem = s.mem := rfl

@[simp] theorem State.setJob_pending (s : State) (j : RunningJob) :
    (s.setJob j).pending = s.pending := rfl

/-! ### State.withNest -/

@[simp] theorem State.withNest_mode (s : State) (n : Nest) (c : NestContext) :
    (s.withNest n c).mode = s.mode := by cases n <;> rfl

@[simp] theorem State.withNest_roles (s : State) (n : Nest) (c : NestContext) :
    (s.withNest n c).roles = s.roles := by cases n <;> rfl

@[simp] theorem State.withNest_rings (s : State) (n : Nest) (c : NestContext) :
    (s.withNest n c).rings = s.rings := by cases n <;> rfl

@[simp] theorem State.withNest_imageBase (s : State) (n : Nest) (c : NestContext) :
    (s.withNest n c).imageBase = s.imageBase := by cases n <;> rfl

@[simp] theorem State.withNest_masters (s : State) (n : Nest) (c : NestContext) :
    (s.withNest n c).masters = s.masters := by cases n <;> rfl

@[simp] theorem State.withNest_waits (s : State) (n : Nest) (c : NestContext) :
    (s.withNest n c).waits = s.waits := by cases n <;> rfl

@[simp] theorem State.withNest_pass (s : State) (n : Nest) (c : NestContext) :
    (s.withNest n c).pass = s.pass := by cases n <;> rfl

@[simp] theorem State.withNest_passLast (s : State) (n : Nest) (c : NestContext) :
    (s.withNest n c).passLast = s.passLast := by cases n <;> rfl

@[simp] theorem State.withNest_requests (s : State) (n : Nest) (c : NestContext) :
    (s.withNest n c).requests = s.requests := by cases n <;> rfl

@[simp] theorem State.withNest_engine (s : State) (n : Nest) (c : NestContext) :
    (s.withNest n c).engine = s.engine := by cases n <;> rfl

@[simp] theorem State.withNest_lastServed (s : State) (n : Nest) (c : NestContext) :
    (s.withNest n c).lastServed = s.lastServed := by cases n <;> rfl

@[simp] theorem State.withNest_portLast (s : State) (n : Nest) (c : NestContext) :
    (s.withNest n c).portLast = s.portLast := by cases n <;> rfl

@[simp] theorem State.withNest_images (s : State) (n : Nest) (c : NestContext) :
    (s.withNest n c).images = s.images := by cases n <;> rfl

@[simp] theorem State.withNest_cache (s : State) (n : Nest) (c : NestContext) :
    (s.withNest n c).cache = s.cache := by cases n <;> rfl

@[simp] theorem State.withNest_recency (s : State) (n : Nest) (c : NestContext) :
    (s.withNest n c).recency = s.recency := by cases n <;> rfl

@[simp] theorem State.withNest_walker (s : State) (n : Nest) (c : NestContext) :
    (s.withNest n c).walker = s.walker := by cases n <;> rfl

@[simp] theorem State.withNest_jobs (s : State) (n : Nest) (c : NestContext) :
    (s.withNest n c).jobs = s.jobs := by cases n <;> rfl

@[simp] theorem State.withNest_entries (s : State) (n : Nest) (c : NestContext) :
    (s.withNest n c).entries = s.entries := by cases n <;> rfl

@[simp] theorem State.withNest_order (s : State) (n : Nest) (c : NestContext) :
    (s.withNest n c).order = s.order := by cases n <;> rfl

@[simp] theorem State.withNest_due (s : State) (n : Nest) (c : NestContext) :
    (s.withNest n c).due = s.due := by cases n <;> rfl

@[simp] theorem State.withNest_time (s : State) (n : Nest) (c : NestContext) :
    (s.withNest n c).time = s.time := by cases n <;> rfl

@[simp] theorem State.withNest_limits (s : State) (n : Nest) (c : NestContext) :
    (s.withNest n c).limits = s.limits := by cases n <;> rfl

@[simp] theorem State.withNest_cursors (s : State) (n : Nest) (c : NestContext) :
    (s.withNest n c).cursors = s.cursors := by cases n <;> rfl

@[simp] theorem State.withNest_cups (s : State) (n : Nest) (c : NestContext) :
    (s.withNest n c).cups = s.cups := by cases n <;> rfl

@[simp] theorem State.withNest_lanes (s : State) (n : Nest) (c : NestContext) :
    (s.withNest n c).lanes = s.lanes := by cases n <;> rfl

@[simp] theorem State.withNest_stations (s : State) (n : Nest) (c : NestContext) :
    (s.withNest n c).stations = s.stations := by cases n <;> rfl

@[simp] theorem State.withNest_magTypes (s : State) (n : Nest) (c : NestContext) :
    (s.withNest n c).magTypes = s.magTypes := by cases n <;> rfl

@[simp] theorem State.withNest_flags (s : State) (n : Nest) (c : NestContext) :
    (s.withNest n c).flags = s.flags := by cases n <;> rfl

@[simp] theorem State.withNest_captures (s : State) (n : Nest) (c : NestContext) :
    (s.withNest n c).captures = s.captures := by cases n <;> rfl

@[simp] theorem State.withNest_lastGuard (s : State) (n : Nest) (c : NestContext) :
    (s.withNest n c).lastGuard = s.lastGuard := by cases n <;> rfl

@[simp] theorem State.withNest_loadGen (s : State) (n : Nest) (c : NestContext) :
    (s.withNest n c).loadGen = s.loadGen := by cases n <;> rfl

@[simp] theorem State.withNest_loadStatus (s : State) (n : Nest) (c : NestContext) :
    (s.withNest n c).loadStatus = s.loadStatus := by cases n <;> rfl

@[simp] theorem State.withNest_routeA (s : State) (n : Nest) (c : NestContext) :
    (s.withNest n c).routeA = s.routeA := by cases n <;> rfl

@[simp] theorem State.withNest_routeB (s : State) (n : Nest) (c : NestContext) :
    (s.withNest n c).routeB = s.routeB := by cases n <;> rfl

@[simp] theorem State.withNest_published (s : State) (n : Nest) (c : NestContext) :
    (s.withNest n c).published = s.published := by cases n <;> rfl

@[simp] theorem State.withNest_mem (s : State) (n : Nest) (c : NestContext) :
    (s.withNest n c).mem = s.mem := by cases n <;> rfl

@[simp] theorem State.withNest_pending (s : State) (n : Nest) (c : NestContext) :
    (s.withNest n c).pending = s.pending := by cases n <;> rfl

/-! ### State.enqueue -/

@[simp] theorem State.enqueue_mode (s : State) (id : ImageId) :
    (s.enqueue id).mode = s.mode := by unfold State.enqueue; split <;> rfl

@[simp] theorem State.enqueue_roles (s : State) (id : ImageId) :
    (s.enqueue id).roles = s.roles := by unfold State.enqueue; split <;> rfl

@[simp] theorem State.enqueue_rings (s : State) (id : ImageId) :
    (s.enqueue id).rings = s.rings := by unfold State.enqueue; split <;> rfl

@[simp] theorem State.enqueue_imageBase (s : State) (id : ImageId) :
    (s.enqueue id).imageBase = s.imageBase := by unfold State.enqueue; split <;> rfl

@[simp] theorem State.enqueue_masters (s : State) (id : ImageId) :
    (s.enqueue id).masters = s.masters := by unfold State.enqueue; split <;> rfl

@[simp] theorem State.enqueue_waits (s : State) (id : ImageId) :
    (s.enqueue id).waits = s.waits := by unfold State.enqueue; split <;> rfl

@[simp] theorem State.enqueue_pass (s : State) (id : ImageId) :
    (s.enqueue id).pass = s.pass := by unfold State.enqueue; split <;> rfl

@[simp] theorem State.enqueue_passLast (s : State) (id : ImageId) :
    (s.enqueue id).passLast = s.passLast := by unfold State.enqueue; split <;> rfl

@[simp] theorem State.enqueue_requests (s : State) (id : ImageId) :
    (s.enqueue id).requests = s.requests := by unfold State.enqueue; split <;> rfl

@[simp] theorem State.enqueue_engine (s : State) (id : ImageId) :
    (s.enqueue id).engine = s.engine := by unfold State.enqueue; split <;> rfl

@[simp] theorem State.enqueue_lastServed (s : State) (id : ImageId) :
    (s.enqueue id).lastServed = s.lastServed := by unfold State.enqueue; split <;> rfl

@[simp] theorem State.enqueue_portLast (s : State) (id : ImageId) :
    (s.enqueue id).portLast = s.portLast := by unfold State.enqueue; split <;> rfl

@[simp] theorem State.enqueue_cache (s : State) (id : ImageId) :
    (s.enqueue id).cache = s.cache := by unfold State.enqueue; split <;> rfl

@[simp] theorem State.enqueue_recency (s : State) (id : ImageId) :
    (s.enqueue id).recency = s.recency := by unfold State.enqueue; split <;> rfl

@[simp] theorem State.enqueue_walker (s : State) (id : ImageId) :
    (s.enqueue id).walker = s.walker := by unfold State.enqueue; split <;> rfl

@[simp] theorem State.enqueue_jobs (s : State) (id : ImageId) :
    (s.enqueue id).jobs = s.jobs := by unfold State.enqueue; split <;> rfl

@[simp] theorem State.enqueue_nestA (s : State) (id : ImageId) :
    (s.enqueue id).nestA = s.nestA := by unfold State.enqueue; split <;> rfl

@[simp] theorem State.enqueue_nestB (s : State) (id : ImageId) :
    (s.enqueue id).nestB = s.nestB := by unfold State.enqueue; split <;> rfl

@[simp] theorem State.enqueue_entries (s : State) (id : ImageId) :
    (s.enqueue id).entries = s.entries := by unfold State.enqueue; split <;> rfl

@[simp] theorem State.enqueue_order (s : State) (id : ImageId) :
    (s.enqueue id).order = s.order := by unfold State.enqueue; split <;> rfl

@[simp] theorem State.enqueue_due (s : State) (id : ImageId) :
    (s.enqueue id).due = s.due := by unfold State.enqueue; split <;> rfl

@[simp] theorem State.enqueue_time (s : State) (id : ImageId) :
    (s.enqueue id).time = s.time := by unfold State.enqueue; split <;> rfl

@[simp] theorem State.enqueue_limits (s : State) (id : ImageId) :
    (s.enqueue id).limits = s.limits := by unfold State.enqueue; split <;> rfl

@[simp] theorem State.enqueue_cursors (s : State) (id : ImageId) :
    (s.enqueue id).cursors = s.cursors := by unfold State.enqueue; split <;> rfl

@[simp] theorem State.enqueue_cups (s : State) (id : ImageId) :
    (s.enqueue id).cups = s.cups := by unfold State.enqueue; split <;> rfl

@[simp] theorem State.enqueue_lanes (s : State) (id : ImageId) :
    (s.enqueue id).lanes = s.lanes := by unfold State.enqueue; split <;> rfl

@[simp] theorem State.enqueue_stations (s : State) (id : ImageId) :
    (s.enqueue id).stations = s.stations := by unfold State.enqueue; split <;> rfl

@[simp] theorem State.enqueue_magTypes (s : State) (id : ImageId) :
    (s.enqueue id).magTypes = s.magTypes := by unfold State.enqueue; split <;> rfl

@[simp] theorem State.enqueue_flags (s : State) (id : ImageId) :
    (s.enqueue id).flags = s.flags := by unfold State.enqueue; split <;> rfl

@[simp] theorem State.enqueue_captures (s : State) (id : ImageId) :
    (s.enqueue id).captures = s.captures := by unfold State.enqueue; split <;> rfl

@[simp] theorem State.enqueue_lastGuard (s : State) (id : ImageId) :
    (s.enqueue id).lastGuard = s.lastGuard := by unfold State.enqueue; split <;> rfl

@[simp] theorem State.enqueue_loadGen (s : State) (id : ImageId) :
    (s.enqueue id).loadGen = s.loadGen := by unfold State.enqueue; split <;> rfl

@[simp] theorem State.enqueue_loadStatus (s : State) (id : ImageId) :
    (s.enqueue id).loadStatus = s.loadStatus := by unfold State.enqueue; split <;> rfl

@[simp] theorem State.enqueue_routeA (s : State) (id : ImageId) :
    (s.enqueue id).routeA = s.routeA := by unfold State.enqueue; split <;> rfl

@[simp] theorem State.enqueue_routeB (s : State) (id : ImageId) :
    (s.enqueue id).routeB = s.routeB := by unfold State.enqueue; split <;> rfl

@[simp] theorem State.enqueue_published (s : State) (id : ImageId) :
    (s.enqueue id).published = s.published := by unfold State.enqueue; split <;> rfl

@[simp] theorem State.enqueue_mem (s : State) (id : ImageId) :
    (s.enqueue id).mem = s.mem := by unfold State.enqueue; split <;> rfl

@[simp] theorem State.enqueue_pending (s : State) (id : ImageId) :
    (s.enqueue id).pending = s.pending := by unfold State.enqueue; split <;> rfl

/-! ### State.takeNext -/

@[simp] theorem State.takeNext_mode (s : State) :
    (s.takeNext).mode = s.mode := by unfold State.takeNext; split <;> (try split) <;> rfl

@[simp] theorem State.takeNext_roles (s : State) :
    (s.takeNext).roles = s.roles := by unfold State.takeNext; split <;> (try split) <;> rfl

@[simp] theorem State.takeNext_rings (s : State) :
    (s.takeNext).rings = s.rings := by unfold State.takeNext; split <;> (try split) <;> rfl

@[simp] theorem State.takeNext_imageBase (s : State) :
    (s.takeNext).imageBase = s.imageBase := by unfold State.takeNext; split <;> (try split) <;> rfl

@[simp] theorem State.takeNext_masters (s : State) :
    (s.takeNext).masters = s.masters := by unfold State.takeNext; split <;> (try split) <;> rfl

@[simp] theorem State.takeNext_waits (s : State) :
    (s.takeNext).waits = s.waits := by unfold State.takeNext; split <;> (try split) <;> rfl

@[simp] theorem State.takeNext_pass (s : State) :
    (s.takeNext).pass = s.pass := by unfold State.takeNext; split <;> (try split) <;> rfl

@[simp] theorem State.takeNext_passLast (s : State) :
    (s.takeNext).passLast = s.passLast := by unfold State.takeNext; split <;> (try split) <;> rfl

@[simp] theorem State.takeNext_requests (s : State) :
    (s.takeNext).requests = s.requests := by unfold State.takeNext; split <;> (try split) <;> rfl

@[simp] theorem State.takeNext_portLast (s : State) :
    (s.takeNext).portLast = s.portLast := by unfold State.takeNext; split <;> (try split) <;> rfl

@[simp] theorem State.takeNext_images (s : State) :
    (s.takeNext).images = s.images := by unfold State.takeNext; split <;> (try split) <;> rfl

@[simp] theorem State.takeNext_cache (s : State) :
    (s.takeNext).cache = s.cache := by unfold State.takeNext; split <;> (try split) <;> rfl

@[simp] theorem State.takeNext_recency (s : State) :
    (s.takeNext).recency = s.recency := by unfold State.takeNext; split <;> (try split) <;> rfl

@[simp] theorem State.takeNext_walker (s : State) :
    (s.takeNext).walker = s.walker := by unfold State.takeNext; split <;> (try split) <;> rfl

@[simp] theorem State.takeNext_jobs (s : State) :
    (s.takeNext).jobs = s.jobs := by unfold State.takeNext; split <;> (try split) <;> rfl

@[simp] theorem State.takeNext_nestA (s : State) :
    (s.takeNext).nestA = s.nestA := by unfold State.takeNext; split <;> (try split) <;> rfl

@[simp] theorem State.takeNext_nestB (s : State) :
    (s.takeNext).nestB = s.nestB := by unfold State.takeNext; split <;> (try split) <;> rfl

@[simp] theorem State.takeNext_entries (s : State) :
    (s.takeNext).entries = s.entries := by unfold State.takeNext; split <;> (try split) <;> rfl

@[simp] theorem State.takeNext_order (s : State) :
    (s.takeNext).order = s.order := by unfold State.takeNext; split <;> (try split) <;> rfl

@[simp] theorem State.takeNext_due (s : State) :
    (s.takeNext).due = s.due := by unfold State.takeNext; split <;> (try split) <;> rfl

@[simp] theorem State.takeNext_time (s : State) :
    (s.takeNext).time = s.time := by unfold State.takeNext; split <;> (try split) <;> rfl

@[simp] theorem State.takeNext_limits (s : State) :
    (s.takeNext).limits = s.limits := by unfold State.takeNext; split <;> (try split) <;> rfl

@[simp] theorem State.takeNext_cursors (s : State) :
    (s.takeNext).cursors = s.cursors := by unfold State.takeNext; split <;> (try split) <;> rfl

@[simp] theorem State.takeNext_cups (s : State) :
    (s.takeNext).cups = s.cups := by unfold State.takeNext; split <;> (try split) <;> rfl

@[simp] theorem State.takeNext_lanes (s : State) :
    (s.takeNext).lanes = s.lanes := by unfold State.takeNext; split <;> (try split) <;> rfl

@[simp] theorem State.takeNext_stations (s : State) :
    (s.takeNext).stations = s.stations := by unfold State.takeNext; split <;> (try split) <;> rfl

@[simp] theorem State.takeNext_magTypes (s : State) :
    (s.takeNext).magTypes = s.magTypes := by unfold State.takeNext; split <;> (try split) <;> rfl

@[simp] theorem State.takeNext_flags (s : State) :
    (s.takeNext).flags = s.flags := by unfold State.takeNext; split <;> (try split) <;> rfl

@[simp] theorem State.takeNext_captures (s : State) :
    (s.takeNext).captures = s.captures := by unfold State.takeNext; split <;> (try split) <;> rfl

@[simp] theorem State.takeNext_lastGuard (s : State) :
    (s.takeNext).lastGuard = s.lastGuard := by unfold State.takeNext; split <;> (try split) <;> rfl

@[simp] theorem State.takeNext_loadGen (s : State) :
    (s.takeNext).loadGen = s.loadGen := by unfold State.takeNext; split <;> (try split) <;> rfl

@[simp] theorem State.takeNext_loadStatus (s : State) :
    (s.takeNext).loadStatus = s.loadStatus := by unfold State.takeNext; split <;> (try split) <;> rfl

@[simp] theorem State.takeNext_routeA (s : State) :
    (s.takeNext).routeA = s.routeA := by unfold State.takeNext; split <;> (try split) <;> rfl

@[simp] theorem State.takeNext_routeB (s : State) :
    (s.takeNext).routeB = s.routeB := by unfold State.takeNext; split <;> (try split) <;> rfl

@[simp] theorem State.takeNext_published (s : State) :
    (s.takeNext).published = s.published := by unfold State.takeNext; split <;> (try split) <;> rfl

@[simp] theorem State.takeNext_mem (s : State) :
    (s.takeNext).mem = s.mem := by unfold State.takeNext; split <;> (try split) <;> rfl

@[simp] theorem State.takeNext_pending (s : State) :
    (s.takeNext).pending = s.pending := by unfold State.takeNext; split <;> (try split) <;> rfl

/-! ### Nests, captures and flags by name -/

@[simp] theorem State.nest_withNest_self (s : State) (n : Nest) (c : NestContext) :
    (s.withNest n c).nest n = c := by cases n <;> rfl

theorem State.nest_withNest (s : State) (n m : Nest) (c : NestContext) :
    (s.withNest n c).nest m = if m = n then c else s.nest m := by
  cases n <;> cases m <;> rfl

theorem State.nest_congr {s t : State} (ha : t.nestA = s.nestA) (hb : t.nestB = s.nestB) (n : Nest) :
    t.nest n = s.nest n := by cases n <;> assumption

theorem State.guarded_iff (s : State) : s.guarded = true ↔ s.mode = .guarded := by
  simp [State.guarded]

theorem State.guarded_congr {s t : State} (h : t.mode = s.mode) : t.guarded = s.guarded := by
  simp [State.guarded, h]

@[simp] theorem State.enqueue_nest (s : State) (id : ImageId) (n : Nest) :
    (s.enqueue id).nest n = s.nest n := State.nest_congr (by simp) (by simp) n

@[simp] theorem State.enqueue_guarded (s : State) (id : ImageId) :
    (s.enqueue id).guarded = s.guarded := State.guarded_congr (by simp)

@[simp] theorem State.withNest_guarded (s : State) (n : Nest) (c : NestContext) :
    (s.withNest n c).guarded = s.guarded := State.guarded_congr (by simp)

theorem State.enqueue_mem_images (s : State) (id x : ImageId) :
    x ∈ (s.enqueue id).images ↔ x ∈ s.images ∨ (s.guarded = true ∧ x = id) := by
  unfold State.enqueue
  split
  · next h =>
    simp only [Bool.and_eq_true] at h
    simp [h.1]
  · next h =>
    simp only [Bool.and_eq_true, Bool.not_eq_true', not_and, Bool.not_eq_false] at h
    constructor
    · exact Or.inl
    · rintro (hx | ⟨hg, rfl⟩)
      · exact hx
      · exact List.contains_iff_mem.1 (h hg)

end Sys2Proof.Machine
end

