-- ==== Sys2Proof/Laws/Beside.lean ====
section
/-! SUPPORT. What goes on beside a request of the Engine leaves alone: every register that the Engine
judges by. `State.steady` is a state with everything else blotted out, and each thing that can go on
beside a request keeps it. One lemma for each operation, to be cited in place of its definition. -/

namespace Sys2Proof.Machine

/-- A state with everything blotted out that can change beside a request: the masters and the path, the
image queue, the cache and the walker, the Type Stores, time and due marks, flags and captures, and
cell memory. -/
def State.steady (s : State) : State :=
  { s with
    masters := Table.replicate 16 .idle
    waits := []
    pass := Table.replicate 16 none
    passLast := 0
    requests := Table.replicate 16 none
    portLast := .pass
    images := []
    cache := Table.replicate 64 none
    recency := []
    walker := .idle
    jobs := []
    nestA := { s.nestA with types := Table.replicate 64 ⟨false, 0, .locked⟩ }
    nestB := { s.nestB with types := Table.replicate 64 ⟨false, 0, .locked⟩ }
    due := []
    time := 0
    flags := 0
    captures := Table.replicate 4 none
    lastGuard := none
    published := ⟨0, 0, 0⟩
    mem := [] }

/-- The registers that the Engine judges by are those of the state before, while it serves a request. -/
def State.Beside (s t : State) : Prop := ∀ p, s.engine = .serving p → t.steady = s.steady

namespace State.Beside

theorem refl (s : State) : s.Beside s := fun _ _ => rfl

theorem of_eq {s t : State} (h : t.steady = s.steady) : s.Beside t := fun _ _ => h

theorem engine {s t : State} (h : s.Beside t) {p : Fin 18} (e : s.engine = .serving p) :
    t.engine = .serving p := by
  have : t.steady.engine = s.steady.engine := congrArg State.engine (h p e)
  exact this.trans e

theorem trans {s t u : State} (h : s.Beside t) (k : t.Beside u) : s.Beside u :=
  fun p e => (k p (h.engine e)).trans (h p e)

theorem foldl {α : Type} {f : State → α → State} (h : ∀ (s : State) x, s.Beside (f s x)) (l : List α)
    (s : State) : s.Beside (l.foldl f s) := by
  induction l generalizing s with
  | nil => exact refl s
  | cons x l ih => exact (h s x).trans (ih (f s x))

end State.Beside

/-! ### The small operations -/

@[simp] theorem State.acknowledge_steady (s : State) (t : Tag) (a : Ack) (d : Option Word) :
    (s.acknowledge t a d).steady = s.steady := rfl

@[simp] theorem State.forward_steady (s : State) (c : Cycle) : (s.forward c).steady = s.steady := rfl

@[simp] theorem State.enqueue_steady (s : State) (id : ImageId) :
    (s.enqueue id).steady = s.steady := by
  unfold State.enqueue; split <;> rfl

@[simp] theorem State.foldl_enqueue_steady (ids : List ImageId) (s : State) :
    (ids.foldl State.enqueue s).steady = s.steady := by
  induction ids generalizing s with
  | nil => rfl
  | cons i ids ih => rw [List.foldl_cons, ih, State.enqueue_steady]

@[simp] theorem State.setLine_steady (s : State) (i : Fin 64) (l : Option CacheLine) :
    (s.setLine i l).steady = s.steady := rfl

@[simp] theorem State.invalidate_steady (s : State) (i : Fin 64) :
    (s.invalidate i).steady = s.steady := rfl

@[simp] theorem State.setJob_steady (s : State) (j : RunningJob) :
    (s.setJob j).steady = s.steady := rfl

theorem State.tick_steady (s : State) : s.tick.steady = s.steady := by
  have h : ∀ (l : List (Fin 32)) (u : State),
      (l.foldl (fun s i => s.enqueue (.entry i)) u).steady = u.steady := by
    intro l
    induction l with
    | nil => exact fun _ => rfl
    | cons i l ih => intro u; rw [List.foldl_cons, ih, State.enqueue_steady]
  unfold State.tick
  simp only
  rw [h]
  rfl

theorem State.takeNext_beside (s : State) : s.Beside s.takeNext := by
  intro p e
  unfold State.takeNext
  rw [e]

/-- A run that has changed flags, captures and the last-guard record alone. -/
def Run.Aside (r r' : Run) : Prop := r'.st.steady = r.st.steady

theorem Run.image_aside (r : Run) (id : ImageId) : r.Aside (r.image id) := by
  unfold Run.Aside Run.image; split <;> rfl

theorem Run.raise_aside (r : Run) (f : Flag) : r.Aside (r.raise f) := by
  unfold Run.raise
  split
  · exact Run.image_aside _ _
  · rfl

theorem Run.queued_steady (r : Run) : r.queued.steady = r.st.steady := by
  unfold Run.queued; simp

theorem State.raise_steady (s : State) (f : Flag) : (s.raise f).steady = s.steady := by
  unfold State.raise
  rw [Run.queued_steady]
  exact Run.raise_aside (Run.start s []) f

theorem Run.fillCapture_aside (r : Run) (ev : Event) : r.Aside (r.fillCapture ev) := by
  unfold Run.fillCapture
  simp only
  refine (Run.image_aside _ _).trans ((Run.raise_aside _ _).trans ((Run.image_aside _ _).trans ?_))
  rfl

theorem Run.refusal_aside (r : Run) (ev : Event) : r.Aside (r.refusal ev).2 := by
  unfold Run.refusal
  split
  · split
    · exact r.fillCapture_aside ev
    · exact (Run.image_aside _ _).trans (Run.raise_aside _ _)
  · rfl

theorem Run.guardRefusal_aside (r : Run) (g : GuardRecord) : r.Aside (r.guardRefusal g) := by
  unfold Run.guardRefusal
  refine (Run.image_aside _ _).trans ((Run.raise_aside _ _).trans ?_)
  rfl

/-! ### A cycle that arrives -/

theorem Run.awaitImages_steady (r : Run) (t : Tag) (a : Ack) :
    (r.awaitImages t a).steady = r.st.steady := r.queued_steady

theorem State.hold_beside (s : State) (c : Cycle) (cls : RequestClass) : s.Beside (s.hold c cls) := by
  unfold State.hold
  refine State.Beside.trans ?_ (State.takeNext_beside _)
  exact .of_eq rfl

theorem State.dispatch_beside (s : State) (c : Cycle) (f : Fate) : s.Beside (s.dispatch c f) := by
  cases f with
  | pass => exact .of_eq rfl
  | boardRead b word =>
    refine .of_eq ?_
    show (s.readBoard c b word).steady = _
    unfold State.readBoard
    split <;> rfl
  | held cls => exact s.hold_beside c cls
  | refused cause =>
    exact .of_eq ((Run.awaitImages_steady _ _ _).trans (Run.refusal_aside (Run.start s []) _))
  | guarded =>
    exact .of_eq ((Run.awaitImages_steady _ _ _).trans (Run.guardRefusal_aside (Run.start s []) _))
  | plain a => exact .of_eq rfl

theorem State.takeCycle_beside (s : State) (c : Cycle) : s.Beside (s.takeCycle c) := by
  unfold State.takeCycle
  refine State.Beside.trans ?_ (State.dispatch_beside _ _ _)
  exact .of_eq rfl

/-! ### The walker -/

theorem State.visit_steady (s : State) : s.visit.steady = s.steady := by
  unfold State.visit
  split
  · rfl
  · rfl
  · split
    · split
      · rfl
      · split
        · split
          · rfl
          · unfold State.visitClean
            split <;> rfl
        · rfl
    · rfl

theorem State.scan_steady (s : State) (n : Nat) : (s.scan n).steady = s.steady := by
  induction n generalizing s with
  | zero => rfl
  | succ n ih => rw [State.scan, ih, State.visit_steady]

theorem State.unmark_steady (s : State) (job : Job) (i : Fin 64) (failed : Bool) :
    (s.unmark job i failed).steady = s.steady := by
  unfold State.unmark
  split
  · rfl
  · split
    · split <;> rfl
    · rfl

theorem State.endWriteBack_steady (s : State) (j : RunningJob) (failed : Bool) :
    (s.endWriteBack j failed).steady = s.steady := by
  unfold State.endWriteBack
  simp only [State.setJob_steady]
  split
  · rfl
  · exact State.unmark_steady _ _ _ _

theorem State.takeType_steady (s : State) (j : RunningJob) (n : Nest) (k : Nat) (w : Word) :
    (s.takeType j n k w).steady = s.steady := by
  cases n <;> rfl

theorem State.takeRecord_steady (s : State) (j : RunningJob) (n : Nest) (d : Descriptor)
    (w : BoardWords) : (s.takeRecord j n d w).steady = s.steady := by
  unfold State.takeRecord
  split
  · simp only
    split <;> rfl
  · rfl

theorem State.loadCycle_steady (s : State) (j : RunningJob) (n : Nest) (d : Descriptor)
    (hard : Bool) : (s.loadCycle j n d hard).steady = s.steady := by
  unfold State.loadCycle
  simp only
  split
  · split
    · rfl
    · exact State.takeType_steady _ _ _ _ _
  · split
    · rfl
    · split
      · rfl
      · exact State.takeRecord_steady _ _ _ _ _
  · split
    · rfl
    · split <;> rfl
  all_goals rfl

theorem State.flushCycle_steady (s : State) (j : RunningJob) (hard : Bool) :
    (s.flushCycle j hard).steady = s.steady := by
  unfold State.flushCycle
  split
  · split
    · exact State.endWriteBack_steady _ _ _
    · simp only
      split
      · rfl
      · rw [State.endWriteBack_steady]; rfl
  all_goals rfl

theorem State.grantWalker_steady (s : State) (hard : Bool) :
    (s.grantWalker hard).steady = s.steady := by
  unfold State.grantWalker
  split
  · rfl
  · rfl
  · next j _ =>
    have h : (match j.job with
      | .load n d => s.loadCycle j n d hard
      | .sync _ | .release _ => s.flushCycle j hard).steady = s.steady := by
      split
      · exact State.loadCycle_steady _ _ _ _ _
      · exact State.flushCycle_steady _ _ _
      · exact State.flushCycle_steady _ _ _
    simp only
    split
    · rw [State.raise_steady]; exact h
    · exact h

theorem State.startJob_steady (s : State) : s.startJob.steady = s.steady := by
  unfold State.startJob; split <;> rfl

theorem State.present_beside {s u : State} (h : u.steady = s.steady) (w : Walker) :
    s.Beside (State.takeNext { u with walker := w }) := by
  refine State.Beside.trans ?_ (State.takeNext_beside _)
  exact .of_eq h

theorem State.endLoadJob_beside (s : State) : s.Beside s.endLoadJob := by
  unfold State.endLoadJob
  split
  · split
    · split
      · exact .of_eq rfl
      · exact State.present_beside rfl _
    · exact .refl s
  · exact .refl s
  · exact .refl s

theorem State.endSyncJob_beside (s : State) : s.Beside s.endSyncJob := by
  have h := s.scan_steady 64
  unfold State.endSyncJob
  generalize s.scan 64 = u at h
  split
  · split
    · split
      · exact State.present_beside h _
      · exact .refl s
    · exact .refl s
    · exact .refl s
  · exact .refl s
  · exact .refl s

theorem State.endReleaseJob_beside (s : State) : s.Beside s.endReleaseJob := by
  have h := s.scan_steady 64
  unfold State.endReleaseJob
  generalize s.scan 64 = u at h
  split
  · split
    · split
      · exact State.present_beside h _
      · exact .refl s
    · exact .refl s
    · exact .refl s
  · exact .refl s
  · exact .refl s

theorem State.endJob_beside (s : State) : s.Beside s.endJob :=
  ((s.endLoadJob_beside).trans (State.endSyncJob_beside _)).trans (State.endReleaseJob_beside _)

/-! ### The port -/

theorem State.grantPass_steady (s : State) (hard : Bool) : (s.grantPass hard).steady = s.steady := by
  unfold State.grantPass
  split
  · rfl
  · split
    · rfl
    · simp only
      split <;> rfl

theorem State.completeWaits_steady (s : State) (id : ImageId) :
    (s.completeWaits id).steady = s.steady := by
  have h : ∀ (l : List Wait) (u : State),
      (l.foldl (fun s w => s.acknowledge w.tag w.ack none) u).steady = u.steady := by
    intro l
    induction l with
    | nil => exact fun _ => rfl
    | cons w l ih => intro u; rw [List.foldl_cons, ih]; rfl
  unfold State.completeWaits
  simp only
  rw [h]
  rfl

theorem State.completeEngine_beside (s : State) (id : ImageId) : s.Beside (s.completeEngine id) := by
  intro p e
  unfold State.completeEngine
  rw [e]

theorem State.publish_steady (s : State) (id : ImageId) : (s.publish id).steady = s.steady := by
  unfold State.publish; split <;> rfl

theorem State.grantImage_beside (s : State) (hard : Bool) : s.Beside (s.grantImage hard) := by
  unfold State.grantImage
  split
  · exact .refl s
  · next id rest _ =>
    have h : ∀ u : State, u.steady = s.steady →
        s.Beside (((u.publish id).completeWaits id).completeEngine id) := by
      intro u hu
      refine State.Beside.trans (.of_eq ?_) (State.completeEngine_beside _ _)
      rw [State.completeWaits_steady, State.publish_steady, hu]
    simp only
    split
    · refine State.Beside.trans (h _ ?_) (.of_eq (State.raise_steady _ _))
      rfl
    · refine h _ ?_
      rfl

theorem State.grant_beside (s : State) (hard : Bool) (src : Option PortSource) :
    s.Beside (s.grant hard src) := by
  unfold State.grant
  split
  · exact .refl s
  · exact .of_eq (s.grantPass_steady hard)
  · exact .refl s
  · exact .of_eq (State.grantWalker_steady _ hard)
  · exact s.grantImage_beside hard

theorem State.portCycle_beside (s : State) (engine : Bool) (visits : Nat) (hard : Bool) :
    s.Beside (s.portCycle engine visits hard) :=
  State.Beside.trans (.of_eq (s.scan_steady visits)) (State.grant_beside _ _ _)

/-! ### What the Engine waits through -/

theorem State.meanwhile_beside (e : EngineCycle) (s : State) (m : Meanwhile) :
    s.Beside (s.meanwhile e m) := by
  cases m with
  | timebase => exact .of_eq s.tick_steady
  | arrival c =>
    show s.Beside (if s.masters.get c.tag = .waiting then s else s.takeCycle c)
    split
    · exact .refl s
    · exact s.takeCycle_beside c
  | portCycle visits hard =>
    cases e with
    | quiet => exact s.portCycle_beside false visits hard
    | presented => exact s.portCycle_beside true visits hard
    | inFlight => exact .of_eq (s.scan_steady visits)
  | jobStart => exact .of_eq s.startJob_steady
  | jobEnd => exact s.endJob_beside

theorem State.yieldPort_beside (s : State) (n : Nat) : s.Beside (s.yieldPort n) := by
  induction n generalizing s with
  | zero => exact .refl s
  | succ n ih =>
    unfold State.yieldPort
    split
    · exact .refl s
    · exact .refl s
    · exact (s.grant_beside _ _).trans (ih _)

/-- While the Engine waits for one of its cycles, the registers that it judges by stand. -/
theorem State.await_beside (s : State) (a : MemAnswer) : s.Beside (s.await a) := by
  unfold State.await
  simp only
  refine State.Beside.trans (State.Beside.foldl (fun u m => u.meanwhile_beside .quiet m) a.early s) ?_
  refine State.Beside.trans (State.Beside.foldl (fun u m => u.meanwhile_beside .presented m) a.late _) ?_
  refine State.Beside.trans (State.yieldPort_beside _ 3) ?_
  refine State.Beside.trans ?_ (State.Beside.foldl (fun u m => u.meanwhile_beside .inFlight m) a.during _)
  exact .of_eq rfl

theorem State.awaitNext_beside (s : State) (answers : List MemAnswer) :
    s.Beside (s.awaitNext answers) := s.await_beside _

theorem State.waited_beside (s : State) (answers : List MemAnswer) (n : Nat) :
    s.Beside (s.waited answers n) := by
  induction n generalizing s answers with
  | zero => exact .refl s
  | succ n ih => exact (s.awaitNext_beside answers).trans (ih _ _)

theorem State.wrote_beside (s : State) (answers : List MemAnswer) (p : Nat × Word) :
    s.Beside (s.wrote answers p) := (s.awaitNext_beside answers).trans (.of_eq rfl)

theorem State.wroteAll_beside (s : State) (answers : List MemAnswer) (ws : List (Nat × Word)) :
    s.Beside (s.wroteAll answers ws) := by
  induction ws generalizing s answers with
  | nil => exact .refl s
  | cons p ws ih => exact (s.wrote_beside answers p).trans (ih _ _)

/-! ### What the Engine judges by -/

namespace State.Beside

variable {s t : State} {p : Fin 18}

theorem mode (h : s.Beside t) (e : s.engine = .serving p) : t.mode = s.mode :=
  (congrArg State.mode (h p e : t.steady = s.steady) : t.steady.mode = s.steady.mode)
theorem roles (h : s.Beside t) (e : s.engine = .serving p) : t.roles = s.roles :=
  (congrArg State.roles (h p e : t.steady = s.steady) : t.steady.roles = s.steady.roles)
theorem rings (h : s.Beside t) (e : s.engine = .serving p) : t.rings = s.rings :=
  (congrArg State.rings (h p e : t.steady = s.steady) : t.steady.rings = s.steady.rings)
theorem imageBase (h : s.Beside t) (e : s.engine = .serving p) : t.imageBase = s.imageBase :=
  (congrArg State.imageBase (h p e : t.steady = s.steady) : t.steady.imageBase = s.steady.imageBase)
theorem entries (h : s.Beside t) (e : s.engine = .serving p) : t.entries = s.entries :=
  (congrArg State.entries (h p e : t.steady = s.steady) : t.steady.entries = s.steady.entries)
theorem order (h : s.Beside t) (e : s.engine = .serving p) : t.order = s.order :=
  (congrArg State.order (h p e : t.steady = s.steady) : t.steady.order = s.steady.order)
theorem limits (h : s.Beside t) (e : s.engine = .serving p) : t.limits = s.limits :=
  (congrArg State.limits (h p e : t.steady = s.steady) : t.steady.limits = s.steady.limits)
theorem cursors (h : s.Beside t) (e : s.engine = .serving p) : t.cursors = s.cursors :=
  (congrArg State.cursors (h p e : t.steady = s.steady) : t.steady.cursors = s.steady.cursors)
theorem cups (h : s.Beside t) (e : s.engine = .serving p) : t.cups = s.cups :=
  (congrArg State.cups (h p e : t.steady = s.steady) : t.steady.cups = s.steady.cups)
theorem lanes (h : s.Beside t) (e : s.engine = .serving p) : t.lanes = s.lanes :=
  (congrArg State.lanes (h p e : t.steady = s.steady) : t.steady.lanes = s.steady.lanes)
theorem stations (h : s.Beside t) (e : s.engine = .serving p) : t.stations = s.stations :=
  (congrArg State.stations (h p e : t.steady = s.steady) : t.steady.stations = s.steady.stations)
theorem magTypes (h : s.Beside t) (e : s.engine = .serving p) : t.magTypes = s.magTypes :=
  (congrArg State.magTypes (h p e : t.steady = s.steady) : t.steady.magTypes = s.steady.magTypes)
theorem pending (h : s.Beside t) (e : s.engine = .serving p) : t.pending = s.pending :=
  (congrArg State.pending (h p e : t.steady = s.steady) : t.steady.pending = s.steady.pending)

/-- A Nest Context stands but for its Type Store, which a LOAD job may be filling. -/
theorem nest (h : s.Beside t) (e : s.engine = .serving p) (n : Nest) :
    t.nest n = { s.nest n with types := (t.nest n).types } := by
  have k := h p e
  cases n with
  | a =>
    have : t.steady.nestA = s.steady.nestA := congrArg State.nestA k
    show t.nestA = { s.nestA with types := t.nestA.types }
    have q : { t.nestA with types := Table.replicate 64 ⟨false, 0, .locked⟩ } =
      { s.nestA with types := Table.replicate 64 ⟨false, 0, .locked⟩ } := this
    cases ht : t.nestA
    cases hs : s.nestA
    rw [ht, hs] at q
    simp only [NestContext.mk.injEq] at q ⊢
    simpa using q
  | b =>
    have : t.steady.nestB = s.steady.nestB := congrArg State.nestB k
    show t.nestB = { s.nestB with types := t.nestB.types }
    have q : { t.nestB with types := Table.replicate 64 ⟨false, 0, .locked⟩ } =
      { s.nestB with types := Table.replicate 64 ⟨false, 0, .locked⟩ } := this
    cases ht : t.nestB
    cases hs : s.nestB
    rw [ht, hs] at q
    simp only [NestContext.mk.injEq] at q ⊢
    simpa using q

/-- The checks of the prefix do not look at anything that changes beside a request. -/
theorem postChecks (h : s.Beside t) (e : s.engine = .serving p) (ring : CmdRing) (q : Request) :
    t.postChecks ring q = s.postChecks ring q := by
  unfold State.postChecks State.ring State.slotNamed State.cursor
  rw [h.rings e, h.cursors e, h.entries e]

end State.Beside

end Sys2Proof.Machine
end

