-- ==== Sys2Proof/Laws/Memory.lean ====
section
/-! SUPPORT. Cell memory: what a byte reads as after a write, and that every operation keeps the
canonical form. -/

namespace Sys2Proof.Machine

open Config

theorem Memory.read_below {m : List Host.Cell} {a : Nat} (h : ∀ c ∈ m, a < c.1) :
    Memory.read m a = unwrittenByte := by
  induction m with
  | nil => rfl
  | cons c rest ih =>
    have hc := h c (by simp)
    have : c.1 ≠ a := by omega
    simp only [Memory.read, this, if_false]
    exact ih fun d hd => h d (by simp [hd])

/-- Every cell of a write's result is the written one or was there before. -/
theorem Memory.mem_write {m : List Host.Cell} {a : Nat} {b : Byte} {c : Host.Cell}
    (h : c ∈ Memory.write m a b) : c = (a, b) ∧ b ≠ unwrittenByte ∨ c ∈ m := by
  induction m with
  | nil =>
    simp only [Memory.write] at h
    split at h
    · cases h
    · next hb => exact Or.inl ⟨by simpa using h, hb⟩
  | cons d rest ih =>
    simp only [Memory.write] at h
    split at h
    · split at h
      · exact Or.inr h
      · next hb =>
        rcases List.mem_cons.1 h with e | e
        · exact Or.inl ⟨e, hb⟩
        · exact Or.inr e
    · split at h
      · split at h
        · exact Or.inr (List.mem_cons_of_mem _ h)
        · next hb =>
          rcases List.mem_cons.1 h with e | e
          · exact Or.inl ⟨e, hb⟩
          · exact Or.inr (List.mem_cons_of_mem _ e)
      · rcases List.mem_cons.1 h with e | e
        · exact Or.inr (e ▸ List.mem_cons_self ..)
        · exact (ih e).imp_right (List.mem_cons_of_mem _)

theorem Memory.write_wf {m : List Host.Cell} (h : Memory.wf m) (a : Nat) (b : Byte) :
    Memory.wf (Memory.write m a b) := by
  refine ⟨?_, fun c hc => ?_⟩
  · induction m with
    | nil =>
      simp only [Memory.write]
      split <;> simp
    | cons d rest ih =>
      obtain ⟨hp, hv⟩ := h
      obtain ⟨hd, hr⟩ := List.pairwise_cons.1 hp
      simp only [Memory.write]
      split
      · next hlt =>
        split
        · exact hp
        · refine List.pairwise_cons.2 ⟨fun c hc => ?_, hp⟩
          rcases List.mem_cons.1 hc with e | e
          · exact e ▸ hlt
          · exact Nat.lt_trans hlt (hd c e)
      · split
        · next heq =>
          split
          · exact hr
          · exact List.pairwise_cons.2 ⟨fun c hc => heq ▸ hd c hc, hr⟩
        · next hlt hne =>
          refine List.pairwise_cons.2
            ⟨fun c hc => ?_, ih ⟨hr, fun c hc => hv c (List.mem_cons_of_mem _ hc)⟩⟩
          rcases Memory.mem_write hc with ⟨e, _⟩ | e
          · subst e; simp only; omega
          · exact hd c e
  · rcases Memory.mem_write hc with ⟨e, hb⟩ | e
    · subst e; exact hb
    · exact h.2 c e

/-- What a byte reads as after a write to canonical memory. -/
theorem Memory.read_write {m : List Host.Cell} (h : Memory.wf m) (a b : Nat) (x : Byte) :
    Memory.read (Memory.write m a x) b = if b = a then x else Memory.read m b := by
  induction m with
  | nil =>
    simp only [Memory.write]
    split
    · next hx => split <;> simp [Memory.read, hx]
    · simp only [Memory.read, eq_comm (a := a)]
  | cons d rest ih =>
    obtain ⟨hp, hv⟩ := h
    obtain ⟨hd, hr⟩ := List.pairwise_cons.1 hp
    simp only [Memory.write]
    split
    · next hlt =>
      split
      · next hx =>
        split
        · next hb =>
          rw [hb, hx]
          refine Memory.read_below fun c hc => ?_
          rcases List.mem_cons.1 hc with e | e
          · exact e ▸ hlt
          · exact Nat.lt_trans hlt (hd c e)
        · rfl
      · by_cases hb : b = a
        · simp [Memory.read, hb]
        · have : a ≠ b := fun e => hb e.symm
          simp [Memory.read, hb, this]
    · split
      · next heq =>
        split
        · next hx =>
          split
          · next hb =>
            rw [hb, hx, heq]
            exact Memory.read_below hd
          · next hb =>
            have : d.1 ≠ b := fun e => hb (by rw [heq]; exact e.symm)
            simp [Memory.read, this]
        · by_cases hb : b = a
          · simp [Memory.read, hb]
          · have h1 : a ≠ b := fun e => hb e.symm
            have h2 : d.1 ≠ b := fun e => hb (by rw [heq]; exact e.symm)
            simp [Memory.read, hb, h1, h2]
      · next hlt hne =>
        have hrest : Memory.wf rest := ⟨hr, fun c hc => hv c (List.mem_cons_of_mem _ hc)⟩
        by_cases hdb : d.1 = b
        · have : b ≠ a := by omega
          simp [Memory.read, hdb, this]
        · simp only [Memory.read, hdb, if_false]
          exact ih hrest

theorem Memory.writeBytes_wf {m : List Host.Cell} (h : Memory.wf m) (a : Nat) (w : Word) (n : Nat) :
    Memory.wf (Memory.writeBytes m a w n) := by
  induction n with
  | zero => exact h
  | succ n ih => exact Memory.write_wf ih _ _

/-- What a byte reads as after a little-endian write of some bytes to canonical memory. -/
theorem Memory.read_writeBytes {m : List Host.Cell} (h : Memory.wf m) (a : Nat) (w : Word)
    (n b : Nat) :
    Memory.read (Memory.writeBytes m a w n) b =
      if a ≤ b ∧ b < a + n then byteOf w (b - a) else Memory.read m b := by
  induction n with
  | zero =>
    simp [Memory.writeBytes]
  | succ n ih =>
    rw [Memory.writeBytes, Memory.read_write (Memory.writeBytes_wf h a w n), ih]
    by_cases hb : b = a + n
    · have h1 : a ≤ b ∧ b < a + (n + 1) := by omega
      have h2 : b - a = n := by omega
      simp [hb]
    · by_cases hin : a ≤ b ∧ b < a + n
      · have : a ≤ b ∧ b < a + (n + 1) := by omega
        simp [hb, hin, this]
      · have : ¬(a ≤ b ∧ b < a + (n + 1)) := by omega
        simp [hb, hin, this]

theorem Memory.writeWords_wf {m : List Host.Cell} (h : Memory.wf m) (a : Nat) (ws : List Word) :
    Memory.wf (Memory.writeWords m a ws) := by
  induction ws generalizing m a with
  | nil => exact h
  | cons w ws ih => exact ih (Memory.writeBytes_wf h a w 8) _

/-- A byte outside the words written reads as before. -/
theorem Memory.read_writeWords_outside {m : List Host.Cell} (h : Memory.wf m) (a : Nat)
    (ws : List Word) (b : Nat) (hb : b < a ∨ a + 8 * ws.length ≤ b) :
    Memory.read (Memory.writeWords m a ws) b = Memory.read m b := by
  induction ws generalizing m a with
  | nil => rfl
  | cons w ws ih =>
    simp only [List.length_cons] at hb
    rw [Memory.writeWords, ih (Memory.writeBytes_wf h a w 8) _ (by omega),
      Memory.read_writeBytes h]
    have : ¬(a ≤ b ∧ b < a + 8) := by omega
    simp [this]

theorem Memory.wf_nil : Memory.wf [] := ⟨List.Pairwise.nil, fun _ h => nomatch h⟩

/-- A number read byte by byte is less than what its bytes can hold. -/
theorem Memory.readNat_lt (m : List Host.Cell) (a n : Nat) : Memory.readNat m a n < 256 ^ n := by
  induction n generalizing a with
  | zero => simp [Memory.readNat]
  | succ n ih =>
    have h1 := (Memory.read m a).isLt
    have h2 := ih (a + 1)
    simp only [Memory.readNat, Nat.pow_succ]
    omega

/-- A little-endian number reads the same wherever its bytes do. -/
theorem Memory.readNat_congr {m m' : List Host.Cell} {a n : Nat}
    (h : ∀ b, a ≤ b → b < a + n → Memory.read m b = Memory.read m' b) :
    Memory.readNat m a n = Memory.readNat m' a n := by
  induction n generalizing a with
  | zero => rfl
  | succ n ih =>
    simp only [Memory.readNat]
    rw [h a (by omega) (by omega), ih fun b h1 h2 => h b (by omega) (by omega)]

/-- The bytes of a number, read back. -/
theorem Memory.readNat_bytes {m : List Host.Cell} (w : Word) (a k n : Nat)
    (h : ∀ j, j < n → Memory.read m (a + j) = byteOf w (k + j)) :
    Memory.readNat m a n = w.toNat / 256 ^ k % 256 ^ n := by
  induction n generalizing a k with
  | zero => simp [Memory.readNat, Nat.mod_one]
  | succ n ih =>
    have h0 := h 0 (by omega)
    simp only [Nat.add_zero] at h0
    have ih' := ih (a + 1) (k + 1) fun j hj => by
      have := h (j + 1) (by omega)
      rw [show a + 1 + j = a + (j + 1) by omega, show k + 1 + j = k + (j + 1) by omega]
      exact this
    have h8 : (2 : Nat) ^ 8 = 256 := by decide
    rw [Memory.readNat, h0, ih', byteOf, BitVec.toNat_ofNat, h8, Nat.pow_succ 256 k,
      ← Nat.div_div_eq_div_mul, Nat.pow_succ 256 n, Nat.mul_comm (256 ^ n) 256, Nat.mod_mul]

/-- A word written to canonical memory reads back. -/
theorem Memory.readWord_writeBytes {m : List Host.Cell} (h : Memory.wf m) (a : Nat) (w : Word) :
    Memory.readWord (Memory.writeBytes m a w 8) a = w := by
  have : Memory.readNat (Memory.writeBytes m a w 8) a 8 = w.toNat / 256 ^ 0 % 256 ^ 8 := by
    refine Memory.readNat_bytes w a 0 8 fun j hj => ?_
    rw [Memory.read_writeBytes h]
    have h1 : a ≤ a + j ∧ a + j < a + 8 := by omega
    have h2 : a + j - a = 0 + j := by omega
    simp [h1, h2]
  rw [Memory.readWord, this]
  apply BitVec.eq_of_toNat_eq
  have hw := w.isLt
  simp only [BitVec.toNat_ofNat, Nat.pow_zero, Nat.div_one]
  omega

/-- A word elsewhere reads as before a write. -/
theorem Memory.readWord_writeBytes_outside {m : List Host.Cell} (h : Memory.wf m) (a b : Nat)
    (w : Word) (hb : b + 8 ≤ a ∨ a + 8 ≤ b) :
    Memory.readWord (Memory.writeBytes m a w 8) b = Memory.readWord m b := by
  rw [Memory.readWord, Memory.readNat_congr (m' := m) fun c h1 h2 => ?_, Memory.readWord]
  rw [Memory.read_writeBytes h]
  have : ¬(a ≤ c ∧ c < a + 8) := by omega
  simp [this]

end Sys2Proof.Machine
end

