-- ==== Sys2Proof/Laws/Cycles.lean ====
section
/-! SUPPORT. Time and the Engine's own cycles: what pulses change, and what a run of reads or writes
leaves when memory answers all of them DONE. -/

namespace Sys2Proof.Machine

/-! ### TIMEBASE pulses -/

theorem State.foldl_enqueue (ids : List (Fin 32)) (s : State) :
    ids.foldl (fun s i => s.enqueue (.entry i)) s =
      { s with images := (ids.foldl (fun s i => s.enqueue (.entry i)) s).images } := by
  induction ids generalizing s with
  | nil => rfl
  | cons i ids ih =>
    simp only [List.foldl_cons]
    rw [ih]
    unfold State.enqueue
    split <;> rfl

/-- A pulse changes the counter, the due marks and the image queue, and nothing else. -/
theorem State.tick_eq (s : State) :
    s.tick = { s with
      time := s.time + 1, due := s.due ++ s.newlyDue (s.time + 1), images := s.tick.images } := by
  unfold State.tick
  simp only
  rw [State.foldl_enqueue]

/-- Pulses change the counter, the due marks and the image queue, and nothing else. -/
theorem State.ticks_eq (s : State) (n : Nat) :
    s.ticks n = { s with
      time := s.time + BitVec.ofNat 32 n, due := (s.ticks n).due, images := (s.ticks n).images } := by
  induction n with
  | zero => simp [State.ticks]
  | succ n ih =>
    rw [State.ticks, State.tick_eq]
    conv_lhs => rw [ih]
    have : s.time + BitVec.ofNat 32 n + 1 = s.time + BitVec.ofNat 32 (n + 1) := by
      rw [BitVec.add_assoc]
      congr 1
      apply BitVec.eq_of_toNat_eq
      simp
    rw [ih] at *
    simp only [this]

theorem State.ticks_add (s : State) (n k : Nat) : (s.ticks n).ticks k = s.ticks (n + k) := by
  induction k with
  | zero => rfl
  | succ k ih => rw [State.ticks, ih]; rfl

@[simp] theorem State.ticks_time (s : State) (n : Nat) :
    (s.ticks n).time = s.time + BitVec.ofNat 32 n := by rw [State.ticks_eq]

/-! ### Memory's answers -/

theorem Answered.head {answers : List MemAnswer} {n : Nat} (h : Answered answers (n + 1)) :
    Answered answers 1 := by
  intro a ha
  cases answers with
  | nil => cases ha
  | cons b rest =>
    simp only [List.take_succ_cons, List.take_zero, List.mem_singleton] at ha
    exact h a (by simp [ha])

theorem Answered.tail {answers : List MemAnswer} {n : Nat} (h : Answered answers (n + 1)) :
    Answered answers.tail n := by
  intro a ha
  cases answers with
  | nil => simp at ha
  | cons b rest => exact h a (by simp at ha ⊢; exact Or.inr ha)

theorem Answered.split {answers : List MemAnswer} {n k : Nat} (h : Answered answers (n + k)) :
    Answered answers n ∧ Answered (answers.drop n) k := by
  constructor
  · intro a ha
    exact h a ((List.take_subset_take_left answers (Nat.le_add_right n k)) ha)
  · intro a ha
    refine h a ?_
    rw [List.take_add]
    exact List.mem_append_right _ ha

/-- The next cycle is answered DONE. -/
theorem Answered.next {answers : List MemAnswer} (h : Answered answers 1) :
    (nextAnswer answers).hard = false := by
  cases answers with
  | nil => rfl
  | cons a rest => exact h a (by simp)

/-- The next cycle is answered HARD. -/
theorem Answered.next_not {answers : List MemAnswer} (h : ¬Answered answers 1) :
    (nextAnswer answers).hard = true := by
  cases answers with
  | nil => exact absurd (fun a ha => by simp at ha) h
  | cons a rest =>
    cases ha : a.hard with
    | true => exact ha
    | false => exact absurd (fun b hb => by simp at hb; rw [hb, ha]) h

/-! ### The states between the Engine's cycles -/

theorem State.waited_add (s : State) (answers : List MemAnswer) (n k : Nat) :
    (s.waited answers n).waited (answers.drop n) k = s.waited answers (n + k) := by
  induction n generalizing s answers with
  | zero => simp [State.waited]
  | succ n ih =>
    rw [Nat.add_right_comm, State.waited, State.waited, ← ih]
    cases answers <;> simp

theorem State.wroteAll_append (s : State) (answers : List MemAnswer) (ws vs : List (Nat × Word)) :
    s.wroteAll answers (ws ++ vs) = (s.wroteAll answers ws).wroteAll (answers.drop ws.length) vs := by
  induction ws generalizing s answers with
  | nil => simp [State.wroteAll]
  | cons p ws ih =>
    simp only [List.cons_append, State.wroteAll, ih, List.length_cons]
    cases answers <;> simp

theorem wordAt_wordsRead (s : State) (answers : List MemAnswer) (a n : Nat) (h : 0 < n) :
    wordAt (s.wordsRead answers a n) 0 = Memory.readWord (s.awaitNext answers).mem a := by
  cases n with
  | zero => omega
  | succ n => rfl

/-! ### One cycle, and several -/

/-- A cycle that memory answers DONE. -/
theorem Run.cycle_done {r : Run} (h : Answered r.answers 1) :
    r.cycle = (false, { r with
      answers := r.answers.tail, st := r.st.awaitNext r.answers }) := by
  unfold Run.cycle
  rw [h.next]
  rfl

/-- A cycle that memory answers HARD. -/
theorem Run.cycle_hard {r : Run} (h : ¬Answered r.answers 1) :
    r.cycle = (true, { r with
      answers := r.answers.tail, st := r.st.awaitNext r.answers }) := by
  unfold Run.cycle
  rw [Answered.next_not h]
  rfl

/-- A read that memory answers DONE. -/
theorem Run.read_done {r : Run} (h : Answered r.answers 1) (a : Nat) :
    r.read a = (some (Memory.readWord (r.st.awaitNext r.answers).mem a), { r with
      answers := r.answers.tail, st := r.st.awaitNext r.answers }) := by
  unfold Run.read
  rw [Run.cycle_done h]
  simp

/-- A read that memory answers HARD. -/
theorem Run.read_hard {r : Run} (h : ¬Answered r.answers 1) (a : Nat) :
    r.read a = (none, Run.raise { r with
      answers := r.answers.tail, st := r.st.awaitNext r.answers } .memory) := by
  unfold Run.read
  rw [Run.cycle_hard h]
  simp

/-- A write that memory answers DONE. -/
theorem Run.write_done {r : Run} (h : Answered r.answers 1) (a : Nat) (w : Word) :
    r.write a w = (true, { r with
      answers := r.answers.tail, st := r.st.wrote r.answers (a, w) }) := by
  unfold Run.write
  rw [Run.cycle_done h]
  simp [Run.modify, State.wrote]

/-- A write that memory answers HARD. -/
theorem Run.write_hard {r : Run} (h : ¬Answered r.answers 1) (a : Nat) (w : Word) :
    r.write a w = (false, Run.raise { r with
      answers := r.answers.tail, st := r.st.awaitNext r.answers } .memory) := by
  unfold Run.write
  rw [Run.cycle_hard h]
  simp

/-- Reads that memory answers DONE. -/
theorem Run.reads_done {r : Run} {n : Nat} (h : Answered r.answers n) (a : Nat) :
    r.reads a n = (some (r.st.wordsRead r.answers a n), { r with
      answers := r.answers.drop n, st := r.st.waited r.answers n }) := by
  induction n generalizing r a with
  | zero => simp [Run.reads, State.wordsRead, State.waited]
  | succ n ih =>
    unfold Run.reads
    rw [Run.read_done h.head]
    simp only
    rw [ih (r := { r with
      answers := r.answers.tail, st := r.st.awaitNext r.answers }) h.tail]
    simp [State.wordsRead, State.waited]

/-- Writes that memory answers DONE. -/
theorem Run.writes_done {r : Run} {ws : List (Nat × Word)} (h : Answered r.answers ws.length) :
    r.writes ws = (true, { r with
      answers := r.answers.drop ws.length, st := r.st.wroteAll r.answers ws }) := by
  induction ws generalizing r with
  | nil => simp [Run.writes, State.wroteAll]
  | cons p ws ih =>
    unfold Run.writes
    rw [Run.write_done (Answered.head h)]
    simp only
    rw [ih (r := { r with
      answers := r.answers.tail, st := r.st.wrote r.answers (p.1, p.2) }) (Answered.tail h)]
    simp [State.wroteAll]

/-- A request goes on with the words it read. -/
theorem Run.reading_done {r : Run} {n : Nat} (h : Answered r.answers n) (a : Nat)
    (k : List Word → Run → Ack × Run) :
    r.reading a n k = k (r.st.wordsRead r.answers a n) { r with
      answers := r.answers.drop n, st := r.st.waited r.answers n } := by
  unfold Run.reading
  rw [Run.reads_done h]

/-- A request goes on after its writes. -/
theorem Run.writing_done {r : Run} {ws : List (Nat × Word)}
    (h : Answered r.answers ws.length) (k : Run → Ack × Run) :
    r.writing ws k = k { r with
      answers := r.answers.drop ws.length, st := r.st.wroteAll r.answers ws } := by
  unfold Run.writing
  rw [Run.writes_done h]

end Sys2Proof.Machine
end

