-- ==== Sys2Proof/Laws/Request.lean ====
section
/-! SUPPORT. The end of a request, and what the changes of a run leave of its answers, its images and
its duties. -/

namespace Sys2Proof.Machine

/-! ### What a run carries -/

/-- What a run carries besides the state and the images: nothing of it changes. -/
structure Run.SameRest (r r' : Run) : Prop where
  answers : r'.answers = r.answers
  empties : r'.empties = r.empties
  events  : r'.events = r.events

theorem Run.SameRest.refl (r : Run) : r.SameRest r := ⟨rfl, rfl, rfl⟩

theorem Run.SameRest.trans {a b c : Run} (h : a.SameRest b) (k : b.SameRest c) : a.SameRest c :=
  ⟨k.answers.trans h.answers, k.empties.trans h.empties, k.events.trans h.events⟩

theorem Run.image_rest (r : Run) (id : ImageId) : r.SameRest (r.image id) := by
  unfold Run.image; split <;> exact ⟨rfl, rfl, rfl⟩

@[simp] theorem Run.image_st (r : Run) (id : ImageId) : (r.image id).st = r.st := by
  unfold Run.image; split <;> rfl

@[simp] theorem Run.image_lanes (r : Run) (id : ImageId) : (r.image id).lanes = r.lanes := by
  unfold Run.image; split <;> rfl

@[simp] theorem Run.image_answers (r : Run) (id : ImageId) : (r.image id).answers = r.answers :=
  (r.image_rest id).answers

@[simp] theorem Run.image_empties (r : Run) (id : ImageId) : (r.image id).empties = r.empties :=
  (r.image_rest id).empties

@[simp] theorem Run.image_events (r : Run) (id : ImageId) : (r.image id).events = r.events :=
  (r.image_rest id).events

theorem Run.mem_image (r : Run) (id x : ImageId) :
    x ∈ (r.image id).images ↔ x ∈ r.images ∨ (r.st.guarded = true ∧ x = id) := by
  unfold Run.image
  split
  · next h => simp at h; simp [h.1]
  · next h =>
    constructor
    · exact Or.inl
    · rintro (hx | ⟨hg, rfl⟩)
      · exact hx
      · simpa [hg] using h

@[simp] theorem Run.modify_st (r : Run) (f : State → State) : (r.modify f).st = f r.st := rfl
@[simp] theorem Run.modify_images (r : Run) (f : State → State) : (r.modify f).images = r.images := rfl
@[simp] theorem Run.modify_answers (r : Run) (f : State → State) :
    (r.modify f).answers = r.answers := rfl
@[simp] theorem Run.modify_empties (r : Run) (f : State → State) :
    (r.modify f).empties = r.empties := rfl
@[simp] theorem Run.modify_events (r : Run) (f : State → State) : (r.modify f).events = r.events := rfl
@[simp] theorem Run.modify_lanes (r : Run) (f : State → State) : (r.modify f).lanes = r.lanes := rfl

/-! ### Raising a flag -/

theorem flagBits_or {x : BitVec 24} {n : Nat} (h : x.getLsbD n = true) :
    x ||| BitVec.twoPow 24 n = x := by
  apply BitVec.eq_of_getLsbD_eq
  intro i hi
  simp only [BitVec.getLsbD_or, BitVec.getLsbD_twoPow]
  by_cases hn : n = i
  · subst hn; simp [h]
  · simp [hn]

/-- Raising a flag in GUARDED mode sets it. -/
theorem Run.raise_st {r : Run} (h : r.st.guarded = true) (f : Flag) :
    (r.raise f).st = { r.st with flags := r.st.flags ||| f.bits } := by
  unfold Run.raise
  simp only [h, Bool.true_and, Bool.not_eq_true']
  by_cases hf : r.st.flag f
  · have : r.st.flags ||| f.bits = r.st.flags := flagBits_or hf
    simp [hf, this]
  · simp [hf]

/-- Raising a flag in GUARDED mode collects the status block if the flag was clear. -/
theorem Run.mem_raise {r : Run} (h : r.st.guarded = true) (f : Flag) (x : ImageId) :
    x ∈ (r.raise f).images ↔ x ∈ r.images ∨ (r.st.flag f = false ∧ x = .status) := by
  unfold Run.raise
  by_cases hf : r.st.flag f = true
  · simp [hf]
  · have hg : (r.modify fun s => { s with flags := s.flags ||| f.bits }).st.guarded = true := h
    have hn : r.st.flag f = false := by simpa using hf
    rw [if_pos (by simp [h, hn]), Run.mem_image, hg, hn]
    simp

theorem Run.raise_open {r : Run} (h : r.st.guarded = false) (f : Flag) : r.raise f = r := by
  simp [Run.raise, h]

/-! ### The queue of the images -/

theorem State.foldl_images (ids : List ImageId) (s : State) :
    ids.foldl State.enqueue s = { s with images := (ids.foldl State.enqueue s).images } := by
  induction ids generalizing s with
  | nil => rfl
  | cons i ids ih =>
    simp only [List.foldl_cons]
    rw [ih]
    unfold State.enqueue
    split <;> rfl

theorem State.mem_foldl_images (ids : List ImageId) (s : State) (x : ImageId) :
    x ∈ (ids.foldl State.enqueue s).images ↔ x ∈ s.images ∨ (s.guarded = true ∧ x ∈ ids) := by
  induction ids generalizing s with
  | nil => simp
  | cons i ids ih =>
    simp only [List.foldl_cons, List.mem_cons]
    rw [ih, State.enqueue_mem_images, State.enqueue_guarded]
    constructor
    · rintro ((h | ⟨hg, rfl⟩) | ⟨hg, h⟩)
      · exact Or.inl h
      · exact Or.inr ⟨hg, Or.inl rfl⟩
      · exact Or.inr ⟨hg, Or.inr h⟩
    · rintro (h | ⟨hg, rfl | h⟩)
      · exact Or.inl (Or.inl h)
      · exact Or.inl (Or.inr ⟨hg, rfl⟩)
      · exact Or.inr ⟨hg, h⟩

/-- Queueing the collected images changes the image queue alone. -/
theorem Run.queued_eq (r : Run) : r.queued = { r.st with images := r.queued.images } :=
  State.foldl_images r.images r.st

/-- The queue holds what it held, and the collected images. -/
theorem Run.mem_queued {r : Run} (h : r.st.guarded = true) (x : ImageId) :
    x ∈ r.queued.images ↔ x ∈ r.st.images ∨ x ∈ r.images := by
  unfold Run.queued
  rw [State.mem_foldl_images]
  simp [h]

/-! ### The end of a request -/

/-- A request with no duties left ends where it stands, with its images queued. -/
theorem Run.conclude_idle {r : Run} (hl : r.lanes = false) (he : r.empties = [])
    (hv : r.events = []) : r.conclude = r.queueImages := by
  unfold Run.conclude Run.settleLanes Run.emptySlots Run.handEvents
  cases r
  simp_all

/-- A held write with images to come waits for them. -/
theorem Run.finishHeld_waits {r : Run} (h : r.images ≠ []) (t : Tag) (a : Ack) :
    r.finishHeld t a = { r.st with
      requests := r.st.requests.set t none, engine := .finishing ⟨t, a, r.images⟩ } := by
  unfold Run.finishHeld
  have : r.images.isEmpty = false := by simpa using h
  simp [this]

/-- A held write without images is acknowledged, and the Engine takes the next request. -/
theorem Run.finishHeld_at_once {r : Run} (h : r.images = []) (t : Tag) (a : Ack) :
    r.finishHeld t a = State.takeNext { r.st with
      requests := r.st.requests.set t none
      masters := r.st.masters.set t (.answered a none)
      engine := .idle } := by
  unfold Run.finishHeld
  simp [h, State.acknowledge]

/-- What a step of the Engine on a held write of its row answers. -/
theorem heldStep_due {isDue : Request → Bool} {serve : Tag → Request → Run → Ack × Run}
    {answers : List MemAnswer} {s : State} {t : Tag} {q : Request}
    (h : s.heldInHand = some (t, q)) (hd : isDue q = true) :
    heldStep isDue serve answers s = .next ((serve t q (Run.start s answers)).2.conclude.finishHeld t
      (serve t q (Run.start s answers)).1) := by
  simp [heldStep, h, hd]

/-- What a step of the Engine on the expiry or walker position answers. -/
theorem internalStep_due {p : Fin 18} {serve : Run → Option Run} {s : State} {r : Run}
    (h : s.engine = .serving p) (hr : serve (Run.start s []) = some r) :
    internalStep p serve s = .next r.conclude.finishInternal := by
  simp [internalStep, State.serves, h, hr]

/-- A step of the Engine always answers a next state. -/
theorem heldStep_next (isDue : Request → Bool) (serve : Tag → Request → Run → Ack × Run)
    (answers : List MemAnswer) (s : State) : ∃ t, heldStep isDue serve answers s = .next t := by
  unfold heldStep
  split
  · exact ⟨_, rfl⟩
  · split <;> exact ⟨_, rfl⟩

theorem internalStep_next (p : Fin 18) (serve : Run → Option Run) (s : State) :
    ∃ t, internalStep p serve s = .next t := by
  unfold internalStep
  split
  · split <;> exact ⟨_, rfl⟩
  · exact ⟨_, rfl⟩

end Sys2Proof.Machine
end

