-- ==== Sys2Proof/Laws/Keeps.lean ====
section
/-! SUPPORT. What every shared operation keeps, whatever it does besides: the mode, the canonical form of
cell memory, the CAPTURE flags as mirrors of the captures, the silence of a part in OPEN_PATH mode, and
every HELD capture. The relation, the primitive changes, what goes on beside a request, and the Engine's
own cycles; one lemma for each operation, to be cited in place of its definition. -/

namespace Sys2Proof.Machine

/-! ### The relation -/

/-- What a change that is neither a reset, nor the first load, nor the release of a capture keeps. -/
structure State.Keeps (s t : State) : Prop where
  mode   : t.mode = s.mode
  mem    : MemoryCanonical s → MemoryCanonical t
  mirror : FlagsMirrorCaptures s → FlagsMirrorCaptures t
  silent : OpenPathSilent s → OpenPathSilent t
  held   : ∀ src c, s.captureOf src = some c → t.captureOf src = some c

namespace State.Keeps

theorem refl (s : State) : s.Keeps s := ⟨rfl, id, id, id, fun _ _ h => h⟩

theorem trans {s t u : State} (h : s.Keeps t) (k : t.Keeps u) : s.Keeps u where
  mode := k.mode.trans h.mode
  mem := k.mem ∘ h.mem
  mirror := k.mirror ∘ h.mirror
  silent := k.silent ∘ h.silent
  held src c e := k.held src c (h.held src c e)

/-- A change that leaves the mode, the flags and the captures alone, keeps memory canonical, and queues
no image in OPEN_PATH mode. -/
theorem of_frame {s t : State} (hm : t.mode = s.mode) (hw : MemoryCanonical s → MemoryCanonical t)
    (hf : t.flags = s.flags) (hc : t.captures = s.captures)
    (hi : s.mode = .openPath → t.images = s.images) : s.Keeps t where
  mode := hm
  mem := hw
  mirror h src := by
    have := h src
    simpa [State.flag, State.captureOf, hf, hc] using this
  silent h ho := by
    rw [hm] at ho
    obtain ⟨a, b, c⟩ := h ho
    exact ⟨by rw [hi ho, a], by rw [hf, b], fun src => by
      simpa [State.captureOf, hc] using c src⟩
  held src c e := by simpa [State.captureOf, hc] using e

/-- A change of none of the fields that the relation speaks of. -/
theorem of_same {s t : State} (hm : t.mode = s.mode) (hw : t.mem = s.mem) (hf : t.flags = s.flags)
    (hc : t.captures = s.captures) (hi : t.images = s.images) : s.Keeps t :=
  of_frame hm (fun h => by simpa [MemoryCanonical, hw] using h) hf hc (fun _ => hi)

/-- A list of changes, one after the other. -/
theorem foldl {α : Type} {f : Run → α → Run} (h : ∀ (r : Run) x, r.st.Keeps (f r x).st) (l : List α) (r : Run) :
    r.st.Keeps (l.foldl f r).st := by
  induction l generalizing r with
  | nil => exact refl _
  | cons x l ih => exact (h r x).trans (ih (f r x))

end State.Keeps

/-! ### The primitive changes -/

theorem State.enqueue_keeps (s : State) (id : ImageId) : s.Keeps (s.enqueue id) := by
  refine .of_frame (by simp) (fun h => by simpa [MemoryCanonical] using h) (by simp) (by simp) ?_
  intro ho
  simp [State.enqueue, State.guarded, ho]

theorem Run.image_keeps (r : Run) (id : ImageId) : r.st.Keeps (r.image id).st := by
  rw [Run.image_st]; exact .refl _

/-- Queueing the collected images. -/
theorem Run.queued_keeps (r : Run) : r.st.Keeps r.queued := by
  have h : ∀ (l : List ImageId) (u : State), u.Keeps (l.foldl State.enqueue u) := by
    intro l
    induction l with
    | nil => exact fun u => .refl u
    | cons i l ih => exact fun u => (u.enqueue_keeps i).trans (ih _)
  exact h _ _

/-- A change of the state that touches none of the fields that the relation speaks of. -/
theorem Run.modify_keeps (r : Run) {f : State → State} (h : r.st.Keeps (f r.st)) :
    r.st.Keeps (r.modify f).st := h

theorem Run.modify_image_keeps (r : Run) {f : State → State} (id : ImageId)
    (h : r.st.Keeps (f r.st)) : r.st.Keeps ((r.modify f).image id).st :=
  h.trans ((r.modify f).image_keeps id)

theorem Run.setCup_keeps (r : Run) (i : Fin 4) (c : Cup) : r.st.Keeps (r.setCup i c).st := by
  unfold Run.setCup; split
  · exact .refl _
  · exact r.modify_image_keeps _ (.of_same rfl rfl rfl rfl rfl)

theorem Run.setLane_keeps (r : Run) (i : Fin 16) (l : Lane) : r.st.Keeps (r.setLane i l).st := by
  unfold Run.setLane; split
  · exact .refl _
  · exact r.modify_image_keeps _ (.of_same rfl rfl rfl rfl rfl)

theorem Run.touchLanes_keeps (r : Run) : r.st.Keeps r.touchLanes.st := .refl _

theorem Run.setStation_keeps (r : Run) (i : Fin 8) (st : Station) :
    r.st.Keeps (r.setStation i st).st := by
  unfold Run.setStation; split
  · exact .refl _
  · exact r.modify_image_keeps _ (.of_same rfl rfl rfl rfl rfl)

theorem State.withNest_keeps (s : State) (n : Nest) (c : NestContext) : s.Keeps (s.withNest n c) := by
  cases n <;> exact .of_same rfl rfl rfl rfl rfl

theorem Run.setNest_keeps (r : Run) (n : Nest) (c : NestContext) : r.st.Keeps (r.setNest n c).st := by
  unfold Run.setNest; split
  · exact .refl _
  · exact r.modify_image_keeps _ (r.st.withNest_keeps n c)

theorem Run.setEntry_keeps (r : Run) (i : Fin 32) (e : Option Entry) :
    r.st.Keeps (r.setEntry i e).st := r.modify_image_keeps _ (.of_same rfl rfl rfl rfl rfl)

theorem Run.setCursors_keeps (r : Run) (c : Cursors) : r.st.Keeps (r.setCursors c).st := by
  unfold Run.setCursors; split
  · exact .refl _
  · exact r.modify_image_keeps _ (.of_same rfl rfl rfl rfl rfl)

/-! ### Flags and captures -/

/-- Flags of one number are one flag. -/
theorem Flag.number_lt (f : Flag) : f.number < 24 := by
  cases f with
  | capture src => cases src <;> decide
  | hard src => cases src <;> decide
  | nestReady n => cases n <;> decide
  | nestStopped n => cases n <;> decide
  | nestComplete n => cases n <;> decide
  | nestSynced n => cases n <;> decide
  | guard => decide
  | memory => decide
  | loadDone => decide
  | laneStopped => decide
  | laneExhausted => decide
  | stationChange => decide
  | relocated => decide
  | uncertain => decide

/-- The flags that do not mirror a capture. -/
def Flag.free : Flag → Prop
  | .capture _ => False
  | _ => True

/-- A flag that mirrors no capture has a number of 4 or more. -/
theorem Flag.free_number {f : Flag} (h : f.free) : 4 ≤ f.number := by
  cases f <;> simp_all [Flag.free, Flag.number] <;> omega

theorem Flag.capture_number (src : Source) : (Flag.capture src).number < 4 := by
  cases src <;> decide

/-- Whether a flag is set after another one is raised. -/
theorem State.flag_or (x : BitVec 24) (f g : Flag) :
    (x ||| f.bits).getLsbD g.number = (x.getLsbD g.number || decide (f.number = g.number)) := by
  rw [BitVec.getLsbD_or, Flag.bits, BitVec.getLsbD_twoPow]
  have hf := f.number_lt
  simp [hf]

theorem Run.raise_keeps (r : Run) {f : Flag} (h : f.free) : r.st.Keeps (r.raise f).st := by
  by_cases hg : r.st.guarded = true
  · have hm : r.st.mode = .guarded := (State.guarded_iff _).1 hg
    rw [Run.raise_st hg]
    refine ⟨rfl, id, fun k src => ?_, fun _ ho => ?_, fun _ _ e => e⟩
    · have hn : f.number ≠ (Flag.capture src).number := by
        have := Flag.free_number h; have := Flag.capture_number src; omega
      have := k src
      simp only [State.flag] at this ⊢
      rw [State.flag_or]
      simp only [hn, decide_false, Bool.or_false]
      exact this
    · exact absurd (hm.symm.trans ho) (by decide)
  · rw [Run.raise_open (by simpa using hg)]; exact .refl _

/-- A flag raised outside a request. -/
theorem State.raise_keeps (s : State) {f : Flag} (h : f.free) : s.Keeps (s.raise f) :=
  (Run.raise_keeps (Run.start s []) h).trans (Run.queued_keeps _)

/-- The captures of two sources are two. -/
theorem Source.idx_inj {a b : Source} (h : a.idx = b.idx) : a = b := by
  cases a <;> cases b <;> first | rfl | exact absurd h (by decide)

/-- A capture that was EMPTY is filled, with its flag. -/
theorem Run.fillCapture_keeps (r : Run) (ev : Event) (hg : r.st.guarded = true)
    (he : r.st.captureOf ev.source = none) : r.st.Keeps (r.fillCapture ev).st := by
  have hm : r.st.mode = .guarded := (State.guarded_iff _).1 hg
  unfold Run.fillCapture
  simp only [Run.image_st]
  rw [Run.raise_st (by simpa [State.guarded] using hg)]
  simp only [Run.image_st, Run.modify_st]
  refine ⟨rfl, id, fun k src => ?_, fun _ ho => ?_, fun src c e => ?_⟩
  · have := k src
    simp only [State.flag, State.captureOf] at this ⊢
    rw [State.flag_or]
    by_cases hs : src = ev.source
    · subst hs; simp
    · have hi : src.idx ≠ ev.source.idx := fun h => hs (Source.idx_inj h)
      have hn : (Flag.capture ev.source).number ≠ (Flag.capture src).number := by
        simp only [Flag.number]; intro h; exact hi (Fin.ext h.symm)
      rw [Table.get_set_ne _ _ hi]
      simp only [hn, decide_false, Bool.or_false]
      exact this
  · exact absurd (hm.symm.trans ho) (by decide)
  · have hs : src ≠ ev.source := by
      rintro rfl; rw [he] at e; cases e
    have hi : src.idx ≠ ev.source.idx := fun h => hs (Source.idx_inj h)
    simp only [State.captureOf] at e ⊢
    rw [Table.get_set_ne _ _ hi]
    exact e

theorem Run.noteEvent_keeps (r : Run) (ev : Event) : r.st.Keeps (r.noteEvent ev).st := by
  unfold Run.noteEvent
  split
  · next hg =>
    split
    · next he => exact r.fillCapture_keeps ev hg he
    · exact .refl _
  · exact .refl _

theorem Run.refusal_keeps (r : Run) (ev : Event) : r.st.Keeps (r.refusal ev).2.st := by
  unfold Run.refusal
  split
  · next hg =>
    split
    · next he => exact r.fillCapture_keeps ev hg he
    · exact (r.raise_keeps (f := .hard ev.source) trivial).trans (Run.image_keeps _ _)
  · exact .refl _

theorem Run.guardRefusal_keeps (r : Run) (g : GuardRecord) : r.st.Keeps (r.guardRefusal g).st := by
  unfold Run.guardRefusal
  refine State.Keeps.trans ?_ (Run.image_keeps _ _)
  refine State.Keeps.trans ?_ (Run.raise_keeps _ trivial)
  exact r.modify_keeps (.of_same rfl rfl rfl rfl rfl)

/-! ### Time, the port and the arbiter -/

theorem State.tick_keeps (s : State) : s.Keeps s.tick := by
  unfold State.tick
  simp only
  have h : ∀ (l : List (Fin 32)) (u : State),
      u.Keeps (l.foldl (fun s i => s.enqueue (.entry i)) u) := by
    intro l
    induction l with
    | nil => exact fun u => .refl u
    | cons i l ih => exact fun u => (u.enqueue_keeps _).trans (ih _)
  refine State.Keeps.trans ?_ (h _ _)
  exact .of_same rfl rfl rfl rfl rfl

theorem State.ticks_keeps (s : State) (n : Nat) : s.Keeps (s.ticks n) := by
  induction n with
  | zero => exact .refl _
  | succ n ih => exact ih.trans (State.tick_keeps _)

theorem State.acknowledge_keeps (s : State) (t : Tag) (a : Ack) (d : Option Word) :
    s.Keeps (s.acknowledge t a d) := .of_same rfl rfl rfl rfl rfl

theorem State.takeNext_keeps (s : State) : s.Keeps s.takeNext :=
  .of_same (by simp) (by simp) (by simp) (by simp) (by simp)

/-! ### What goes on beside a request -/

theorem State.setLine_keeps (s : State) (i : Fin 64) (l : Option CacheLine) : s.Keeps (s.setLine i l) :=
  .of_same rfl rfl rfl rfl rfl

theorem State.touch_keeps (s : State) (i : Fin 64) : s.Keeps (s.touch i) := .of_same rfl rfl rfl rfl rfl

theorem State.invalidate_keeps (s : State) (i : Fin 64) : s.Keeps (s.invalidate i) :=
  .of_same rfl rfl rfl rfl rfl

theorem State.setJob_keeps (s : State) (j : RunningJob) : s.Keeps (s.setJob j) :=
  .of_same rfl rfl rfl rfl rfl

/-- A write to memory. -/
theorem State.write_keeps (s : State) (a : Nat) (w : Word) (n : Nat) :
    s.Keeps { s with mem := Memory.writeBytes s.mem a w n } :=
  .of_frame rfl (fun h => Memory.writeBytes_wf h _ _ _) rfl rfl fun _ => rfl

theorem Run.awaitImages_keeps (r : Run) (t : Tag) (a : Ack) : r.st.Keeps (r.awaitImages t a) :=
  r.queued_keeps.trans (.of_same rfl rfl rfl rfl rfl)

theorem State.dispatch_keeps (s : State) (c : Cycle) (f : Fate) : s.Keeps (s.dispatch c f) := by
  cases f with
  | pass => exact .of_same rfl rfl rfl rfl rfl
  | boardRead b word =>
    show s.Keeps (s.readBoard c b word)
    unfold State.readBoard
    split <;> exact .of_same rfl rfl rfl rfl rfl
  | held cls =>
    show s.Keeps (s.hold c cls)
    unfold State.hold
    refine State.Keeps.trans ?_ (State.takeNext_keeps _)
    exact .of_same rfl rfl rfl rfl rfl
  | refused cause => exact (Run.refusal_keeps (Run.start s []) _).trans (Run.awaitImages_keeps _ _ _)
  | guarded => exact (Run.guardRefusal_keeps (Run.start s []) _).trans (Run.awaitImages_keeps _ _ _)
  | plain a => exact .of_same rfl rfl rfl rfl rfl

theorem State.takeCycle_keeps (s : State) (c : Cycle) : s.Keeps (s.takeCycle c) := by
  unfold State.takeCycle
  refine State.Keeps.trans ?_ (State.dispatch_keeps _ _ _)
  exact .of_same rfl rfl rfl rfl rfl

theorem State.visit_keeps (s : State) : s.Keeps s.visit := by
  unfold State.visit
  split
  · exact .refl s
  · exact .refl s
  · split
    · split
      · exact s.setJob_keeps _
      · split
        · split
          · exact (s.setLine_keeps _ _).trans (State.setJob_keeps _ _)
          · unfold State.visitClean
            split
            · exact (s.invalidate_keeps _).trans (State.setJob_keeps _ _)
            · exact s.setJob_keeps _
            · exact s.setJob_keeps _
        · exact s.setJob_keeps _
    · exact .refl s

theorem State.scan_keeps (s : State) (n : Nat) : s.Keeps (s.scan n) := by
  induction n generalizing s with
  | zero => exact .refl s
  | succ n ih => exact s.visit_keeps.trans (ih _)

theorem State.unmark_keeps (s : State) (job : Job) (i : Fin 64) (failed : Bool) :
    s.Keeps (s.unmark job i failed) := by
  unfold State.unmark
  split
  · exact .refl s
  · split
    · split
      · exact s.invalidate_keeps _
      · exact s.setLine_keeps _ _
      · exact s.setLine_keeps _ _
    · exact .refl s

theorem State.endWriteBack_keeps (s : State) (j : RunningJob) (failed : Bool) :
    s.Keeps (s.endWriteBack j failed) := by
  unfold State.endWriteBack
  simp only
  refine State.Keeps.trans ?_ (State.setJob_keeps _ _)
  split
  · exact .refl s
  · exact s.unmark_keeps _ _ _

theorem State.takeRecord_keeps (s : State) (j : RunningJob) (n : Nest) (d : Descriptor)
    (w : BoardWords) : s.Keeps (s.takeRecord j n d w) := by
  unfold State.takeRecord
  split
  · simp only
    split <;> exact s.setJob_keeps _
  · exact s.setJob_keeps _

theorem State.loadCycle_keeps (s : State) (j : RunningJob) (n : Nest) (d : Descriptor)
    (hard : Bool) : s.Keeps (s.loadCycle j n d hard) := by
  unfold State.loadCycle
  simp only
  split
  · split
    · exact s.setJob_keeps _
    · unfold State.takeType
      exact (s.withNest_keeps _ _).trans (State.setJob_keeps _ _)
  · split
    · exact s.setJob_keeps _
    · split
      · exact s.setJob_keeps _
      · exact s.takeRecord_keeps _ _ _ _
  · split
    · exact s.setJob_keeps _
    · split <;> exact (s.write_keeps _ _ _).trans (State.setJob_keeps _ _)
  all_goals exact .refl s

theorem State.flushCycle_keeps (s : State) (j : RunningJob) (hard : Bool) :
    s.Keeps (s.flushCycle j hard) := by
  unfold State.flushCycle
  split
  · split
    · exact s.endWriteBack_keeps _ _
    · simp only
      split
      · exact (s.write_keeps _ _ _).trans (State.setJob_keeps _ _)
      · exact (s.write_keeps _ _ _).trans (State.endWriteBack_keeps _ _ _)
  all_goals exact .refl s

theorem State.grantWalker_keeps (s : State) (hard : Bool) : s.Keeps (s.grantWalker hard) := by
  unfold State.grantWalker
  split
  · exact .refl s
  · exact .refl s
  · next j _ =>
    have h : s.Keeps (match j.job with
      | .load n d => s.loadCycle j n d hard
      | .sync _ | .release _ => s.flushCycle j hard) := by
      split
      · exact s.loadCycle_keeps _ _ _ _
      · exact s.flushCycle_keeps _ _
      · exact s.flushCycle_keeps _ _
    simp only
    split
    · exact h.trans (State.raise_keeps _ trivial)
    · exact h

theorem State.startJob_keeps (s : State) : s.Keeps s.startJob := by
  unfold State.startJob; split
  · exact .of_same rfl rfl rfl rfl rfl
  · exact .refl s

theorem State.present_keeps {s u : State} (h : s.Keeps u) (w : Walker) :
    s.Keeps (State.takeNext { u with walker := w }) := by
  refine State.Keeps.trans ?_ (State.takeNext_keeps _)
  exact h.trans (.of_same rfl rfl rfl rfl rfl)

theorem State.endLoadJob_keeps (s : State) : s.Keeps s.endLoadJob := by
  unfold State.endLoadJob
  split
  · split
    · split
      · exact .of_same rfl rfl rfl rfl rfl
      · exact State.present_keeps (.refl s) _
    · exact .refl s
  · exact .refl s
  · exact .refl s

theorem State.endSyncJob_keeps (s : State) : s.Keeps s.endSyncJob := by
  have h := s.scan_keeps 64
  unfold State.endSyncJob
  generalize s.scan 64 = u at h
  split
  · split
    · split
      · exact State.present_keeps h _
      · exact .refl s
    · exact .refl s
    · exact .refl s
  · exact .refl s
  · exact .refl s

theorem State.endReleaseJob_keeps (s : State) : s.Keeps s.endReleaseJob := by
  have h := s.scan_keeps 64
  unfold State.endReleaseJob
  generalize s.scan 64 = u at h
  split
  · split
    · split
      · exact State.present_keeps h _
      · exact .refl s
    · exact .refl s
    · exact .refl s
  · exact .refl s
  · exact .refl s

theorem State.endJob_keeps (s : State) : s.Keeps s.endJob :=
  (s.endLoadJob_keeps.trans (State.endSyncJob_keeps _)).trans (State.endReleaseJob_keeps _)

theorem State.grantPass_keeps (s : State) (hard : Bool) : s.Keeps (s.grantPass hard) := by
  unfold State.grantPass
  split
  · exact .refl s
  · split
    · exact .refl s
    · next c _ =>
      simp only
      split
      · exact .of_same rfl rfl rfl rfl rfl
      · refine .of_frame rfl (fun h => ?_) rfl rfl fun _ => rfl
        show Memory.wf (cycleEffect c s.mem)
        unfold cycleEffect
        split
        · exact h
        · exact Memory.writeBytes_wf h _ _ _

theorem State.completeWaits_keeps (s : State) (id : ImageId) : s.Keeps (s.completeWaits id) := by
  have h : ∀ (l : List Wait) (u : State),
      u.Keeps (l.foldl (fun s w => s.acknowledge w.tag w.ack none) u) := by
    intro l
    induction l with
    | nil => exact fun u => .refl u
    | cons w l ih => exact fun u => (u.acknowledge_keeps _ _ _).trans (ih _)
  unfold State.completeWaits
  simp only
  refine State.Keeps.trans ?_ (h _ _)
  exact .of_same rfl rfl rfl rfl rfl

theorem State.completeEngine_keeps (s : State) (id : ImageId) : s.Keeps (s.completeEngine id) := by
  unfold State.completeEngine
  split
  · exact .refl s
  · exact .refl s
  · simp only
    split
    · refine State.Keeps.trans ?_ (State.takeNext_keeps _)
      exact .of_same rfl rfl rfl rfl rfl
    · exact .of_same rfl rfl rfl rfl rfl

theorem State.publish_keeps (s : State) (id : ImageId) : s.Keeps (s.publish id) := by
  unfold State.publish; split
  · exact .of_same rfl rfl rfl rfl rfl
  · exact .refl s

theorem State.grantImage_keeps (s : State) (hard : Bool) : s.Keeps (s.grantImage hard) := by
  unfold State.grantImage
  split
  · exact .refl s
  · next id rest hi =>
    have h : ∀ u : State, s.Keeps u → s.Keeps (((u.publish id).completeWaits id).completeEngine id) :=
      fun u k => ((k.trans (State.publish_keeps _ _)).trans (State.completeWaits_keeps _ _)).trans
        (State.completeEngine_keeps _ _)
    have base : ∀ m, (MemoryCanonical s → Memory.wf m) →
        s.Keeps { s with images := rest, mem := m, portLast := .image } := by
      intro m hm
      refine ⟨rfl, hm, fun k => k, fun k ho => ?_, fun _ _ e => e⟩
      exact absurd ((k ho).1.symm.trans hi) (by simp)
    cases hard
    · exact h _ (base _ fun k => Memory.writeWords_wf k _ _)
    · exact (h _ (base _ fun k => k)).trans (State.raise_keeps _ (f := .memory) trivial)

theorem State.grant_keeps (s : State) (hard : Bool) (src : Option PortSource) :
    s.Keeps (s.grant hard src) := by
  unfold State.grant
  split
  · exact .refl s
  · exact s.grantPass_keeps hard
  · exact .refl s
  · refine State.Keeps.trans ?_ (State.grantWalker_keeps _ hard)
    exact .of_same rfl rfl rfl rfl rfl
  · exact s.grantImage_keeps hard

theorem State.portCycle_keeps (s : State) (engine : Bool) (visits : Nat) (hard : Bool) :
    s.Keeps (s.portCycle engine visits hard) := (s.scan_keeps visits).trans (State.grant_keeps _ _ _)

theorem State.meanwhile_keeps (e : EngineCycle) (s : State) (m : Meanwhile) :
    s.Keeps (s.meanwhile e m) := by
  cases m with
  | timebase => exact s.tick_keeps
  | arrival c =>
    show s.Keeps (if s.masters.get c.tag = .waiting then s else s.takeCycle c)
    split
    · exact .refl s
    · exact s.takeCycle_keeps c
  | portCycle visits hard =>
    cases e with
    | quiet => exact s.portCycle_keeps false visits hard
    | presented => exact s.portCycle_keeps true visits hard
    | inFlight => exact s.scan_keeps visits
  | jobStart => exact s.startJob_keeps
  | jobEnd => exact s.endJob_keeps

theorem State.foldl_meanwhile_keeps (e : EngineCycle) (l : List Meanwhile) (s : State) :
    s.Keeps (l.foldl (State.meanwhile e) s) := by
  induction l generalizing s with
  | nil => exact .refl s
  | cons m l ih => exact (s.meanwhile_keeps e m).trans (ih _)

theorem State.yieldPort_keeps (s : State) (n : Nat) : s.Keeps (s.yieldPort n) := by
  induction n generalizing s with
  | zero => exact .refl s
  | succ n ih =>
    unfold State.yieldPort
    split
    · exact .refl s
    · exact .refl s
    · exact (s.grant_keeps _ _).trans (ih _)

theorem State.portLast_keeps (s : State) (p : PortSource) : s.Keeps { s with portLast := p } :=
  .of_same rfl rfl rfl rfl rfl

/-- While the Engine waits for one of its cycles. -/
theorem State.await_keeps (s : State) (a : MemAnswer) : s.Keeps (s.await a) := by
  unfold State.await
  exact ((((s.foldl_meanwhile_keeps _ _).trans (State.foldl_meanwhile_keeps _ _ _)).trans
    (State.yieldPort_keeps _ _)).trans (State.portLast_keeps _ _)).trans
      (State.foldl_meanwhile_keeps _ _ _)

/-! ### The Engine's cycles -/

theorem Run.cycle_keeps (r : Run) : r.st.Keeps r.cycle.2.st := r.st.await_keeps _

theorem Run.read_keeps (r : Run) (a : Nat) : r.st.Keeps (r.read a).2.st := by
  unfold Run.read
  split
  · exact r.cycle_keeps.trans (Run.raise_keeps _ trivial)
  · exact r.cycle_keeps

theorem Run.write_keeps (r : Run) (a : Nat) (w : Word) : r.st.Keeps (r.write a w).2.st := by
  unfold Run.write
  split
  · exact r.cycle_keeps.trans (Run.raise_keeps _ trivial)
  · exact r.cycle_keeps.trans (Run.modify_keeps _
      (.of_frame rfl (fun h => Memory.writeBytes_wf h _ _ _) rfl rfl fun _ => rfl))

theorem Run.reads_keeps (r : Run) (a n : Nat) : r.st.Keeps (r.reads a n).2.st := by
  induction n generalizing r a with
  | zero => exact .refl _
  | succ n ih =>
    have h := r.read_keeps a
    unfold Run.reads
    split
    · next e => rw [e] at h; exact h
    · next w r' e =>
      rw [e] at h
      have k := ih r' (a + 8)
      split
      · next e' => rw [e'] at k; exact h.trans k
      · next e' => rw [e'] at k; exact h.trans k

theorem Run.writes_keeps (r : Run) (ws : List (Nat × Word)) : r.st.Keeps (r.writes ws).2.st := by
  induction ws generalizing r with
  | nil => exact .refl _
  | cons p ws ih =>
    have h := r.write_keeps p.1 p.2
    unfold Run.writes
    split
    · next e => rw [e] at h; exact h
    · next r' e => rw [e] at h; exact h.trans (ih r')

/-- A request that goes on with the words it read keeps what its continuation keeps. -/
theorem Run.reading_keeps (r : Run) (a n : Nat) {k : List Word → Run → Ack × Run}
    (hk : ∀ ws (r' : Run), r'.st.Keeps (k ws r').2.st) : r.st.Keeps (r.reading a n k).2.st := by
  have h := r.reads_keeps a n
  unfold Run.reading
  split
  · next e => rw [e] at h; exact h
  · next ws r' e => rw [e] at h; exact h.trans (hk ws r')

/-- A request that goes on after its writes keeps what its continuation keeps. -/
theorem Run.writing_keeps (r : Run) (ws : List (Nat × Word)) {k : Run → Ack × Run}
    (hk : ∀ r' : Run, r'.st.Keeps (k r').2.st) : r.st.Keeps (r.writing ws k).2.st := by
  have h := r.writes_keeps ws
  unfold Run.writing
  split
  · next e => rw [e] at h; exact h
  · next r' e => rw [e] at h; exact h.trans (hk r')

end Sys2Proof.Machine
end

