-- ==== Sys2Proof/Laws/Change.lean ====
section
/-! SUPPORT. What every shared operation of a request keeps (`State.Keeps`), whatever it does besides.
One lemma for each operation, to be cited in place of its definition. -/

namespace Sys2Proof.Machine

/-! ### The Stacking Map -/

theorem Run.setSlots_keeps (r : Run) (i : Fin 8) (f : List SlotState → List SlotState) :
    r.st.Keeps (r.setSlots i f).st := by
  unfold Run.setSlots
  simp only
  split
  · exact (r.setStation_keeps _ _).trans (Run.raise_keeps _ trivial)
  · exact r.setStation_keeps _ _

theorem Run.announce_keeps (r : Run) (i : Fin 16) (l : Lane) : r.st.Keeps (r.announce i l).st := by
  unfold Run.announce; split
  · exact (r.setLane_keeps _ _).trans (Run.raise_keeps _ trivial)
  · exact r.setLane_keeps _ _

theorem Run.reevaluateLane_keeps (r : Run) (i : Fin 16) : r.st.Keeps (r.reevaluateLane i).st := by
  unfold Run.reevaluateLane
  simp only
  split
  · exact .refl _
  · split
    · exact (r.setLane_keeps _ _).trans (Run.raise_keeps _ trivial)
    · exact r.announce_keeps _ _

theorem Run.reevaluate_keeps (r : Run) : r.st.Keeps r.reevaluate.st :=
  .foldl (fun r i => r.reevaluateLane_keeps i) _ r

theorem Run.setPending_keeps (r : Run) (i : Fin 16) (n : Nat) : r.st.Keeps (r.setPending i n).st :=
  r.announce_keeps _ _

theorem Run.pairEnded_keeps (r : Run) (i : Fin 16) : r.st.Keeps (r.pairEnded i).st :=
  r.setPending_keeps _ _

theorem Run.takeSelection_keeps (r : Run) (sel : Selection) : r.st.Keeps (r.takeSelection sel).st :=
  (r.setLane_keeps _ _).trans (Run.setSlots_keeps _ _ _)

/-! ### The Board Cache -/

theorem Run.evict_keeps (r : Run) (i : Fin 64) : r.st.Keeps (r.evict i).2.st := by
  unfold Run.evict
  split
  · exact .refl _
  · next l _ =>
    have h := r.writes_keeps (if l.dirty then l.words.writeBack (r.st.boardAddr l.board) else [])
    split
    · next e => rw [e] at h; exact h
    · next r' e => rw [e] at h; exact h.trans (r'.modify_keeps (State.invalidate_keeps _ _))

theorem Run.fill_keeps (r : Run) (b : BoardRef) : r.st.Keeps (r.fill b).2.st := by
  unfold Run.fill
  split
  · exact .refl _
  · next i _ =>
    have h := r.evict_keeps i
    split
    · next e => rw [e] at h; exact h
    · next r' e =>
      rw [e] at h
      have k := r'.reads_keeps (r'.st.boardAddr b) 4
      split
      · next e' => rw [e'] at k; exact h.trans k
      · next r'' e' =>
        rw [e'] at k
        exact (h.trans k).trans (r''.modify_keeps
          ((State.setLine_keeps _ _ _).trans (State.touch_keeps _ _)))

theorem Run.lookup_keeps (r : Run) (b : BoardRef) : r.st.Keeps (r.lookup b).2.st := by
  unfold Run.lookup
  split
  · split
    · exact r.modify_keeps (State.touch_keeps _ _)
    · exact .refl _
  · split
    · exact r.fill_keeps b
    · exact .refl _

theorem State.redirty_keeps (s : State) : s.Keeps s.redirty := by
  unfold State.redirty; split <;> exact .of_same rfl rfl rfl rfl rfl

theorem Run.changeBoard_keeps (r : Run) (b : BoardRef) (f : BoardHw → BoardHw) :
    r.st.Keeps (r.changeBoard b f).st := by
  unfold Run.changeBoard
  split
  · exact .refl _
  · split
    · exact .refl _
    · simp only
      split
      · exact .refl _
      · refine State.Keeps.trans ?_ (Run.setNest_keeps _ _ _)
        have h : ∀ u : Fin 64 × CacheLine, r.st.Keeps ((r.st.setLine u.1 (some u.2)).touch u.1) := fun u =>
          (State.setLine_keeps _ _ _).trans (State.touch_keeps _ _)
        split
        · exact State.Keeps.trans (h (_, _)) (State.redirty_keeps _)
        · exact h (_, _)

/-! ### The nests and the Open Command Table -/

theorem Run.reclaim_keeps (r : Run) (n : Nest) : r.st.Keeps (r.reclaim n).st := r.setNest_keeps _ _

theorem Run.boardEnded_keeps (r : Run) (n : Nest) : r.st.Keeps (r.boardEnded n).st := by
  unfold Run.boardEnded
  simp only
  split
  · split
    · exact (r.setNest_keeps _ _).trans (Run.raise_keeps _ trivial)
    · exact r.setNest_keeps _ _
  · exact .refl _

theorem Run.drainTest_keeps (r : Run) (n : Nest) : r.st.Keeps (r.drainTest n).st := by
  unfold Run.drainTest
  simp only
  split
  · exact (r.setNest_keeps _ _).trans (Run.raise_keeps _ trivial)
  · exact .refl _

theorem Run.openEntry_keeps (r : Run) (i : Fin 32) (e : Entry) (limit : Nat) :
    r.st.Keeps (r.openEntry i e limit).st :=
  State.Keeps.trans (r.modify_keeps (.of_same rfl rfl rfl rfl rfl)) (Run.setEntry_keeps _ _ _)

theorem Run.markExpired_keeps (r : Run) (i : Fin 32) (e : Entry) (cause : ExpiryCause) :
    r.st.Keeps (r.markExpired i e cause).st :=
  State.Keeps.trans (r.modify_keeps (.of_same rfl rfl rfl rfl rfl)) (Run.setEntry_keeps _ _ _)

theorem Run.suspectCup_keeps (r : Run) (c : Option (Fin 4)) : r.st.Keeps (r.suspectCup c).st := by
  unfold Run.suspectCup; split
  · exact .refl _
  · exact r.setCup_keeps _ _

theorem Run.keepEvent_keeps (r : Run) (ev : Event) : r.st.Keeps (r.keepEvent ev).st := .refl _

theorem Run.expireSingle_keeps (r : Run) (i : Fin 32) (e : Entry) (cause : ExpiryCause) :
    r.st.Keeps (r.expireSingle i e cause).st :=
  ((((r.markExpired_keeps i e cause).trans (Run.suspectCup_keeps _ _)).trans
    (Run.changeBoard_keeps _ _ _)).trans (Run.image_keeps _ _)).trans
      (Run.raise_keeps _ (f := .uncertain) trivial)

theorem Run.expirePair_keeps (r : Run) (i : Fin 32) (e : Entry) (cause : ExpiryCause) :
    r.st.Keeps (r.expirePair i e cause).st := by
  unfold Run.expirePair
  simp only
  refine State.Keeps.trans ?_ (Run.keepEvent_keeps _ _)
  refine State.Keeps.trans ?_ (Run.raise_keeps _ trivial)
  have h2 : ∀ r' : Run, r'.st.Keeps (match e.dest with
      | none => r'
      | some d => (if r'.st.inPlace d = true
          then r'.setSlots d.station fun slots => slots.set d.slot .suspect else r').pairEnded
            d.lane).st := by
    intro r'
    split
    · exact .refl _
    · refine State.Keeps.trans ?_ (Run.pairEnded_keeps _ _)
      split
      · exact r'.setSlots_keeps _ _
      · exact .refl _
  refine State.Keeps.trans ?_ (h2 _)
  refine State.Keeps.trans ?_ (Run.image_keeps _ _)
  refine State.Keeps.trans ?_ (Run.changeBoard_keeps _ _ _)
  refine State.Keeps.trans ?_ (Run.suspectCup_keeps _ _)
  split
  · exact r.markExpired_keeps i e cause
  · exact (r.markExpired_keeps i e cause).trans (Run.markExpired_keeps _ _ _ _)

theorem Run.expire_keeps (r : Run) (i : Fin 32) (cause : ExpiryCause) :
    r.st.Keeps (r.expire i cause).st := by
  unfold Run.expire
  split
  · exact .refl _
  · split
    · exact r.expirePair_keeps _ _ _
    · exact r.expireSingle_keeps _ _ _

theorem Run.skip_keeps (r : Run) (ring : CmdRing) (i : Fin 32) : r.st.Keeps (r.skip ring i).st :=
  .foldl (fun r j => r.expire_keeps j .skipped) _ r

theorem Run.freeEntry_keeps (r : Run) (i : Fin 32) : r.st.Keeps (r.freeEntry i).st := by
  unfold Run.freeEntry
  split
  · exact .refl _
  · simp only
    refine State.Keeps.trans ?_ (Run.setEntry_keeps _ _ _)
    split <;> exact .of_same rfl rfl rfl rfl rfl

theorem Run.removeEntries_keeps (r : Run) (ids : List (Fin 32)) :
    r.st.Keeps (r.removeEntries ids).st :=
  (State.Keeps.foldl (fun r i => r.freeEntry_keeps i) ids r).trans
    (State.Keeps.foldl (fun r n => r.reclaim_keeps n) _ _)

theorem Run.dropReferences_keeps (r : Run) (b : BoardRef) (but : Option (Fin 4)) :
    r.st.Keeps (r.dropReferences b but).st := by
  refine .foldl (fun r c => ?_) _ r
  simp only
  split
  · exact r.setCup_keeps _ _
  · exact .refl _

theorem Run.giveCup_keeps (r : Run) (c : Fin 4) (cup : Cup) (b : BoardRef) :
    r.st.Keeps (r.giveCup c cup b).st :=
  (r.setCup_keeps c cup).trans (Run.dropReferences_keeps _ _ _)

/-! ### The end of a request -/

theorem Run.settleLanes_keeps (r : Run) : r.st.Keeps r.settleLanes.st := by
  have h := r.reevaluate_keeps
  unfold Run.settleLanes
  generalize r.reevaluate = r' at h ⊢
  split
  · exact h
  · exact .refl _

theorem Run.emptySlots_keeps (r : Run) : r.st.Keeps r.emptySlots.st :=
  .foldl (fun r _ => r.write_keeps _ _) _ { r with empties := [] }

theorem Run.handEvents_keeps (r : Run) : r.st.Keeps r.handEvents.st :=
  .foldl (fun r ev => r.noteEvent_keeps ev) _ { r with events := [] }

theorem Run.conclude_keeps (r : Run) : r.st.Keeps r.conclude.st :=
  ((r.settleLanes_keeps.trans (Run.emptySlots_keeps _)).trans (Run.handEvents_keeps _)).trans
    (Run.queued_keeps _)

theorem Run.finishHeld_keeps (r : Run) (t : Tag) (a : Ack) : r.st.Keeps (r.finishHeld t a) := by
  unfold Run.finishHeld
  simp only
  split
  · refine State.Keeps.trans ?_ (State.takeNext_keeps _)
    exact .of_same rfl rfl rfl rfl rfl
  · exact .of_same rfl rfl rfl rfl rfl

theorem Run.finishInternal_keeps (r : Run) : r.st.Keeps r.finishInternal := by
  unfold Run.finishInternal
  refine State.Keeps.trans ?_ (State.takeNext_keeps _)
  exact .of_same rfl rfl rfl rfl rfl

/-- A step of the Engine on a held write keeps what the request's own work keeps. -/
theorem heldStep_keeps {isDue : Request → Bool} {serve : Tag → Request → Run → Ack × Run}
    {answers : List MemAnswer} {s t : State}
    (hk : ∀ tag q (r : Run), s.heldInHand = some (tag, q) → isDue q = true → r.st = s →
      r.st.Keeps (serve tag q r).2.st)
    (h : heldStep isDue serve answers s = .next t) : s.Keeps t := by
  unfold heldStep at h
  split at h
  · cases h; exact .refl _
  · next tag q hq =>
    split at h
    · next hd =>
      cases h
      exact ((hk tag q (Run.start s answers) hq hd rfl).trans (Run.conclude_keeps _)).trans
        (Run.finishHeld_keeps _ _ _)
    · cases h; exact .refl _

/-- A step of the Engine on the expiry or walker position keeps what its work keeps. -/
theorem internalStep_keeps {p : Fin 18} {serve : Run → Option Run} {s t : State}
    (hk : ∀ r r' : Run, r.st = s → serve r = some r' → r.st.Keeps r'.st)
    (h : internalStep p serve s = .next t) : s.Keeps t := by
  unfold internalStep at h
  split at h
  · split at h
    · cases h; exact .refl _
    · next r hr =>
      cases h
      exact ((hk (Run.start s []) r rfl hr).trans (Run.conclude_keeps _)).trans
        (Run.finishInternal_keeps _)
  · cases h; exact .refl _

/-! ### The posts and the reports -/

theorem refusePost_keeps (t : Tag) (q : Request) (cause : Cause) (refs : Refs) (r : Run) :
    r.st.Keeps (refusePost t q cause refs r).2.st := by
  refine r.writing_keeps _ fun r' => ?_
  split
  · exact .refl _
  · exact r'.refusal_keeps _

/-- A post keeps what its judgement and its grant keep. -/
theorem servePost_keeps {α : Type} (ring : CmdRing) {judge : Word → Run → Judged α × Run}
    {grant : Request → α → Run → Ack × Run} (t : Tag) (q : Request) (r : Run)
    (hj : ∀ w (r' : Run), r'.st.Keeps (judge w r').2.st) (hg : ∀ x (r' : Run), r'.st.Keeps (grant q x r').2.st) :
    r.st.Keeps (servePost ring judge grant t q r).2.st := by
  refine r.reading_keeps _ _ fun ws r' => ?_
  split
  · exact refusePost_keeps _ _ _ _ _
  · have h := hj (wordAt ws 0) r'
    split
    · next e => rw [e] at h; exact h.trans (refusePost_keeps _ _ _ _ _)
    · next e => rw [e] at h; exact h
    · next e => rw [e] at h; exact h.trans (hg _ _)

/-- A judgement that fetches a board keeps what it keeps with the record. -/
theorem fetch_keeps {α : Type} (b : BoardRef) (refs : Refs)
    {judge : CacheLine → Run → Judged α × Run} (r : Run)
    (hj : ∀ l (r' : Run), r'.st.Keeps (judge l r').2.st) : r.st.Keeps (fetch b refs judge r).2.st := by
  have h := r.lookup_keeps b
  unfold fetch
  split
  · next e => rw [e] at h; exact h.trans (hj _ _)
  · next e => rw [e] at h; exact h
  · next e => rw [e] at h; exact h

theorem Run.advance_keeps (r : Run) (ring : CmdRing) : r.st.Keeps (r.advance ring).st :=
  r.setCursors_keeps _

theorem grantTrial_keeps (ring : CmdRing) (translation : List (Nat × Word))
    (dest : Option (Fin 8 × Nat)) (q : Request) (r : Run) :
    r.st.Keeps (grantTrial ring translation dest q r).2.st :=
  r.writing_keeps _ fun r' => r'.advance_keeps ring

/-- A report keeps what its outcome keeps. -/
theorem serveReport_keeps {α : Type} {judge : Word → State → Verdict × α}
    {apply : Tag → Request → Word → α → Run → Run} (t : Tag) (q : Request) (r : Run)
    (ha : ∀ w x (r' : Run), r'.st.Keeps (apply t q w x r').st) :
    r.st.Keeps (serveReport judge apply t q r).2.st :=
  r.reading_keeps _ _ fun _ r' => r'.writing_keeps _ fun r'' => ha _ _ r''

theorem Run.removeMatched_keeps (r : Run) (i : Fin 32) (e : Entry) :
    r.st.Keeps (r.removeMatched i e).st :=
  (r.removeEntries_keeps _).trans (Run.drainTest_keeps _ _)

/-- A matched report keeps what the outcome of its kind keeps. -/
theorem applyMatch_keeps {outcome : Word → Request → Fin 32 → Entry → Run → Run} (t : Tag) (q : Request)
    (w1 : Word) (m : Match) (r : Run) (ho : ∀ i e (r' : Run), r'.st.Keeps (outcome w1 q i e r').st) :
    r.st.Keeps (applyMatch outcome t q w1 m r).st := by
  unfold applyMatch
  split
  · exact .refl _
  · split
    · exact .refl _
    · exact (r.keepEvent_keeps _).trans (Run.removeMatched_keeps _ _ _)
  · exact (r.keepEvent_keeps _).trans (Run.expire_keeps _ _ _)
  · split
    · exact .refl _
    · exact (r.skip_keeps _ _).trans (ho _ _ _)

end Sys2Proof.Machine
end

