-- ==== Sys2Proof/Laws/Effects.lean ====
section
/-! SUPPORT. What the changes of a request in GUARDED mode make of the state and of the images: `Made`
says that a run stands at a given state, and which images it has collected. One lemma for each
primitive change. -/

namespace Sys2Proof.Machine

/-- The run stands at `u` and has collected the images of `ids`. -/
structure Run.Made (r : Run) (u : State) (ids : List ImageId) : Prop where
  shape   : r.st = u
  images  : ∀ id, id ∈ r.images ↔ id ∈ ids
  guarded : u.mode = .guarded

namespace Run.Made

variable {r : Run} {u : State} {ids : List ImageId}

theorem st_guarded (h : r.Made u ids) : r.st.guarded = true := by
  rw [h.shape]; simp [State.guarded, h.guarded]

/-- A run that has collected nothing. -/
theorem start {r : Run} (hg : r.st.mode = .guarded) (hi : r.images = []) : r.Made r.st [] where
  shape := rfl
  images := by simp [hi]
  guarded := hg

/-- Only the membership of the collected images counts. -/
theorem congr (h : r.Made u ids) {ids' : List ImageId} (hc : ∀ id, id ∈ ids ↔ id ∈ ids') :
    r.Made u ids' where
  shape := h.shape
  images id := (h.images id).trans (hc id)
  guarded := h.guarded

/-- The state may be put in another form. -/
theorem at_state (h : r.Made u ids) {u' : State} (he : u = u') : r.Made u' ids := he ▸ h

/-- What is left for the end of the request does not count. -/
theorem rest (h : r.Made u ids) {r' : Run} (hs : r'.st = r.st) (hi : r'.images = r.images) :
    r'.Made u ids where
  shape := by rw [hs]; exact h.shape
  images id := by rw [hi]; exact h.images id
  guarded := h.guarded

theorem touchLanes (h : r.Made u ids) : r.touchLanes.Made u ids := h.rest rfl rfl

/-- An image is collected. -/
theorem image (h : r.Made u ids) (id : ImageId) : (r.image id).Made u (ids ++ [id]) where
  shape := by rw [Run.image_st]; exact h.shape
  images x := by
    rw [Run.mem_image, h.images, h.st_guarded]
    simp
  guarded := h.guarded

/-- A change of the state that no image shows. -/
theorem modify (h : r.Made u ids) {f : State → State} (hg : (f u).mode = .guarded) :
    (r.modify f).Made (f u) ids where
  shape := by rw [Run.modify_st, h.shape]
  images id := h.images id
  guarded := hg

/-- The image that a change collects, if it is one. -/
theorem changed (h : r.Made u ids) {p : Prop} [Decidable p] {f : State → State} {id : ImageId}
    (hg : (f u).mode = .guarded) (hn : p → f u = u) :
    (if p then r else (r.modify f).image id).Made (f u) (ids ++ if p then [] else [id]) := by
  by_cases hp : p
  · simp only [hp, if_true, List.append_nil]
    exact h.at_state (hn hp).symm
  · simp only [hp, if_false]
    exact (h.modify hg).image id

theorem setCup (h : r.Made u ids) (i : Fin 4) (c : Cup) :
    (r.setCup i c).Made { u with cups := u.cups.set i c }
      (ids ++ if u.cups.get i = c then [] else [.cup i]) := by
  unfold Run.setCup
  rw [h.shape]
  exact h.changed h.guarded (fun e => by rw [← e, Table.set_get_self])

theorem setLane (h : r.Made u ids) (i : Fin 16) (l : Lane) :
    (r.setLane i l).Made { u with lanes := u.lanes.set i l }
      (ids ++ if u.lanes.get i = l then [] else [.lane i]) := by
  unfold Run.setLane
  rw [h.shape]
  exact h.changed h.guarded (fun e => by rw [← e, Table.set_get_self])

theorem setStation (h : r.Made u ids) (i : Fin 8) (st : Station) :
    (r.setStation i st).Made { u with stations := u.stations.set i st }
      (ids ++ if u.stations.get i = st then [] else [.station i]) := by
  unfold Run.setStation
  rw [h.shape]
  by_cases hp : u.stations.get i = st
  · rw [if_pos hp, if_pos hp]
    have e : u = { u with stations := u.stations.set i st } := by rw [← hp, Table.set_get_self]
    simpa using h.at_state e
  · rw [if_neg hp, if_neg hp]
    exact ((h.modify (f := fun s => { s with stations := s.stations.set i st })
      h.guarded).image (.station i)).touchLanes

theorem setNest (h : r.Made u ids) (n : Nest) (c : NestContext) :
    (r.setNest n c).Made (u.withNest n c) (ids ++ if u.nest n = c then [] else [.nest n]) := by
  unfold Run.setNest
  rw [h.shape]
  refine h.changed (f := fun s => s.withNest n c) (by cases n <;> exact h.guarded) (fun e => ?_)
  rw [← e]
  cases n <;> rfl

theorem setEntry (h : r.Made u ids) (i : Fin 32) (e : Option Entry) :
    (r.setEntry i e).Made { u with entries := u.entries.set i e } (ids ++ [.entry i]) :=
  (h.modify (f := fun s => { s with entries := s.entries.set i e }) h.guarded).image _

theorem setCursors (h : r.Made u ids) (c : Cursors) :
    (r.setCursors c).Made { u with cursors := c }
      (ids ++ if u.cursors = c then [] else [.status]) := by
  unfold Run.setCursors
  rw [h.shape]
  exact h.changed (f := fun s => { s with cursors := c }) h.guarded (fun e => by rw [← e])

/-- A flag is raised: it is set, and the status block is collected if it was clear. -/
theorem raise (h : r.Made u ids) (f : Flag) :
    (r.raise f).Made { u with flags := u.flags ||| f.bits }
      (ids ++ if u.flag f = true then [] else [.status]) := by
  have hg := h.st_guarded
  refine ⟨?_, fun x => ?_, h.guarded⟩
  · rw [Run.raise_st hg, h.shape]
  · rw [Run.mem_raise hg, h.images, h.shape]
    by_cases hf : u.flag f = true <;> simp [hf]

/-- The end of a held write whose images are to come, once they are queued. -/
theorem finish (h : r.Made u ids) (hn : ids ≠ []) (t : Tag) (a : Ack) :
    r.queueImages.finishHeld t a = { u with
      images := r.queued.images
      requests := u.requests.set t none
      engine := .finishing ⟨t, a, r.images⟩ } := by
  have hi : r.queueImages.images ≠ [] := by
    obtain ⟨x, hx⟩ := List.exists_mem_of_ne_nil ids hn
    intro he
    have hm := (h.images x).2 hx
    rw [show r.images = [] from he] at hm
    cases hm
  rw [Run.finishHeld_waits hi]
  have hq : r.queueImages.st = { u with images := r.queued.images } := by
    show r.queued = _
    rw [Run.queued_eq, h.shape]
  rw [hq]
  rfl

/-- The queue after the images are queued. -/
theorem queue (h : r.Made u ids) (x : ImageId) :
    x ∈ r.queued.images ↔ x ∈ u.images ∨ x ∈ ids := by
  rw [Run.mem_queued h.st_guarded, h.shape, h.images]

end Run.Made

/-! ### What the changes leave of the rest of a run -/

theorem Run.modify_image_rest (r : Run) (f : State → State) (id : ImageId) :
    r.SameRest ((r.modify f).image id) := ⟨by simp, by simp, by simp⟩

theorem Run.setCup_rest (r : Run) (i : Fin 4) (c : Cup) : r.SameRest (r.setCup i c) := by
  unfold Run.setCup; split
  · exact .refl r
  · exact Run.modify_image_rest r _ _

theorem Run.setLane_rest (r : Run) (i : Fin 16) (l : Lane) : r.SameRest (r.setLane i l) := by
  unfold Run.setLane; split
  · exact .refl r
  · exact Run.modify_image_rest r _ _

theorem Run.setStation_rest (r : Run) (i : Fin 8) (st : Station) : r.SameRest (r.setStation i st) := by
  unfold Run.setStation; split
  · exact .refl r
  · exact ⟨by simp [Run.touchLanes], by simp [Run.touchLanes], by simp [Run.touchLanes]⟩

theorem Run.setNest_rest (r : Run) (n : Nest) (c : NestContext) : r.SameRest (r.setNest n c) := by
  unfold Run.setNest; split
  · exact .refl r
  · exact Run.modify_image_rest r _ _

theorem Run.setEntry_rest (r : Run) (i : Fin 32) (e : Option Entry) : r.SameRest (r.setEntry i e) :=
  Run.modify_image_rest r _ _

theorem Run.setCursors_rest (r : Run) (c : Cursors) : r.SameRest (r.setCursors c) := by
  unfold Run.setCursors; split
  · exact .refl r
  · exact Run.modify_image_rest r _ _

theorem Run.raise_rest (r : Run) (f : Flag) : r.SameRest (r.raise f) := by
  unfold Run.raise; split
  · exact Run.modify_image_rest r _ _
  · exact .refl r

@[simp] theorem Run.setCup_lanes (r : Run) (i : Fin 4) (c : Cup) :
    (r.setCup i c).lanes = r.lanes := by
  unfold Run.setCup; split <;> simp

@[simp] theorem Run.setLane_lanes (r : Run) (i : Fin 16) (l : Lane) :
    (r.setLane i l).lanes = r.lanes := by
  unfold Run.setLane; split <;> simp

@[simp] theorem Run.setNest_lanes (r : Run) (n : Nest) (c : NestContext) :
    (r.setNest n c).lanes = r.lanes := by
  unfold Run.setNest; split <;> simp

@[simp] theorem Run.setEntry_lanes (r : Run) (i : Fin 32) (e : Option Entry) :
    (r.setEntry i e).lanes = r.lanes := by
  simp [Run.setEntry]

@[simp] theorem Run.setCursors_lanes (r : Run) (c : Cursors) :
    (r.setCursors c).lanes = r.lanes := by
  unfold Run.setCursors; split <;> simp

@[simp] theorem Run.raise_lanes (r : Run) (f : Flag) : (r.raise f).lanes = r.lanes := by
  unfold Run.raise; split <;> simp

/-! ### Posts -/

/-- A post whose three words are read: it is refused by the first check of the prefix that fails, or judged
by its kind. -/
theorem servePost_read {α : Type} {ring : CmdRing} {judge : Word → Run → Judged α × Run}
    {grant : Request → α → Run → Ack × Run} {t : Tag} {q : Request} {r : Run}
    (h : Answered r.answers 3) :
    servePost ring judge grant t q r =
      let r' := { r with answers := r.answers.drop 3, st := r.st.waited r.answers 3 }
      match firstFailing (r'.st.postChecks ring q) with
      | some cause => refusePost t q cause {} r'
      | none =>
        match judge (Memory.readWord (r.st.awaitNext r.answers).mem (q.word 1)) r' with
        | (.refuse cause refs, r) => refusePost t q cause refs r
        | (.abandon, r) => (.hard, r)
        | (.pass x, r) => grant q x r := by
  unfold servePost
  rw [Run.reading_done h]
  rw [wordAt_wordsRead _ _ _ _ (by omega)]
  all_goals rfl

end Sys2Proof.Machine
end

