-- ==== Sys2Proof/Laws/PerInstr.lean ====
section
/-! SUPPORT. One lemma for each command about its form: `Form.Statement` spells out, from the cycle that a
command carries and what goes on beside it, which of its operands are well formed. -/

namespace Sys2Proof.Laws

/-- The cycle that a command carries, for the rows that are a cycle on the master-side bus. -/
def Form.carried : Instr → Option Cycle
  | .misalignedCycle c => some c
  | .guardRefusal c => some c
  | .passRead t a z => some ⟨t, a, z, .read⟩
  | .boardTableRead t a z => some ⟨t, a, z, .read⟩
  | .passWrite t a z d => some ⟨t, a, z, .write d⟩
  | .pathRefusal t a z d => some ⟨t, a, z, .write d⟩
  | .heldWrite t a z d => some ⟨t, a, z, .write d⟩
  | _ => none

/-- Whether a row takes a cycle of a given alignment: MISALIGNED_CYCLE only a misaligned one, a guard
refusal any, the other rows only an aligned one. -/
def Form.takes : Instr → Bool → Bool
  | .misalignedCycle _, aligned => !aligned
  | .guardRefusal _, _ => true
  | _, aligned => aligned

/-- What goes on beside the Engine's cycles in a row's step, for the rows that issue some. -/
def Form.beside : Instr → List MemAnswer
  | .rootRecordLoad answers => answers
  | .cut answers => answers
  | .pick answers => answers
  | .place answers => answers
  | .discard answers => answers
  | .trialCommand answers => answers
  | .nestStop answers => answers
  | .nestResume answers => answers
  | .nestSync answers => answers
  | .nestRelease answers => answers
  | .laneStop answers => answers
  | .laneResume answers => answers
  | .stationReset answers => answers
  | .slotSet answers => answers
  | .resolve answers => answers
  | .forget answers => answers
  | .cupClear answers => answers
  | .cellClear answers => answers
  | .trialServiceCommand answers => answers
  | .cutEnd answers => answers
  | .pickEnd answers => answers
  | .discardEnd answers => answers
  | .placeEnd answers => answers
  | .presentEnd answers => answers
  | .arrived answers => answers
  | .removed answers => answers
  | .boardEdit answers => answers
  | .badKindPost answers => answers
  | .reportKindMismatch answers => answers
  | _ => []

/-- A command is well formed exactly when the cycle it carries has data of its size and an alignment that
its row takes, a port cycle visits at most 64 cache entries, and what goes on beside the Engine's cycles
is well formed. -/
def Form.Statement (i : Instr) : Prop :=
  i.wf = true ↔
    (∀ c, Form.carried i = some c → c.dataFits = true ∧ Form.takes i c.aligned = true) ∧
      (∀ visits hard, i = .portCycle visits hard → visits ≤ 64) ∧
      ∀ a ∈ Form.beside i, a.wf = true

/-- The form of a command that carries no cycle and visits no entry. -/
theorem Form.plain {i : Instr} (wf : i.wf = (Form.beside i).all MemAnswer.wf)
    (none : Form.carried i = none) (other : ∀ visits hard, i ≠ .portCycle visits hard) :
    Form.Statement i := by
  unfold Form.Statement
  rw [wf, none, List.all_eq_true]
  exact ⟨fun h => ⟨fun c h => (nomatch h), fun v b h => absurd h (other v b), h⟩, fun h => h.2.2⟩

/-- The form of a command that carries a cycle. -/
theorem Form.cycle {i : Instr} {c : Cycle} (carries : Form.carried i = some c)
    (wf : i.wf = (c.dataFits && Form.takes i c.aligned)) (alone : Form.beside i = [])
    (other : ∀ visits hard, i ≠ .portCycle visits hard) : Form.Statement i := by
  unfold Form.Statement
  rw [wf, carries, alone, Bool.and_eq_true]
  constructor
  · intro h
    exact ⟨fun d e => by cases e; exact h, fun v b e => absurd e (other v b), fun a h => (nomatch h)⟩
  · intro h
    exact h.1 c rfl

theorem Form.resetN :
    Form.Statement .resetN :=
  Form.plain rfl rfl (fun _ _ h => nomatch h)

theorem Form.timebase :
    Form.Statement .timebase :=
  Form.plain rfl rfl (fun _ _ h => nomatch h)

theorem Form.misalignedCycle (c : Cycle) :
    Form.Statement (.misalignedCycle c) :=
  Form.cycle rfl rfl rfl (fun _ _ h => nomatch h)

theorem Form.passRead (tag : Tag) (addr : Addr) (size : Size) :
    Form.Statement (.passRead tag addr size) :=
  Form.cycle rfl rfl rfl (fun _ _ h => nomatch h)

theorem Form.boardTableRead (tag : Tag) (addr : Addr) (size : Size) :
    Form.Statement (.boardTableRead tag addr size) :=
  Form.cycle rfl rfl rfl (fun _ _ h => nomatch h)

theorem Form.passWrite (tag : Tag) (addr : Addr) (size : Size) (data : Word) :
    Form.Statement (.passWrite tag addr size data) :=
  Form.cycle rfl (Bool.and_comm _ _) rfl (fun _ _ h => nomatch h)

theorem Form.guardRefusal (c : Cycle) :
    Form.Statement (.guardRefusal c) :=
  Form.cycle rfl (Bool.and_true _).symm rfl (fun _ _ h => nomatch h)

theorem Form.pathRefusal (tag : Tag) (addr : Addr) (size : Size) (data : Word) :
    Form.Statement (.pathRefusal tag addr size data) :=
  Form.cycle rfl (Bool.and_comm _ _) rfl (fun _ _ h => nomatch h)

theorem Form.heldWrite (tag : Tag) (addr : Addr) (size : Size) (data : Word) :
    Form.Statement (.heldWrite tag addr size data) :=
  Form.cycle rfl (Bool.and_comm _ _) rfl (fun _ _ h => nomatch h)

theorem Form.portCycle (visits : Nat) (hard : Bool) :
    Form.Statement (.portCycle visits hard) := by
  unfold Form.Statement
  constructor
  · intro h
    exact ⟨fun c e => (nomatch e), fun v b e => (by cases e; exact of_decide_eq_true h),
      fun a h => (nomatch h)⟩
  · intro h
    exact decide_eq_true (h.2.1 visits hard rfl)

theorem Form.rootRecordLoad (answers : List MemAnswer) :
    Form.Statement (.rootRecordLoad answers) :=
  Form.plain rfl rfl (fun _ _ h => nomatch h)

theorem Form.cut (answers : List MemAnswer) :
    Form.Statement (.cut answers) :=
  Form.plain rfl rfl (fun _ _ h => nomatch h)

theorem Form.pick (answers : List MemAnswer) :
    Form.Statement (.pick answers) :=
  Form.plain rfl rfl (fun _ _ h => nomatch h)

theorem Form.place (answers : List MemAnswer) :
    Form.Statement (.place answers) :=
  Form.plain rfl rfl (fun _ _ h => nomatch h)

theorem Form.discard (answers : List MemAnswer) :
    Form.Statement (.discard answers) :=
  Form.plain rfl rfl (fun _ _ h => nomatch h)

theorem Form.trialCommand (answers : List MemAnswer) :
    Form.Statement (.trialCommand answers) :=
  Form.plain rfl rfl (fun _ _ h => nomatch h)

theorem Form.nestStop (answers : List MemAnswer) :
    Form.Statement (.nestStop answers) :=
  Form.plain rfl rfl (fun _ _ h => nomatch h)

theorem Form.nestResume (answers : List MemAnswer) :
    Form.Statement (.nestResume answers) :=
  Form.plain rfl rfl (fun _ _ h => nomatch h)

theorem Form.nestSync (answers : List MemAnswer) :
    Form.Statement (.nestSync answers) :=
  Form.plain rfl rfl (fun _ _ h => nomatch h)

theorem Form.nestRelease (answers : List MemAnswer) :
    Form.Statement (.nestRelease answers) :=
  Form.plain rfl rfl (fun _ _ h => nomatch h)

theorem Form.laneStop (answers : List MemAnswer) :
    Form.Statement (.laneStop answers) :=
  Form.plain rfl rfl (fun _ _ h => nomatch h)

theorem Form.laneResume (answers : List MemAnswer) :
    Form.Statement (.laneResume answers) :=
  Form.plain rfl rfl (fun _ _ h => nomatch h)

theorem Form.stationReset (answers : List MemAnswer) :
    Form.Statement (.stationReset answers) :=
  Form.plain rfl rfl (fun _ _ h => nomatch h)

theorem Form.slotSet (answers : List MemAnswer) :
    Form.Statement (.slotSet answers) :=
  Form.plain rfl rfl (fun _ _ h => nomatch h)

theorem Form.resolve (answers : List MemAnswer) :
    Form.Statement (.resolve answers) :=
  Form.plain rfl rfl (fun _ _ h => nomatch h)

theorem Form.forget (answers : List MemAnswer) :
    Form.Statement (.forget answers) :=
  Form.plain rfl rfl (fun _ _ h => nomatch h)

theorem Form.cupClear (answers : List MemAnswer) :
    Form.Statement (.cupClear answers) :=
  Form.plain rfl rfl (fun _ _ h => nomatch h)

theorem Form.cellClear (answers : List MemAnswer) :
    Form.Statement (.cellClear answers) :=
  Form.plain rfl rfl (fun _ _ h => nomatch h)

theorem Form.trialServiceCommand (answers : List MemAnswer) :
    Form.Statement (.trialServiceCommand answers) :=
  Form.plain rfl rfl (fun _ _ h => nomatch h)

theorem Form.cutEnd (answers : List MemAnswer) :
    Form.Statement (.cutEnd answers) :=
  Form.plain rfl rfl (fun _ _ h => nomatch h)

theorem Form.pickEnd (answers : List MemAnswer) :
    Form.Statement (.pickEnd answers) :=
  Form.plain rfl rfl (fun _ _ h => nomatch h)

theorem Form.discardEnd (answers : List MemAnswer) :
    Form.Statement (.discardEnd answers) :=
  Form.plain rfl rfl (fun _ _ h => nomatch h)

theorem Form.placeEnd (answers : List MemAnswer) :
    Form.Statement (.placeEnd answers) :=
  Form.plain rfl rfl (fun _ _ h => nomatch h)

theorem Form.presentEnd (answers : List MemAnswer) :
    Form.Statement (.presentEnd answers) :=
  Form.plain rfl rfl (fun _ _ h => nomatch h)

theorem Form.arrived (answers : List MemAnswer) :
    Form.Statement (.arrived answers) :=
  Form.plain rfl rfl (fun _ _ h => nomatch h)

theorem Form.removed (answers : List MemAnswer) :
    Form.Statement (.removed answers) :=
  Form.plain rfl rfl (fun _ _ h => nomatch h)

theorem Form.expiry :
    Form.Statement .expiry :=
  Form.plain rfl rfl (fun _ _ h => nomatch h)

theorem Form.pairExpiry :
    Form.Statement .pairExpiry :=
  Form.plain rfl rfl (fun _ _ h => nomatch h)

theorem Form.captureRelease :
    Form.Statement .captureRelease :=
  Form.plain rfl rfl (fun _ _ h => nomatch h)

theorem Form.flagClear :
    Form.Statement .flagClear :=
  Form.plain rfl rfl (fun _ _ h => nomatch h)

theorem Form.boardEdit (answers : List MemAnswer) :
    Form.Statement (.boardEdit answers) :=
  Form.plain rfl rfl (fun _ _ h => nomatch h)

theorem Form.walkerJobStart :
    Form.Statement .walkerJobStart :=
  Form.plain rfl rfl (fun _ _ h => nomatch h)

theorem Form.loadJobEnd :
    Form.Statement .loadJobEnd :=
  Form.plain rfl rfl (fun _ _ h => nomatch h)

theorem Form.syncJobEnd :
    Form.Statement .syncJobEnd :=
  Form.plain rfl rfl (fun _ _ h => nomatch h)

theorem Form.releaseJobEnd :
    Form.Statement .releaseJobEnd :=
  Form.plain rfl rfl (fun _ _ h => nomatch h)

theorem Form.loadCompletion :
    Form.Statement .loadCompletion :=
  Form.plain rfl rfl (fun _ _ h => nomatch h)

theorem Form.syncCompletion :
    Form.Statement .syncCompletion :=
  Form.plain rfl rfl (fun _ _ h => nomatch h)

theorem Form.releaseCompletion :
    Form.Statement .releaseCompletion :=
  Form.plain rfl rfl (fun _ _ h => nomatch h)

theorem Form.badKindPost (answers : List MemAnswer) :
    Form.Statement (.badKindPost answers) :=
  Form.plain rfl rfl (fun _ _ h => nomatch h)

theorem Form.reportKindMismatch (answers : List MemAnswer) :
    Form.Statement (.reportKindMismatch answers) :=
  Form.plain rfl rfl (fun _ _ h => nomatch h)

end Sys2Proof.Laws
end

