-- ==== Sys2Proof/Tests/Slice0.lean ====
section
/-! SUPPORT. Tests: a small cell, one refusal of the well-formedness check for each of its parts, one or
two steps of each command, and for each statement a state and operands that meet its hypotheses. -/

namespace Sys2Proof.Tests

open Sys2Proof.Machine Sys2Proof.Claims

set_option Elab.async false

/-! ### A small cell -/

/-- Tag 1 is the processor, 2 to 4 the axes, 5 a plain master; the others have no role. -/
def roles : Table 16 Role :=
  (((((Table.replicate 16 Role.none).set 1 .proc).set 2 .router).set 3 .picker).set 4 .stacker).set 5
    .plain

/-- Seven rings of 16 slots. -/
def rings : RingLayout where
  router := ⟨0x10000, 16⟩
  picker := ⟨0x10200, 16⟩
  service := ⟨0x10400, 16⟩
  stacker := ⟨0x10600, 16⟩
  routerReport := ⟨0x10800, 16⟩
  pickerReport := ⟨0x10A00, 16⟩
  stackerReport := ⟨0x10C00, 16⟩

/-- The descriptor of nest A: four boards. -/
def panel : Descriptor := ⟨7, 0x30000, 4, 0x31000, 1, .sort⟩

/-- Nest A, loaded. -/
def nestA : NestContext where
  descriptor := some panel
  types := Table.replicate 64 ⟨true, 0, .isOpen⟩
  typesValid := true
  state := .active
  status := .initial
  claim := .none
  remaining := 4
  loadResult := .ok
  firstBad := none

/-- A station with an identified magazine. -/
def station (slots : List SlotState) : Station where
  state := slotsState slots
  mask := 1
  generation := 7
  attempts := 0
  label := none
  magazine := some ⟨0, 0x241, 3, false, slots⟩

/-- A NORMAL lane over stations 0 and 1. -/
def lane (state : LaneState) : Lane where
  enabled := true
  kind := .normal
  order := .up
  stations := [0, 1]
  state := state
  current := 0
  pending := 0
  stop := none

/-- A GUARDED cell: nest A ACTIVE and not yet cached, lane 0 OPEN on station 0 with three FREE slots,
station 1 VACANT, no command in flight, limits set. -/
def cell : State :=
  { State.reset with
    mode := .guarded
    roles := some roles
    rings := some rings
    imageBase := some 0x20000
    nestA := nestA
    limits := ⟨100, 10, 50, 200, 60⟩
    magTypes := (Table.replicate 16 ⟨false, 0, 0, 0⟩).set 0 ⟨true, 1, 3, 2⟩
    stations := ((Table.replicate 8 Station.reset).set 0 (station [.free, .free, .free])).set 1
      { Station.reset with state := .vacant, mask := 1 }
    lanes := (Table.replicate 16 Lane.reset).set 0 (lane .isOpen) }

/-- The hardware fields of a board of four tabs in a state. -/
def hw (pos : Nat) (state : BoardState) (mask : BitVec 12) : BoardHw where
  position := pos
  type := 2
  state := state
  tabs := 4
  cutMask := mask
  untouched := true
  relocated := false
  cup := none
  placement := none
  lastCause := none
  time := 0

/-- A GOOD board's record from its hardware fields. -/
def record (h : BoardHw) : BoardWords := (⟨0, 0, 0, 0⟩ : BoardWords).withHw h

/-- A board of nest A. -/
def board (pos : Nat) : BoardRef := ⟨.a, pos⟩

/-- A cache line of a board of nest A. -/
def line (pos : Nat) (h : BoardHw) : CacheLine := ⟨board pos, record h, false, false⟩

/-- A state whose cache holds a line. -/
def cached (s : State) (i : Fin 64) (l : CacheLine) : State :=
  { s with cache := s.cache.set i (some l), recency := i :: s.recency }

/-- The state in which the Engine has a held write in hand, with a word 1 in memory behind it. -/
def inHand (s : State) (tag : Tag) (q : Request) (w1 : Word) : State :=
  { s with
    masters := s.masters.set tag .waiting
    requests := s.requests.set tag (some q)
    engine := .serving ⟨tag.val, by omega⟩
    lastServed := ⟨tag.val, by omega⟩
    mem := Memory.writeBytes s.mem (q.word 1) w1 8 }

/-- Word 0 of a ring record. -/
def word0 (kind : Nat) (trial : Bool) (sequence answered : Nat) : Word :=
  pack [⟨0, 2, 1⟩, ⟨2, 1, markOf trial⟩, ⟨8, 8, kind⟩, ⟨16, 8, sequence⟩, ⟨24, 8, answered⟩]

/-- The request of a post at the cursor of a ring. -/
def post (s : State) (ring : CmdRing) (kind : Nat) (trial : Bool) : Request where
  addr := BitVec.ofNat 32 ((s.ring ring).slotAddr (s.cursor ring))
  data := word0 kind trial 9 0
  role := some .proc
  cls := postClass ring

/-- A state in which the Engine has a post in hand. -/
def posted (s : State) (ring : CmdRing) (kind : Nat) (w1 : Word) : State :=
  inHand s 1 (post s ring kind false) w1

/-- A state in which the Engine has a TRIAL in hand. -/
def tried (s : State) (ring : CmdRing) (kind : Nat) (w1 : Word) : State :=
  inHand s 1 (post s ring kind true) w1

/-- The tag of a report ring's owner. -/
def ownerTag : RepRing → Tag
  | .router => 2
  | .picker => 3
  | .stacker => 4

/-- The request of a report at slot 2 of a report ring. -/
def report (ring : RepRing) (data : Word) : Request where
  addr := BitVec.ofNat 32 ((rings.report ring).slotAddr 2)
  data := data
  role := some ring.owner
  cls := .report ring

/-- A state in which the Engine has a report in hand. -/
def reported (s : State) (ring : RepRing) (data w1 : Word) : State :=
  inHand s (ownerTag ring) (report ring data) w1

/-- An entry of sequence 9 in slot 0 of a ring. -/
def entry (ring : CmdRing) (kind : EntryKind) (pos : Nat) (state : EntryState) : Entry where
  state := state
  ring := ring
  slot := 0
  sequence := 9
  kind := kind
  board := board pos
  cup := none
  dest := none
  span := none
  partner := none
  admitted := 0
  expiry := some 100
  stored := none

/-- A state with an entry in use, at the tail of the list. -/
def withEntry (s : State) (i : Fin 32) (e : Entry) : State :=
  { s with entries := s.entries.set i (some e), order := s.order ++ [i] }

/-- A state with the contents of an entry replaced. -/
def withEntryAs (s : State) (i : Fin 32) (e : Entry) : State := { s with entries := s.entries.set i (some e) }

/-- What holds of the state a command leaves; false where it stops. -/
def leaves (c : Instr) (s : State) (p : State → Bool) : Bool :=
  match exec c s with
  | .next t => p t
  | .fault _ => false
  | .refused _ => false

/-- The Engine waits for the images of a held write, to answer it so. -/
def State.answers (t : State) (a : Ack) : Bool :=
  match t.engine with
  | .finishing w => w.ack == a
  | .idle | .serving _ => false

/-! ### States with something in hand -/

/-- Three pulses of TIMEBASE come while memory has the first cycle; the others are answered at once. -/
def slow : List MemAnswer := [{ hard := false, during := [.timebase, .timebase, .timebase] }]

/-- The state with nest A's context changed. -/
def withNestA (s : State) (f : NestContext → NestContext) : State := { s with nestA := f s.nestA }

/-- The state with station 0 given other slots. -/
def withSlots (s : State) (slots : List SlotState) : State :=
  { s with stations := s.stations.set 0 (station slots) }

/-- The state with a station replaced. -/
def withStation (s : State) (i : Fin 8) (st : Station) : State := { s with stations := s.stations.set i st }

/-- The state with lane 0 replaced. -/
def withLane (s : State) (l : Lane) : State := { s with lanes := s.lanes.set 0 l }

/-- Word 1 of a command on a board, with its cup, lane and span. -/
def onBoard (pos cup lane first count : Nat) : Word :=
  pack [⟨8, 7, pos⟩, ⟨16, 3, cup⟩, ⟨24, 5, lane⟩, ⟨32, 4, first⟩, ⟨40, 4, count⟩]

/-- Word 1 of a LANE_STOP or LANE_RESUME. -/
def onLane (lane condition notice : Nat) : Word :=
  pack [⟨24, 5, lane⟩, ⟨44, 2, condition⟩, ⟨46, 2, notice⟩]

/-- Word 1 of a STATION_RESET or SLOT_SET. -/
def onSlot (station slot target : Nat) : Word := pack [⟨20, 4, station⟩, ⟨32, 7, slot⟩, ⟨40, 4, target⟩]

/-- Word 1 of a RESOLVE of board 0. -/
def settling (target cup slot mask : Nat) : Word :=
  pack [⟨16, 3, cup⟩, ⟨32, 7, slot⟩, ⟨40, 4, target⟩, ⟨48, 12, mask⟩]

/-- Word 1 of a FORGET. -/
def onEntry (i : Nat) : Word := pack [⟨2, 6, i⟩]

/-- Word 1 of a CUP_CLEAR. -/
def onCup (c : Nat) : Word := pack [⟨16, 3, c⟩]

/-- Word 0 of a report that answers slot 0, sequence 9. -/
def reportWord (kind : Nat) : Word := word0 kind false 9 0

/-- Word 0 of a station report. -/
def stationWord (kind station : Nat) : Word := pack [⟨0, 2, 1⟩, ⟨8, 8, kind⟩, ⟨32, 4, station⟩]

/-- The payload of a PRESENT_END. -/
def seen (slot obstructed serial : Nat) : Word :=
  pack [⟨0, 8, slot⟩, ⟨8, 1, obstructed⟩, ⟨16, 16, serial⟩]

/-- The payload of an ARRIVED, with its check. -/
def labelWord (code serial inhibit check : Nat) : Word :=
  pack [⟨0, 8, code⟩, ⟨8, 16, serial⟩, ⟨24, 8, inhibit⟩, ⟨32, 16, check⟩]

/-- A cell with board 0 cached. -/
def with0 (h : BoardHw) : State := cached cell 0 (line 0 h)

/-- A board in cup 2. -/
def held2 : BoardHw := { hw 0 .held 15 with cup := some 2 }

/-- Board 0 HELD in cup 2. -/
def holding : State := { with0 held2 with cups := cell.cups.set 2 ⟨.loaded, some (board 0)⟩ }

/-- As `holding`, where the board is a REJECT. -/
def rejecting : State :=
  { cached cell 0 ⟨board 0, { record held2 with w1 := 2 }, false, false⟩ with
    cups := cell.cups.set 2 ⟨.loaded, some (board 0)⟩ }

/-- A CUT of board 0 in flight, on tabs 1 to 3. -/
def cutting : State :=
  withNestA (withEntry (with0 (hw 0 .cutting 1)) 3
    { entry .router .cut 0 .isOpen with span := some ⟨1, 3⟩ }) fun c => { c with claim := .router }

/-- A PICK of board 0 with cup 2 in flight. -/
def picking : State :=
  { withNestA (withEntry (with0 { hw 0 .picking 15 with cup := some 2 }) 3
      { entry .picker .pick 0 .isOpen with cup := some 2 }) fun c => { c with claim := .picker } with
    cups := cell.cups.set 2 ⟨.reserved, some (board 0)⟩ }

/-- A DISCARD of board 0 from cup 2 in flight. -/
def discarding : State :=
  { withEntry (with0 { hw 0 .discarding 15 with cup := some 2 }) 3
      { entry .picker .discard 0 .isOpen with cup := some 2 } with
    cups := cell.cups.set 2 ⟨.reservedOut, some (board 0)⟩ }

/-- Slot 1 of station 0, by lane 0. -/
def target : Destination := ⟨0, 0, 1, 7, 0x241⟩

/-- The PLACE of a pair. -/
def placeEntry (state : EntryState) : Entry :=
  { entry .picker .place 0 state with cup := some 1, dest := some target, partner := some 5 }

/-- The PRESENT of a pair. -/
def presentEntry (state : EntryState) : Entry :=
  { entry .stacker .present 0 state with dest := some target, partner := some 4 }

/-- A placement of board 0 in flight, from cup 1 to slot 1 of station 0. -/
def placing (state : EntryState) : State :=
  { withSlots (withLane (withEntry (withEntry (with0 { hw 0 .placing 15 with cup := some 1 }) 4
        (placeEntry state)) 5 (presentEntry state)) { lane .isOpen with pending := 1 })
      [.free, .reserved, .occupied] with
    cups := cell.cups.set 1 ⟨.reservedOut, some (board 0)⟩ }

/-- A placement whose PRESENT_END has come. -/
def seenFirst (o : Observation) : State :=
  withEntryAs (placing .half) 5 { presentEntry .half with stored := some ⟨.presentEnd o, 1, 5⟩ }

/-- A placement whose PLACE_END has come. -/
def placedFirst (r : Result) : State :=
  withEntryAs (placing .half) 4 { placeEntry .half with stored := some ⟨.placeEnd r, 1, 5⟩ }

/-- Board 0 UNCERTAIN after its placement expired. -/
def unsettled : State :=
  { cached (placing (.expired .expired)) 0 (line 0 { hw 0 .uncertain 15 with lastCause := some .expired }) with
    cups := cell.cups.set 1 ⟨.suspect, some (board 0)⟩
    stations := cell.stations.set 0 (station [.free, .suspect, .free]) }

/-- The Engine has an expiry in hand. -/
def expiring (s : State) (due : List (Fin 32)) : State :=
  { s with engine := .serving 16, lastServed := 16, due := due }

/-- The Engine has a completion of the walker in hand. -/
def completing (s : State) (c : Completion) : State :=
  { s with engine := .serving 17, lastServed := 17, walker := .waiting c }

/-- A write that the Classifier has held for PROC. -/
def written (cls : RequestClass) (addr : Addr) (data : Word) : Request := ⟨addr, data, some .proc, cls⟩

/-- A capture. -/
def someCapture : Capture := ⟨.late, none, none, {}, 0⟩

/-- The state with every capture HELD. -/
def withCaptures (s : State) : State :=
  { s with captures := Table.replicate 4 (some someCapture), flags := s.flags ||| 15 }

/-- A Root Record: seven rings, the Image Area, two nests, two lanes, two stations. -/
def rootRecord : List (Nat × Word) :=
  [(0x808, pack [⟨8, 3, 1⟩, ⟨16, 3, 2⟩, ⟨24, 3, 3⟩, ⟨32, 3, 4⟩, ⟨40, 3, 5⟩]),
    (0x818, pack [⟨0, 32, 0x10000⟩, ⟨32, 16, 16⟩]), (0x820, pack [⟨0, 32, 0x10200⟩, ⟨32, 16, 16⟩]),
    (0x828, pack [⟨0, 32, 0x10400⟩, ⟨32, 16, 16⟩]), (0x830, pack [⟨0, 32, 0x10600⟩, ⟨32, 16, 16⟩]),
    (0x838, pack [⟨0, 32, 0x10800⟩, ⟨32, 16, 16⟩]), (0x840, pack [⟨0, 32, 0x10A00⟩, ⟨32, 16, 16⟩]),
    (0x848, pack [⟨0, 32, 0x10C00⟩, ⟨32, 16, 16⟩]), (0x850, 0x20000)] ++
  [(0x858, 7), (0x860, pack [⟨0, 32, 0x30000⟩, ⟨32, 7, 4⟩]), (0x868, 0x31000),
    (0x870, pack [⟨0, 4, 1⟩, ⟨8, 2, 1⟩]), (0x898, pack [⟨0, 1, 1⟩, ⟨4, 4, 2⟩, ⟨12, 4, 1⟩]),
    (0x8A0, pack [⟨0, 1, 1⟩, ⟨1, 1, 1⟩, ⟨2, 1, 1⟩, ⟨4, 4, 1⟩, ⟨8, 4, 2⟩]), (0x918, pack [⟨0, 16, 1⟩]),
    (0x928, pack [⟨0, 1, 1⟩, ⟨8, 8, 1⟩, ⟨16, 8, 3⟩, ⟨24, 4, 2⟩]),
    (0x9A8, pack [⟨0, 16, 100⟩, ⟨16, 16, 10⟩, ⟨32, 16, 50⟩, ⟨48, 16, 200⟩]), (0x9B0, 60),
    (0x9B8, pack [⟨0, 24, 0x1F⟩, ⟨32, 24, 0xFF0000⟩])]

/-- The write of a load word that selects sections, by the tag of PROC or in OPEN_PATH mode. -/
def loadWrite (sections : Nat) (role : Option Role) : Request :=
  ⟨0x800, pack [⟨0, 16, 5⟩, ⟨16, 10, sections⟩], role, .load⟩

/-- The Engine has a load in hand, with the Root Record in memory. -/
def loading (s : State) (sections : Nat) (role : Option Role) : State :=
  { inHand s 1 (loadWrite sections role) 0 with
    mem := rootRecord.foldl (fun m p => Memory.writeBytes m p.1 p.2 8) [] }

/-- A cell whose nest A holds nothing. -/
def unloadedCell : State := withNestA cell fun _ => NestContext.reset

/-- The board as a lookup finds it, its place made the most recent. -/
def found (s : State) : State := { s.waited [] 3 with recency := 0 :: (s.waited [] 3).recency.erase 0 }

/-- The state after the writes of an accepted post. -/
def foundAfter (s : State) (writes : List (Nat × Word)) : State := (found s).wroteAll [] writes

/-! ### The well-formedness check refuses -/

theorem test_wf_misaligned_row_takes_misaligned :
    Instr.wf (.misalignedCycle ⟨1, 0x1000, .b4, .read⟩) = false := by decide

theorem test_wf_write_data_fit_their_size :
    Instr.wf (.guardRefusal ⟨1, 0x1000, .b1, .write 0x100⟩) = false ∧
      Instr.wf (.misalignedCycle ⟨1, 0x1001, .b2, .write 0x10000⟩) = false ∧
      Instr.wf (.passWrite 1 0x1000 .b4 0x100000000) = false ∧
      Instr.wf (.pathRefusal 1 0x1000 .b1 0x100) = false ∧
      Instr.wf (.heldWrite 1 0x1000 .b2 0x10000) = false := by decide

theorem test_wf_classified_rows_are_aligned :
    Instr.wf (.passRead 1 0x1001 .b2) = false ∧ Instr.wf (.boardTableRead 1 0x1004 .b8) = false ∧
      Instr.wf (.passWrite 1 0x1002 .b4 0) = false ∧ Instr.wf (.pathRefusal 1 0x1001 .b8 0) = false ∧
      Instr.wf (.heldWrite 1 0x1004 .b8 0) = false := by decide

theorem test_wf_visits_at_most_the_cache : Instr.wf (.portCycle 65 false) = false := by decide

theorem test_wf_reaches_what_goes_on_beside :
    Instr.wf (.cut [{ hard := false, early := [.arrival ⟨5, 0x40000, .b1, .write 0x100⟩] }]) = false ∧
      Instr.wf (.pick [{ hard := false, late := [.portCycle 65 false] }]) = false ∧
      Instr.wf (.boardEdit [{ hard := true }, { hard := false, during := [.portCycle 65 true] }]) =
        false := by decide

theorem test_wf_takes_the_rest :
    Instr.wf (.misalignedCycle ⟨1, 0x1001, .b4, .read⟩) = true ∧
      Instr.wf (.passWrite 1 0x1000 .b8 0xFFFFFFFFFFFFFFFF) = true ∧
      Instr.wf (.guardRefusal ⟨1, 0x1001, .b8, .read⟩) = true ∧ Instr.wf (.portCycle 64 true) = true := by
  decide

/-! ### A few values that the manual gives -/

/-- The worked example of the label check. -/
theorem test_label_check : RawLabel.crc ⟨1, 0, 0, 0⟩ = 0x9403 := by decide +kernel

theorem test_no_row_gives_bits : decodeTableWord 64 1 = none := rfl

theorem cell_settled : LanesSettled cell := by
  unfold LanesSettled
  decide +kernel

/-! ### One step of each command -/

theorem test_resetN : leaves .resetN (withCaptures cell) (fun t =>
    t.mode == .openPath && t.roles == none && t.flags == 0 && t.captureOf .proc == none) = true := by
  decide +kernel

theorem test_timebase : leaves .timebase (withEntry cell 3
    { entry .router .cut 0 .isOpen with expiry := some 1 }) (fun t =>
      t.time == 1 && t.due == [3] && t.images == [.entry 3] && t.engine == .serving 16) = true := by
  decide +kernel

theorem test_misalignedCycle : leaves (.misalignedCycle ⟨5, 0x40001, .b2, .read⟩) cell (fun t =>
    t.lastGuard == some ⟨0x40001, 5, .read⟩ && t.flag .guard &&
      t.waits == [⟨5, .hard, [.status]⟩]) = true := by decide +kernel

theorem test_passRead : leaves (.passRead 5 0x40000 .b2) cell (fun t =>
    t.nextPass == some 5 && t.masters.get 5 == .waiting) = true := by decide +kernel

theorem test_boardTableRead : leaves (.boardTableRead 5 0x30012 .b1) (with0 held2) (fun t =>
    t.masters.get 5 == .answered .done (some 0)) = true := by decide +kernel

theorem test_passWrite : leaves (.passWrite 2 0x10808 .b1 7) cell (fun t =>
    t.pass.get 2 == some ⟨2, 0x10808, .b1, .write 7⟩) = true := by decide +kernel

theorem test_guardRefusal : leaves (.guardRefusal ⟨2, 0x800, .b8, .write 0⟩) cell (fun t =>
    t.lastGuard == some ⟨0x800, 2, .write⟩) = true := by decide +kernel

theorem test_pathRefusal : leaves (.pathRefusal 1 0x20000 .b8 0) cell (fun t =>
    (t.captureOf .proc).any (fun c => c.cause == .imageWrite) && t.flag (.capture .proc) &&
      t.waits == [⟨1, .soft, [.capture .proc, .status]⟩]) = true := by decide +kernel

theorem test_pathRefusal_openPath : leaves (.pathRefusal 3 0x804 .b4 1) State.reset (fun t =>
    t == { State.reset with masters := State.reset.masters.set 3 (.answered .soft none) }) = true := by
  decide +kernel

theorem test_heldWrite : leaves (.heldWrite 1 0x10000 .b8 (word0 1 false 9 0)) cell (fun t =>
    t.heldInHand.any (fun x => x.1 == 1 && x.2.cls == .admission .router)) = true := by decide +kernel

theorem test_portCycle_reads :
    leaves (.portCycle 0 false) { cell with
      pass := cell.pass.set 5 (some ⟨5, 0x40000, .b2, .read⟩), mem := [(0x40001, 0x12)] } (fun t =>
        t.masters.get 5 == .answered .done (some 0x1200) && t.passLast == 5) = true := by decide +kernel

theorem test_portCycle_writes_an_image :
    leaves (.portCycle 0 false) { cell with
      images := [.cup 1], waits := [⟨2, .soft, [.cup 1]⟩], cups := cell.cups.set 1 ⟨.suspect, none⟩ }
      (fun t => t.masters.get 2 == .answered .soft none && t.images == [] && t.mem != []) = true := by
  decide +kernel

theorem test_rootRecordLoad : leaves (.rootRecordLoad []) (loading State.reset 0x3EF none) (fun t =>
    t.mode == .guarded && t.roles == some roles && t.rings == some rings && t.loadGen == 5 &&
      t.nestA.state == .loading && t.jobs == [.load .a panel] && t.flag .loadDone) = true := by
  decide +kernel

theorem test_rootRecordLoad_incomplete : leaves (.rootRecordLoad []) (loading State.reset 5 none)
    (fun t => t.mode == .openPath && t.masters.get 1 == .answered .soft none) = true := by decide +kernel

/-- A write to the Root Record that arrives while memory has the first read is granted before the second,
and a later read sees it. -/
theorem test_rootRecordLoad_sees_a_write_between_its_reads :
    leaves (.rootRecordLoad [{ hard := false, during := [.arrival ⟨5, 0x9B0, .b8, .write 61⟩] }])
      (loading State.reset 0x3EF none) (fun t =>
        t.limits.discard == 61 && t.masters.get 5 == .answered .done none && t.portLast == .engine) =
      true := by
  decide +kernel

/-- A pulse, a board table read and a guarded cycle that come while a post is judged; the image that the
guarded cycle waits for is granted before the next cycle of the Engine, and answered HARD. -/
theorem test_cut_beside_other_cycles :
    leaves (.cut [{ hard := false, early := [.timebase, .arrival ⟨5, 0x30000, .b8, .read⟩] },
        { hard := false, late := [.arrival ⟨6, 0x40000, .b8, .read⟩, .portCycle 0 true] }])
      (posted (with0 (hw 0 .partCut 2)) .router 1 (onBoard 0 0 0 0 3)) (fun t =>
        t.time == 1 && t.masters.get 5 == .answered .done (some (record (hw 0 .partCut 2)).w0) &&
          t.masters.get 6 == .answered .hard none && t.flag .guard && t.flag .memory &&
          t.order == [0] && State.answers t .done) = true := by
  decide +kernel

theorem test_cut : leaves (.cut []) (posted (with0 (hw 0 .partCut 2)) .router 1 (onBoard 0 0 0 0 3)) (fun t =>
    (t.entries.get 0).any (fun e => e.span == some ⟨0, 3⟩ && e.expiry == some 130) && t.order == [0] &&
      t.nestA.claim == .router && (t.cached (board 0)).any (fun l => l.words.hw.state == .cutting) &&
      State.answers t .done) = true := by decide +kernel

theorem test_cut_names_the_first_failing_check :
    leaves (.cut []) (posted (with0 (hw 0 .held 15)) .router 1 (onBoard 0 0 0 0 3)) (fun t =>
      (t.captureOf .proc).any (fun c => c.cause == .boardGone && c.refs.pos == some 0) &&
        State.answers t .soft && t.order == []) = true := by decide +kernel

theorem test_pick : leaves (.pick []) (posted (with0 (hw 0 .free 15)) .picker 2 (onBoard 0 2 0 0 0)) (fun t =>
    t.cups.get 2 == ⟨.reserved, some (board 0)⟩ && t.nestA.claim == .picker &&
      (t.cached (board 0)).any (fun l => l.words.hw.state == .picking && l.words.hw.cup == some 2) &&
      State.answers t .done) = true := by decide +kernel

theorem test_place : leaves (.place []) (posted holding .picker 3 (onBoard 0 2 31 0 0)) (fun t =>
    t.order == [0, 1] && t.cups.get 2 == ⟨.reservedOut, some (board 0)⟩ &&
      (t.stations.get 0).magazine.any (fun m => m.slots == [.reserved, .free, .free]) &&
      (t.lanes.get 0).pending == 1 && t.cursors == ⟨0, 1, 0, 1⟩ && State.answers t .done) = true := by
  decide +kernel

theorem test_discard : leaves (.discard []) (posted rejecting .picker 4 (onBoard 0 2 0 0 0)) (fun t =>
    t.cups.get 2 == ⟨.reservedOut, some (board 0)⟩ &&
      (t.entries.get 0).any (fun e => e.expiry == some 60) && State.answers t .done) = true := by
  decide +kernel

/-- A PLACE writes the nest summary even where the nest is DIRTY already. -/
theorem test_place_writes_the_nest :
    leaves (.place []) (posted (withNestA holding fun c => { c with status := .dirty }) .picker 3
      (onBoard 0 2 31 0 0)) (fun t => t.images.contains (.nest .a)) = true := by decide +kernel

theorem test_trialCommand : leaves (.trialCommand []) (tried holding .picker 3 (onBoard 0 2 31 0 0)) (fun t =>
    t.order == [] && t.cups == holding.cups && t.cursors == ⟨0, 1, 0, 0⟩ &&
      ringMark (Memory.readWord t.mem 0x10200) == markTried && State.answers t .done) = true := by
  decide +kernel

theorem test_nestStop : leaves (.nestStop []) (posted cell .service 16 0) (fun t =>
    t.nestA.state == .stopped && t.flag (.nestStopped .a) && t.cursors.service == 1) = true := by
  decide +kernel

theorem test_nestResume : leaves (.nestResume [])
    (posted (withNestA cell fun c => { c with state := .stopped }) .service 17 0)
    (fun t => t.nestA.state == .active) = true := by decide +kernel

theorem test_nestSync : leaves (.nestSync []) (posted cell .service 18 0)
    (fun t => t.jobs == [.sync .a] && t.nestA == nestA) = true := by decide +kernel

theorem test_nestRelease : leaves (.nestRelease [])
    (posted (withNestA cell fun c => { c with state := .complete }) .service 19 0)
    (fun t => t.nestA.state == .releasing && t.jobs == [.release .a]) = true := by decide +kernel

theorem test_laneStop : leaves (.laneStop [])
    (posted (withLane cell { lane .isOpen with pending := 1 }) .service 20 (onLane 0 0 1)) (fun t =>
      (t.lanes.get 0).state == .stopped && !t.flag .laneStopped &&
        (t.lanes.get 0).stop == some ⟨.now, .atDrain⟩) = true := by decide +kernel

theorem test_laneResume : leaves (.laneResume []) (posted (withLane cell (lane .paused)) .service 21 0)
    (fun t => (t.lanes.get 0).state == .isOpen) = true := by decide +kernel

theorem test_stationReset : leaves (.stationReset [])
    (posted (withStation cell 1 { Station.reset with state := .identifying, attempts := 2, mask := 1 })
      .service 22
      (onSlot 1 0 0)) (fun t => t.stations.get 1 == { Station.reset with state := .vacant, mask := 1 }) =
      true := by decide +kernel

theorem test_slotSet : leaves (.slotSet [])
    (posted (withSlots cell [.blocked, .blocked, .free]) .service 23 (onSlot 0 2 4)) (fun t =>
      (t.stations.get 0).state == .full && t.flag .stationChange && (t.lanes.get 0).state == .exhausted &&
        t.flag .laneExhausted) = true := by decide +kernel

theorem test_resolve : leaves (.resolve []) (posted unsettled .service 24 (settling 8 0 1 0)) (fun t =>
    (t.cached (board 0)).any (fun l => l.words.hw.state == .stacked) && t.order == [] &&
      t.cups.get 1 == ⟨.suspect, none⟩ && t.nestA.remaining == 3) = true := by decide +kernel

theorem test_forget : leaves (.forget []) (posted unsettled .service 25 (onEntry 5)) (fun t =>
    t.order == [4] && (t.cached (board 0)).any (fun l => l.words.hw.state == .uncertain) &&
      Memory.readWord t.mem 0x10600 == presentWord0 0 9) = true := by decide +kernel

theorem test_cupClear : leaves (.cupClear []) (posted unsettled .service 26 (onCup 1))
    (fun t => t.cups.get 1 == ⟨.empty, none⟩) = true := by decide +kernel

theorem test_cellClear : leaves (.cellClear []) (posted (placing .isOpen) .service 27 0) (fun t =>
    t.order == [] && t.cups.get 1 == ⟨.suspect, some (board 0)⟩ && t.flag .uncertain &&
      (t.stations.get 0).magazine.any (fun m => m.slots == [.free, .suspect, .occupied]) &&
      (t.lanes.get 0).pending == 0) = true := by decide +kernel

theorem test_trialServiceCommand : leaves (.trialServiceCommand []) (tried cell .service 16 0) (fun t =>
    t.nestA.state == .active && t.cursors.service == 1 && State.answers t .done) = true := by decide +kernel

theorem test_cutEnd : leaves (.cutEnd []) (reported cutting .router (reportWord 33) 2) (fun t =>
    (t.cached (board 0)).any (fun l => l.words.hw.cutMask == 7 && l.words.hw.state == .partCut) &&
      t.order == [] && t.nestA.claim == .none) = true := by decide +kernel

theorem test_pickEnd : leaves (.pickEnd []) (reported picking .picker (reportWord 34) 0) (fun t =>
    t.cups.get 2 == ⟨.loaded, some (board 0)⟩ && t.nestA.claim == .none) = true := by decide +kernel

theorem test_discardEnd : leaves (.discardEnd []) (reported discarding .picker (reportWord 36) 0) (fun t =>
    t.cups.get 2 == ⟨.empty, none⟩ && t.nestA.remaining == 3) = true := by decide +kernel

theorem test_placeEnd : leaves (.placeEnd []) (reported (placing .isOpen) .picker (reportWord 35) 0)
    (fun t => (t.entries.get 5).any (fun e => e.state == .half) && t.order == [4, 5]) = true := by
  decide +kernel

theorem test_placeEnd_resolves : leaves (.placeEnd [])
    (reported (seenFirst ⟨0, false, 0x241⟩) .picker (reportWord 35) 0) (fun t =>
      (t.stations.get 0).magazine.any (fun m => m.slots == [.occupied, .free, .occupied]) &&
        t.flag .relocated && t.order == []) = true := by decide +kernel

theorem test_presentEnd : leaves (.presentEnd [])
    (reported (placedFirst .done) .stacker (reportWord 37) (seen 1 0 0x241)) (fun t =>
      (t.stations.get 0).magazine.any (fun m => m.slots == [.free, .occupied, .occupied]) &&
        (t.cached (board 0)).any (fun l => l.words.hw.placement == some ⟨0, 1, 0x241⟩) &&
        t.nestA.remaining == 3) = true := by decide +kernel

theorem test_presentEnd_collides : leaves (.presentEnd [])
    (reported (placedFirst .done) .stacker (reportWord 37) (seen 1 1 0x241)) (fun t =>
      (t.stations.get 0).state == .faulted .collision && (t.lanes.get 0).state == .paused &&
        t.flag .uncertain) = true := by decide +kernel

theorem test_arrived : leaves (.arrived []) (reported cell .stacker (stationWord 48 1) (labelWord 1 0 0 0x9403))
    (fun t => (t.stations.get 1).state == .ready && (t.stations.get 1).generation == 1 &&
      (t.stations.get 1).magazine.any (fun m => m.slots == [.free, .free, .free])) = true := by
  decide +kernel

theorem test_removed : leaves (.removed []) (reported cell .stacker (stationWord 49 0) 0) (fun t =>
    (t.stations.get 0).state == .vacant && (t.lanes.get 0).state == .exhausted &&
      t.flag .stationChange) = true := by decide +kernel

theorem test_expiry : leaves .expiry (expiring picking [3]) (fun t =>
    t.due == [] && t.order == [3] && (t.cups.get 2).state == .suspect && t.flag .uncertain &&
      (t.captureOf .picker).any (fun c => c.cause == .expired && c.refs.entry == some 3)) = true := by
  decide +kernel

theorem test_pairExpiry : leaves .pairExpiry (expiring (placing .isOpen) [4, 5]) (fun t =>
    t.due == [] && (t.lanes.get 0).pending == 0 &&
      (t.stations.get 0).magazine.any (fun m => m.slots == [.free, .suspect, .occupied])) = true := by
  decide +kernel

theorem test_captureRelease : leaves .captureRelease
    (inHand (withCaptures cell) 1 (written (.captureRelease .router) 0x20120 0) 0) (fun t =>
      t.captureOf .router == none && t.flags == 13) = true := by decide +kernel

theorem test_flagClear : leaves .flagClear
    (inHand { cell with flags := 0x300 } 1 (written .flagClear 0x20028 0x10F) 0)
    (fun t => t.flags == 0x200) = true := by decide +kernel

theorem test_boardEdit : leaves (.boardEdit [])
    (inHand (with0 (hw 0 .free 15)) 1 (written (.boardEdit (board 0)) 0x30008 1) 0) (fun t =>
      (t.cached (board 0)).any (fun l => l.words.w1 == 1) &&
        t.masters.get 1 == .answered .done none) = true := by decide +kernel

theorem test_walkerJobStart : leaves .walkerJobStart { cell with jobs := [.sync .a] }
    (fun t => t.jobs == [] && t.walker == .running (Job.start (.sync .a))) = true := by decide +kernel

/-- The running load of nest A has come to its end. -/
def loadAtEnd : State :=
  { cell with walker := .running { Job.start (.load .a panel) with phase := .ended .ok, counted := 2 } }

theorem test_loadJobEnd : leaves .loadJobEnd loadAtEnd
    (fun t => t.walker == .waiting (.load .a .ok 2) && t.engine == .serving 17) = true := by decide +kernel

theorem test_syncJobEnd : leaves .syncJobEnd { cell with walker := .running (Job.start (.sync .a)) }
    (fun t => t.walker == .waiting (.sync .a true false)) = true := by decide +kernel

theorem test_releaseJobEnd : leaves .releaseJobEnd
    { with0 held2 with walker := .running (Job.start (.release .a)) }
    (fun t => t.walker == .waiting (.release .a false) && t.cached (board 0) == none) = true := by
  decide +kernel

theorem test_loadCompletion : leaves .loadCompletion (completing
    (withNestA cell fun c => { c with state := .loading }) (.load .a .ok 2)) (fun t =>
      t.nestA.state == .active && t.nestA.remaining == 2 && t.flag (.nestReady .a)) = true := by
  decide +kernel

theorem test_syncCompletion : leaves .syncCompletion (completing cell (.sync .a true false))
    (fun t => t.nestA.status == .clean && t.flag (.nestSynced .a)) = true := by decide +kernel

theorem test_releaseCompletion : leaves .releaseCompletion (completing cell (.release .a false))
    (fun t => t.nestA.state == .empty && t.nestA.descriptor == none) = true := by decide +kernel

theorem test_badKindPost : leaves (.badKindPost []) (posted cell .router 2 0) (fun t =>
    (t.captureOf .proc).any (fun c => c.cause == .badKind) && t.cursors.router == 0) = true := by
  decide +kernel

theorem test_reportKindMismatch_names_the_station :
    leaves (.reportKindMismatch []) (reported cell .router (stationWord 48 7) 0) (fun t =>
      (t.captureOf .router).any (fun c => c.cause == .kindMismatch && c.refs == { station := some 7 })) =
      true := by decide +kernel

theorem test_reportKindMismatch : leaves (.reportKindMismatch []) (reported cell .router (reportWord 34) 0)
    (fun t => (t.captureOf .router).any (fun c => c.cause == .kindMismatch)) = true := by decide +kernel

/-! ### Hypotheses can be met -/

/-! Each theorem shows, for a statement or a clause of one, a state and operands that meet all of its
hypotheses together. -/

theorem answered_nil (n : Nat) : Answered [] n := by intro a h; simp at h

/-- Memory answers one cycle of the Engine HARD, after so many DONE. -/
def hardAt (n : Nat) : List MemAnswer := List.replicate n { hard := false } ++ [{ hard := true }]

theorem hardAt_answered (n : Nat) : Answered (hardAt n) n ∧ ¬Answered (hardAt n) (n + 1) := by
  constructor
  · intro a h
    simp only [hardAt, List.take_left' List.length_replicate] at h
    exact (List.mem_replicate.mp h).2 ▸ rfl
  · intro h
    have := h { hard := true } (by simp [hardAt, List.take_of_length_le])
    exact absurd this (by decide)

theorem hardAt_first (n k : Nat) : Answered (hardAt (n + k)) n := by
  intro a h
  have := (hardAt_answered (n + k)).1 a (by
    have h2 : (hardAt (n + k)).take n = ((hardAt (n + k)).take (n + k)).take n := by
      rw [List.take_take]; simp
    exact List.mem_of_mem_take (h2 ▸ h))
  exact this

theorem hardAt_drop (n k : Nat) : (hardAt (n + k)).drop n = hardAt k := by
  simp only [hardAt, List.replicate_add, List.append_assoc, List.drop_left' List.length_replicate]

/-- A post whose reads memory answers DONE meets the same state, whatever it answers after them. -/
theorem hardAt_waited (s : State) (q : Request) (k : Nat) :
    s.waited (hardAt (3 + k)) 3 = s.waited [] 3 ∧ word1 s (hardAt (3 + k)) q = word1 s [] q := by
  rw [Nat.add_comm]
  exact ⟨rfl, rfl⟩

theorem posted_of {s : State} {ring : CmdRing} {q : Request} (h : (decide (s.mode = .guarded) &&
    decide (s.heldInHand = some (1, q)) && decide (q.cls = postClass ring) &&
    decide ((s.ring ring).slotOf q.addr.toNat = some (s.cursor ring)) &&
    !s.slotNamed ring (s.cursor ring) && decide (16 ≤ (s.ring ring).slots)) = true) :
    Posted s ring 1 q := by
  simp only [Bool.and_eq_true, decide_eq_true_eq, Bool.not_eq_true'] at h
  exact ⟨h.1.1.1.1.1, h.1.1.1.1.2, h.1.1.1.2, h.1.1.2, h.1.2, h.2⟩

theorem reported_of {s : State} {ring : RepRing} {tag : Tag} {q : Request}
    (h : (decide (s.mode = .guarded) && decide (s.heldInHand = some (tag, q)) &&
      decide (q.cls = .report ring)) = true) : Reported s ring tag q := by
  simp only [Bool.and_eq_true, decide_eq_true_eq] at h
  exact ⟨h.1.1, h.1.2, h.2⟩

theorem answers_of {s : State} {ring : RepRing} {q : Request} {i : Fin 32} {e : Entry}
    (h : (decide (s.entryNamed ring.answers (ringAnswered q.data) (ringSequence q.data) = some i) &&
      decide (s.entries.get i = some e) &&
      (s.order.takeWhile (fun j => j != i)).all fun j => (s.entries.get j).all fun f =>
        !(decide (f.ring = ring.answers) && f.awaits)) = true) : Answers s ring q i e := by
  simp only [Bool.and_eq_true, decide_eq_true_eq, List.all_eq_true] at h
  refine ⟨h.1.1, h.1.2, ?_⟩
  intro j hj f hf hfr
  have := h.2 j hj
  simp [hf, hfr.1, hfr.2] at this

theorem fetched_hit {s : State} {b : BoardRef} {i : Fin 64} {l : CacheLine} (a : List MemAnswer)
    (h : s.lineOf b = some i ∧ s.cache.get i = some l) :
    Fetched s a b l { s with recency := i :: s.recency.erase i } a := by
  simp only [Fetched, Run.lookup, Run.start, h.1, h.2, Run.modify]
  rfl

/-- No entry fails a test. -/
theorem entries_all {s : State} {p : Entry → Bool}
    (h : ((List.finRange 32).all fun i => (s.entries.get i).all p) = true) :
    ∀ i e, s.entries.get i = some e → p e = true := by
  intro i e he
  have := (List.all_eq_true.mp h) i (List.mem_finRange i)
  simpa [he] using this

theorem unnamed_of {s : State} {b : BoardRef}
    (h : ((List.finRange 32).all fun i => (s.entries.get i).all fun e => e.board != b) = true) :
    Unnamed s b := fun i e he => by simpa using entries_all h i e he

/-- Each entry stands for its ring, and pairs in flight are linked. -/
def linked (s : State) : Bool :=
  (List.finRange 32).all fun i => (s.entries.get i).all fun e =>
    decide (e.ring = e.kind.ring) && (!e.inFlight || !decide (e.kind = .place ∨ e.kind = .present) ||
      e.partner.any fun j => (s.entries.get j).any fun f =>
        decide (f.partner = some i ∧ f.kind = (if e.kind = .place then .present else .place) ∧
          f.state = e.state ∧ f.board = e.board ∧ f.dest = e.dest ∧ e.dest.isSome = true ∧
          (e.cup.isSome = true ↔ e.kind = .place)))

theorem linked_of {s : State} (h : linked s = true) : PairsLinked s := by
  intro i e he
  have := (List.all_eq_true.mp h) i (List.mem_finRange i)
  rw [he] at this
  simp only [Option.all_some, Bool.and_eq_true, decide_eq_true_eq, Bool.or_eq_true, Bool.not_eq_true',
    decide_eq_false_iff_not, Option.any_eq_true] at this
  refine ⟨this.1, fun hf hk => ?_⟩
  rcases this.2 with (h1 | h1) | ⟨j, hj, f, hf', h2⟩
  · exact absurd hf (by simp [h1])
  · exact absurd hk h1
  · exact ⟨j, f, hj, hf', h2⟩

/-- A judgement has passed. -/
def isPass {α : Type} : Judged α → Bool
  | .pass _ => true
  | _ => false

theorem pass_of {α : Type} {j : Judged α} (h : isPass j = true) : ∃ x, j = .pass x := by
  cases j <;> simp_all [isPass]

/-- A passed judgement's run has collected nothing for the end of the request. -/
def passesClean (x : Option (Option Selection × Run)) (placed : Bool) : Bool :=
  x.any fun p => p.1.isSome == placed && p.2.images.isEmpty && p.2.empties.isEmpty &&
    p.2.events.isEmpty && !p.2.lanes

theorem passes_of {x : Option (Option Selection × Run)} {placed : Bool}
    (h : passesClean x placed = true) :
    ∃ sel v rest, x = some (sel, Run.start v rest) ∧ sel.isSome = placed := by
  rcases x with _ | ⟨sel, ⟨v, rest, images, empties, events, lanes⟩⟩
  · simp [passesClean] at h
  · simp only [passesClean, Option.any_some, Bool.and_eq_true, List.isEmpty_iff, beq_iff_eq,
      Bool.not_eq_true'] at h
    obtain ⟨⟨⟨⟨h1, h2⟩, h3⟩, h4⟩, h5⟩ := h
    subst h2 h3 h4 h5
    exact ⟨sel, v, rest, rfl, h1⟩

theorem witness_StepRunsFrontCommand :
    ({ cell with pending := [.timebase, .resetN] } : State).pending = .timebase :: [.resetN] ∧
      cell.pending = [] := ⟨rfl, rfl⟩

theorem witness_OnlyAnOutstandingTagStops :
    (cycleTag (.passRead 3 0 .b1) = some 3 ∧
      ({ cell with masters := cell.masters.set 3 .waiting } : State).masters.get 3 = .waiting) ∧
    (cycleTag (.passRead 3 0 .b1) = some 3 ∧ cell.masters.get 3 ≠ .waiting) ∧
    ∀ tag, cycleTag .timebase ≠ some tag := by
  refine ⟨by decide +kernel, by decide +kernel, ?_⟩
  intro tag h
  cases h

theorem witness_TimebaseMakesEntriesDue : (posted cell .router 1 0).engine ≠ .idle := by decide +kernel

theorem witness_PassedCycleWaitsAtThePort_read :
    (cell.masters.get 5 ≠ .waiting ∧ Cycle.aligned ⟨5, 0x40002, .b2, .read⟩ = true ∧
      cell.mode = .guarded ∧ cell.roleOf 5 ≠ .none ∧
      ∀ b word, cell.regionOf 0x40002 ≠ .board b word) ∧
    (State.reset.masters.get 0 ≠ .waiting ∧ Cycle.aligned ⟨0, 0xFFFFFFF8, .b8, .read⟩ = true ∧
      State.reset.mode = .openPath) := by
  refine ⟨⟨by decide +kernel, by decide, by decide, by decide, ?_⟩, by decide +kernel⟩
  intro b word
  rw [show cell.regionOf 0x40002 = .elsewhere from by decide +kernel]
  exact fun h => nomatch h

theorem witness_PassedCycleWaitsAtThePort_write :
    (Cycle.aligned ⟨0, 0x808, .b8, .write 1⟩ = true ∧ State.reset.mode = .openPath ∧
      rootRegion (0x808 : Addr).toNat ≠ some .loadWord) ∧
    WritePasses cell 5 0x40000 .b8 1 ∧ WritePasses cell 1 0x9C7 .b1 1 ∧
    WritePasses cell 1 0x10000 .b8 2 ∧ WritePasses cell 1 0x1001F .b1 0 ∧
    WritePasses cell 2 0x10800 .b8 0 ∧ WritePasses cell 1 0x109F8 .b4 0 := by
  refine ⟨by decide +kernel, ?_, ?_, ?_, ?_, ?_, ?_⟩
  · simp only [WritePasses, show cell.regionOf 0x40000 = .elsewhere from by decide +kernel]
    decide +kernel
  · simp only [WritePasses, show cell.regionOf 0x9C7 = .rootBody from by decide +kernel]
    decide +kernel
  · simp only [WritePasses, show cell.regionOf 0x10000 = .command .router 0 0 from by decide +kernel]
    decide +kernel
  · simp only [WritePasses, show cell.regionOf 0x1001F = .command .router 0 3 from by decide +kernel]
    decide +kernel
  · simp only [WritePasses, show cell.regionOf 0x10800 = .report .router 0 from by decide +kernel]
    decide +kernel
  · simp only [WritePasses, show cell.regionOf 0x109F8 = .report .router 3 from by decide +kernel]
    decide +kernel

theorem witness_PassedCycleWaitsAtThePort_board :
    (with0 held2).masters.get 5 ≠ .waiting ∧ (with0 held2).mode = .guarded ∧
      (with0 held2).roleOf 5 ≠ .none ∧ Cycle.aligned ⟨5, 0x30000, .b8, .read⟩ = true ∧
      (with0 held2).regionOf 0x30000 = .board (board 0) 0 ∧
      (with0 held2).cached (board 0) = some (line 0 held2) ∧
      (with0 held2).regionOf 0x3007F = .board (board 3) 3 ∧
      (with0 held2).cached (board 3) = none := by decide +kernel

theorem witness_GuardRefusalKeepsTheLastCycle :
    (State.reset.masters.get 5 ≠ .waiting ∧ Cycle.aligned ⟨5, 0x1001, .b2, .read⟩ = false ∧
      State.reset.mode = .openPath ∧ cell.masters.get 5 ≠ .waiting ∧ cell.mode = .guarded) ∧
    GuardRow cell ⟨0, 0x40000, .b8, .read⟩ ∧ GuardRow cell ⟨1, 0x1001, .b2, .write 0⟩ ∧
    GuardRow cell ⟨2, 0x800, .b8, .write 0⟩ ∧ GuardRow cell ⟨1, 0x10600, .b8, .write 0⟩ ∧
    GuardRow cell ⟨2, 0x10A00, .b8, .write 0⟩ := by
  refine ⟨by decide +kernel, Or.inl (by decide), Or.inr (Or.inl (by decide)),
    Or.inr (Or.inr ⟨⟨0, rfl⟩, ?_⟩), Or.inr (Or.inr ⟨⟨0, rfl⟩, ?_⟩), Or.inr (Or.inr ⟨⟨0, rfl⟩, ?_⟩)⟩
  · simp only [show cell.regionOf 0x800 = .loadWord from by decide +kernel]
    decide
  · simp only [show cell.regionOf 0x10600 = .command .stacker 0 0 from by decide +kernel]
    decide
  · simp only [show cell.regionOf 0x10A00 = .report .picker 0 from by decide +kernel]
    decide

theorem witness_PathRefusalIsCapturedOrEscalated_by_region :
    PathRefused cell 1 0x800 .b4 0 .narrowWrite ∧ PathRefused cell 1 0x20100 .b1 0 .narrowWrite ∧
    PathRefused cell 1 0x20028 .b2 0 .narrowWrite ∧ PathRefused cell 1 0x20000 .b8 0 .imageWrite ∧
    PathRefused cell 2 0x10800 .b4 1 .narrowWrite ∧ PathRefused cell 1 0x10800 .b8 1 .reportForged ∧
    PathRefused cell 1 0x30008 .b4 0 .narrowWrite ∧
    PathRefused cell 1 0x30000 .b8 0 .protectedField := by
  refine ⟨?_, ?_, ?_, ?_, ?_, ?_, ?_, ?_⟩
  · simp only [PathRefused, show cell.regionOf 0x800 = .loadWord from by decide +kernel]
    decide
  · simp only [PathRefused, show cell.regionOf 0x20100 = .captureWord .proc from by decide +kernel]
    decide
  · simp only [PathRefused, show cell.regionOf 0x20028 = .flagClearWord from by decide +kernel]
    decide
  · simp only [PathRefused, show cell.regionOf 0x20000 = .imageOther from by decide +kernel]
    decide
  · simp only [PathRefused, show cell.regionOf 0x10800 = .report .router 0 from by decide +kernel]
    decide
  · simp only [PathRefused, show cell.regionOf 0x10800 = .report .router 0 from by decide +kernel]
    decide
  · simp only [PathRefused, show cell.regionOf 0x30008 = .board (board 0) 1 from by decide +kernel]
    decide
  · simp only [PathRefused, show cell.regionOf 0x30000 = .board (board 0) 0 from by decide +kernel]
    decide

/-- An entry names slot 0 of the router ring. -/
def named0 : State := withEntry cell 3 (entry .router .cut 0 .isOpen)

theorem witness_PathRefusalIsCapturedOrEscalated_in_a_command_ring :
    PathRefused cell 1 0x10000 .b4 1 .narrowWrite ∧ PathRefused named0 1 0x10000 .b8 0 .slotInUse ∧
    PathRefused named0 1 0x10018 .b1 0 .slotInUse := by
  refine ⟨?_, ?_, ?_⟩
  · simp only [PathRefused, show cell.regionOf 0x10000 = .command .router 0 0 from by decide +kernel]
    decide +kernel
  · simp only [PathRefused, show named0.regionOf 0x10000 = .command .router 0 0 from by decide +kernel]
    decide +kernel
  · simp only [PathRefused, show named0.regionOf 0x10018 = .command .router 0 3 from by decide +kernel]
    decide +kernel

theorem witness_PathRefusalIsCapturedOrEscalated_openPath :
    State.reset.masters.get 0 ≠ .waiting ∧ State.reset.mode = .openPath ∧
      Cycle.aligned ⟨0, 0x800, .b4, .write 1⟩ = true ∧ Cycle.aligned ⟨0, 0x807, .b1, .write 1⟩ = true ∧
      rootRegion (0x800 : Addr).toNat = some .loadWord ∧ rootRegion (0x807 : Addr).toNat = some .loadWord ∧
      (Size.b4 ≠ .b8 ∧ Size.b1 ≠ .b8) := by decide +kernel

theorem witness_PathRefusalIsCapturedOrEscalated :
    cell.masters.get 1 ≠ .waiting ∧ cell.mode = .guarded ∧
      Cycle.aligned ⟨1, 0x20000, .b8, .write 0⟩ = true ∧ (cell.roleOf 1).source = some .proc ∧
      (cell.roleOf 2).source = some .router ∧ cell.captureOf .proc = none ∧
      (withCaptures cell).captureOf .proc = some someCapture := by decide +kernel

theorem witness_HeldWriteWaitsForTheEngine :
    (cell.masters.get 1 ≠ .waiting ∧ Cycle.aligned ⟨1, 0x10000, .b8, .write 1⟩ = true ∧
      cell.mode = .guarded ∧ cell.engine = .idle ∧ cell.nextPosition = none ∧
      (posted cell .router 1 0).masters.get 2 ≠ .waiting ∧ (posted cell .router 1 0).engine ≠ .idle) ∧
    HeldFor State.reset 0 0x800 0 .load ∧ HeldFor cell 1 0x800 0 .load ∧
    HeldFor cell 1 0x20160 0 (.captureRelease .stacker) ∧ HeldFor cell 1 0x20028 0 .flagClear ∧
    HeldFor cell 1 0x10000 1 (.admission .router) ∧ HeldFor cell 1 0x10400 1 .service ∧
    HeldFor cell 4 0x10C00 1 (.report .stacker) ∧
    HeldFor cell 1 0x30068 0 (.boardEdit (board 3)) := by
  refine ⟨by decide +kernel, ?_, ?_, ?_, ?_, ?_, ?_, ?_, ?_⟩
  · simp only [HeldFor, show State.reset.mode = .openPath from rfl]
    decide
  · simp only [HeldFor, show cell.mode = .guarded from rfl,
      show cell.regionOf 0x800 = .loadWord from by decide +kernel]
    decide
  · simp only [HeldFor, show cell.mode = .guarded from rfl,
      show cell.regionOf 0x20160 = .captureWord .stacker from by decide +kernel]
    decide
  · simp only [HeldFor, show cell.mode = .guarded from rfl,
      show cell.regionOf 0x20028 = .flagClearWord from by decide +kernel]
    decide
  · simp only [HeldFor, show cell.mode = .guarded from rfl,
      show cell.regionOf 0x10000 = .command .router 0 0 from by decide +kernel]
    decide
  · simp only [HeldFor, show cell.mode = .guarded from rfl,
      show cell.regionOf 0x10400 = .command .service 0 0 from by decide +kernel]
    decide
  · simp only [HeldFor, show cell.mode = .guarded from rfl,
      show cell.regionOf 0x10C00 = .report .stacker 0 from by decide +kernel]
    decide
  · simp only [HeldFor, show cell.mode = .guarded from rfl,
      show cell.regionOf 0x30068 = .board (board 3) 1 from by decide +kernel]
    decide

/-- A cycle waits in the pass-through source. -/
def passing (op : BusOp) : State :=
  { cell with masters := cell.masters.set 5 .waiting, pass := cell.pass.set 5 (some ⟨5, 0x40000, .b8, op⟩) }

theorem witness_PassThroughReachesMemory :
    (((passing .read).scan 0).granted false = some .pass ∧ ((passing .read).scan 0).nextPass = some 5 ∧
      (passing .read).pass.get 5 = some ⟨5, 0x40000, .b8, .read⟩) ∧
    (((passing (.write 7)).scan 64).granted false = some .pass ∧
      ((passing (.write 7)).scan 64).nextPass = some 5 ∧
      (passing (.write 7)).pass.get 5 = some ⟨5, 0x40000, .b8, .write 7⟩) := by decide +kernel

/-- The status block is at the front of the image queue; the Engine and a refusal wait for it. -/
def imaging (engineWaits : List ImageId) : State :=
  { cell with
    masters := (cell.masters.set 1 .waiting).set 2 .waiting
    images := [.status, .nest .a]
    waits := [⟨2, .hard, [.status]⟩]
    engine := .finishing ⟨1, .done, engineWaits⟩ }

theorem witness_ImageWriteCarriesTheRecordAsItStands :
    ((imaging [.status]).mode = .guarded ∧ (imaging [.status]).granted false = some .image ∧
      (imaging [.status]).images = .status :: [.nest .a] ∧
      (imaging [.status]).imageBase = some 0x20000 ∧
      (⟨2, .hard, [.status]⟩ : Wait) ∈ (imaging [.status]).waits ∧
      [ImageId.status].erase .status = [] ∧
      (imaging [.nest .a, .status]).granted false = some .image ∧
      [ImageId.nest .a, .status].erase .status ≠ []) ∧
    OneCyclePerTag (imaging [.status]) ∧ OneCyclePerTag (imaging [.nest .a, .status]) := by
  refine ⟨by decide +kernel, ?_, ?_⟩ <;> unfold OneCyclePerTag <;> decide +kernel

/-- A post in hand while a plain read waits at the port. -/
def crowded : State :=
  { posted cell .router 1 0 with pass := cell.pass.set 5 (some ⟨5, 0x40000, .b8, .read⟩) }

theorem witness_PortGrantsInRotation :
    (imaging []).granted false = some .image ∧
      (imaging []).portLast.following = [.pass, .engine, .walker] ++ .image :: [] ∧
      crowded.engine = .serving 1 ∧ crowded.granted true = some .pass ∧
      (crowded.yieldPort 1).granted true = some .engine ∧
      (crowded.yieldPort 3).masters.get 5 = .answered .done (some 0) := by decide +kernel

/-- A post whose address is another slot than the cursor. -/
def misplaced (trial : Bool) : Request := { post cell .router 1 trial with addr := 0x10060 }

theorem witness_PrefixRefusesInOrder :
    (let s := posted cell .router 2 0
      let q := post cell .router 2 false;
      s.mode = .guarded ∧ s.heldInHand = some (1, q) ∧ q.cls = postClass .router ∧
        CmdRing.router ≠ .stacker ∧ ringTrial q.data = false ∧ postRow .router q.data [] = none) ∧
    (let s := inHand cell 1 (misplaced false) 0;
      s.mode = .guarded ∧ s.heldInHand = some (1, misplaced false) ∧
        (misplaced false).cls = postClass .router ∧ ringTrial (misplaced false).data = false ∧
        postRow .router (misplaced false).data [] = some (.cut []) ∧
        (s.ring .router).slotOf (misplaced false).addr.toNat ≠ some (s.cursor .router)) ∧
    (let s := posted named0 .router 1 0
      let q := post cell .router 1 false;
      s.mode = .guarded ∧ s.heldInHand = some (1, q) ∧
        postRow .router q.data [] = some (.cut []) ∧
        (s.ring .router).slotOf q.addr.toNat = some (s.cursor .router) ∧
        s.slotNamed .router (s.cursor .router) = true) := by decide +kernel

theorem witness_PrefixRefusesInOrder_trial :
    (let s := inHand cell 1 (misplaced true) 0;
      s.mode = .guarded ∧ s.heldInHand = some (1, misplaced true) ∧
        (misplaced true).cls = postClass .router ∧ ringTrial (misplaced true).data = true ∧
        postRow .router (misplaced true).data [] = some (.trialCommand []) ∧
        (s.ring .router).slotOf (misplaced true).addr.toNat ≠ some (s.cursor .router)) ∧
    (ringTrial (post cell .router 2 true).data = true ∧
      postRow .router (post cell .router 2 true).data [] = none) := by decide +kernel

theorem witness_FailedReadAbandonsTheRequest :
    (∀ k, Answered (hardAt k) k ∧ ¬Answered (hardAt k) (k + 1)) ∧
    ((posted cell .router 1 0).mode = .guarded ∧
      (posted cell .router 1 0).heldInHand = some (1, post cell .router 1 false) ∧
      (post cell .router 1 false).cls = postClass .router ∧
      servedBy .router (post cell .router 1 false).data (hardAt 2) = .cut (hardAt 2) ∧
      (posted cell .router 2 0).heldInHand = some (1, post cell .router 2 false) ∧
      servedBy .router (post cell .router 2 false).data (hardAt 0) = .badKindPost (hardAt 0)) ∧
    ((reported cell .router (reportWord 33) 0).mode = .guarded ∧
      (reported cell .router (reportWord 33) 0).heldInHand =
        some (2, report .router (reportWord 33)) ∧
      (report .router (reportWord 33)).cls = .report .router) ∧
    ((loading cell 8 (some .proc)).heldInHand = some (1, loadWrite 8 (some .proc)) ∧
      (loadWrite 8 (some .proc)).role ≠ none ∧ 3 < bodySize (loadWrite 8 (some .proc)) ∧
      (loading State.reset 8 none).heldInHand = some (1, loadWrite 8 none) ∧
      (loading State.reset 8 none).mode = .openPath) :=
  ⟨hardAt_answered, by decide +kernel, by decide +kernel, by decide +kernel⟩

/-- A CUT of board 3, which no entry of the cache holds. -/
def missing3 : State := posted cell .router 1 (onBoard 3 0 0 0 3)

/-- A RESOLVE of board 3. -/
def resolving3 : State := posted cell .service 24 (onBoard 3 0 0 0 0)

theorem witness_FailedReadAbandonsTheRequest_fill :
    (Posted missing3 .router 1 (post cell .router 1 false) ∧ Answered (hardAt 6) 3 ∧
      FetchesBoard missing3 .cut (word1 missing3 (hardAt 6) (post cell .router 1 false)) (board 3) ∧
      FillFails (missing3.waited (hardAt 6) 3) ((hardAt 6).drop 3) (board 3) (missing3.waited (hardAt 6) 7)
        []) ∧
    (Posted (posted holding .picker 3 (onBoard 0 2 31 0 0)) .picker 1 (post cell .picker 3 false) ∧
      FetchesBoard (posted holding .picker 3 (onBoard 0 2 31 0 0)) .place (onBoard 0 2 31 0 0) (board 0)) ∧
    (Posted resolving3 .service 1 (post cell .service 24 false) ∧
      ResolveLooksUp resolving3 (word1 resolving3 (hardAt 3) (post cell .service 24 false)) (board 3) ∧
      FillFails (resolving3.waited (hardAt 3) 3) ((hardAt 3).drop 3) (board 3)
        (resolving3.waited (hardAt 3) 4) []) :=
  ⟨⟨posted_of (by decide +kernel), hardAt_first 3 3, by unfold FetchesBoard; decide +kernel, rfl⟩,
    ⟨posted_of (by decide +kernel), ⟨2, by decide +kernel⟩⟩, posted_of (by decide +kernel),
    by unfold ResolveLooksUp TargetNamed; decide +kernel, rfl⟩

theorem witness_FailedWriteAbandonsTheRequest :
    (∀ k, Answered (hardAt k) k ∧ ¬Answered (hardAt k) (k + 1)) ∧
    (Posted (posted cell .service 16 0) .service 1 (post cell .service 16 false) ∧
      serviceKind (ringKind (post cell .service 16 false).data) = some .nestStop ∧
      ringTrial (post cell .service 16 false).data = false ∧
      servicePasses .nestStop (word1 (posted cell .service 16 0) (hardAt (3 + 1)) (post cell .service 16 false))
        ((posted cell .service 16 0).waited (hardAt (3 + 1)) 3)) ∧
    Reported (reported cutting .router (reportWord 33) 2) .router 2 (report .router (reportWord 33)) ∧
    (let s := loading unloadedCell 8 (some .proc)
      let q := loadWrite 8 (some .proc);
      s.heldInHand = some (1, q) ∧ q.cls = .load ∧ s.mode = .guarded ∧ q.role ≠ none ∧ bodySize q = 4 ∧
        (loadRead s (hardAt 4) q).judgeLoad (bodyOf s (hardAt 4) q) = none) ∧
    (let s := loading State.reset 7 none
      let q := loadWrite 7 none;
      s.heldInHand = some (1, q) ∧ s.mode = .openPath ∧ bodySize q = 10 ∧
        (loadRead s (hardAt 10) q).judgeLoad (bodyOf s (hardAt 10) q) = none) ∧
    (let q := written (.boardEdit (board 0)) 0x30008 0
      let s := inHand (with0 (hw 0 .free 15)) 1 q 0;
      s.heldInHand = some (1, q) ∧ (s.nest .a).state ≠ .loading ∧ Unnamed s (board 0) ∧
        bits q.data 0 2 ≤ 2 ∧ bit q.data 16 = false) :=
  ⟨hardAt_answered, ⟨posted_of (by decide +kernel), by decide, by decide, pass_of (by decide +kernel)⟩,
    reported_of (by decide +kernel), by decide +kernel, by decide +kernel, by decide +kernel,
    by decide +kernel, unnamed_of (by decide +kernel), by decide +kernel⟩

theorem witness_CutAndPickAreRefusedInOrder (x : NestState) (h : x ≠ .active) :
    Posted (posted (withNestA cell fun c => { c with state := x }) .router 1 0) .router 1
        (post cell .router 1 false) ∧
      physicalKind .router (ringKind (post cell .router 1 false).data) = some .cut ∧
      postRow .router (post cell .router 1 false).data [] = some (.cut []) ∧
      postRow .router (post cell .router 1 true).data [] = some (.trialCommand []) ∧
      ∃ cause, NestRefuses (posted (withNestA cell fun c => { c with state := x }) .router 1 0)
        (word1 (posted (withNestA cell fun c => { c with state := x }) .router 1 0) []
          (post cell .router 1 false)) cause := by
  cases x <;> first
    | exact absurd rfl h
    | exact ⟨posted_of (by decide +kernel), by decide, by decide, by decide, _, rfl⟩

theorem witness_CutAndPickAreRefusedInOrder_range :
    (Posted (posted cell .picker 2 2) .picker 1 (post cell .picker 2 false) ∧
      physicalKind .picker (ringKind (post cell .picker 2 false).data) = some .pick ∧
      postRow .picker (post cell .picker 2 false).data [] = some (.pick []) ∧
      NestRefuses (posted cell .picker 2 2) (word1 (posted cell .picker 2 2) [] (post cell .picker 2 false))
        .positionRange) ∧
    (Posted (posted cell .picker 2 (onBoard 4 0 0 0 0)) .picker 1 (post cell .picker 2 false) ∧
      NestRefuses (posted cell .picker 2 (onBoard 4 0 0 0 0))
        (word1 (posted cell .picker 2 (onBoard 4 0 0 0 0)) [] (post cell .picker 2 false))
        .positionRange) :=
  ⟨⟨posted_of (by decide +kernel), by decide, by decide, rfl⟩, posted_of (by decide +kernel),
    show _ ∧ _ from ⟨by decide +kernel, rfl⟩⟩

/-- A CUT of board 0, which is HELD. -/
def cutHeld : State := posted (with0 (hw 0 .held 15)) .router 1 (onBoard 0 0 0 0 3)

/-- A PICK of board 0, which is FREE, with cup 4, or with a cup in a state. -/
def pickWith (c : Nat) (x : CupState) : State :=
  posted { with0 (hw 0 .free 15) with cups := cell.cups.set 3 ⟨x, some (board 1)⟩ } .picker 2
    (onBoard 0 c 0 0 0)

theorem witness_CutAndPickAreRefusedInOrder_board :
    let free := line 0 (hw 0 .free 15)
    let q := post cell .picker 2 false
    (Posted cutHeld .router 1 (post cell .router 1 false) ∧
      FetchesBoard cutHeld .cut (word1 cutHeld [] (post cell .router 1 false)) (board 0) ∧
      Fetched (cutHeld.waited [] 3) [] (board 0) (line 0 (hw 0 .held 15)) (found cutHeld) [] ∧
      FirstFails (cutTable (found cutHeld) (line 0 (hw 0 .held 15))
        (word1 cutHeld [] (post cell .router 1 false))) .boardGone) ∧
    (Posted (pickWith 4 .empty) .picker 1 q ∧
      FetchesBoard (pickWith 4 .empty) .pick (word1 (pickWith 4 .empty) [] q) (board 0) ∧
      Fetched ((pickWith 4 .empty).waited [] 3) [] (board 0) free (found (pickWith 4 .empty)) [] ∧
      FirstFails (pickTable (found (pickWith 4 .empty)) free (word1 (pickWith 4 .empty) [] q)) .cupRange) ∧
    (Posted (pickWith 3 .loaded) .picker 1 q ∧ cmdCup (word1 (pickWith 3 .loaded) [] q) = (3 : Fin 4).val ∧
      Fetched ((pickWith 3 .loaded).waited [] 3) [] (board 0) free (found (pickWith 3 .loaded)) [] ∧
      AllHold (pickTable (found (pickWith 3 .loaded)) free (word1 (pickWith 3 .loaded) [] q)) ∧
      FirstFails (pickCupTable (found (pickWith 3 .loaded)) .a 3) .cupBusy) := by
  refine ⟨⟨posted_of (by decide +kernel), by unfold FetchesBoard; decide +kernel,
      fetched_hit [] (by decide +kernel), ?_⟩,
    ⟨posted_of (by decide +kernel), by unfold FetchesBoard; decide +kernel,
      fetched_hit [] (by decide +kernel), ?_⟩,
    posted_of (by decide +kernel), by decide +kernel, fetched_hit [] (by decide +kernel), ?_, ?_⟩
  · exact Or.inr ⟨unnamed_of (by decide +kernel), Or.inr ⟨by decide +kernel, Or.inr ⟨by decide +kernel,
      Or.inr ⟨by decide +kernel, Or.inl ⟨fun h => h (by unfold Away; decide +kernel), rfl⟩⟩⟩⟩⟩
  · refine Or.inr ⟨unnamed_of (by decide +kernel), ?_⟩
    simp only [FirstFails, Away]
    decide +kernel
  · refine ⟨unnamed_of (by decide +kernel), ?_⟩
    simp only [AllHold, Away]
    decide +kernel
  · refine Or.inl ?_
    decide +kernel

/-- A PLACE or DISCARD of cup 3, in a state. -/
def putWith (kind : Nat) (x : CupState) : State :=
  posted { cell with cups := cell.cups.set 3 ⟨x, some (board 0)⟩ } .picker kind (onBoard 0 3 31 0 0)

theorem witness_PlaceAndDiscardAreRefusedInOrder (x : CupState) :
    Posted (putWith 3 x) .picker 1 (post cell .picker 3 false) ∧
      Posted (putWith 4 x) .picker 1 (post cell .picker 4 false) ∧
      physicalKind .picker (ringKind (post cell .picker 3 false).data) = some .place ∧
      physicalKind .picker (ringKind (post cell .picker 4 false).data) = some .discard ∧
      LanesSettled (putWith 3 x) ∧ LanesSettled (putWith 4 x) ∧
      cmdCup (word1 (putWith 3 x) [] (post cell .picker 3 false)) = (3 : Fin 4).val ∧
      ((putWith 3 x).cups.get 3).state = x := by
  refine ⟨posted_of ?_, posted_of ?_, by decide, by decide, ?_, ?_, ?_, ?_⟩ <;>
    (try unfold LanesSettled) <;> cases x <;> decide +kernel

/-- A PLACE or DISCARD of board 0, LOADED in cup 2, where nest A is in a state and the cache holds nothing. -/
def putAway (x : NestState) : State :=
  posted { withNestA cell (fun c => { c with state := x }) with
    cups := cell.cups.set 2 ⟨.loaded, some (board 0)⟩ } .picker 3 (onBoard 0 2 31 0 0)

/-- A PLACE of board 0, an XOUT in a nest whose policy discards it. -/
def placeXout : State :=
  posted { withNestA (cached cell 0 ⟨board 0, { record held2 with w1 := 1 }, false, false⟩)
      (fun c => { c with descriptor := some { panel with policy := .discard } }) with
    cups := cell.cups.set 2 ⟨.loaded, some (board 0)⟩ } .picker 3 (onBoard 0 2 31 0 0)

/-- A PLACE of board 0 to lane 5, where its own is lane 0. -/
def placeAstray : State := posted holding .picker 3 (onBoard 0 2 5 0 0)

/-- A DISCARD of board 0, which is GOOD. -/
def discardGood : State := posted holding .picker 4 (onBoard 0 2 0 0 0)

theorem witness_PlaceAndDiscardAreRefusedInOrder_board :
    let q := post cell .picker 3 false
    let xout : CacheLine := ⟨board 0, { record held2 with w1 := 1 }, false, false⟩
    4 ≤ cmdCup (word1 (posted cell .picker 3 (onBoard 0 4 31 0 0)) [] q) ∧
    (Posted (putAway .illegal) .picker 1 q ∧ LanesSettled (putAway .illegal) ∧
      (putAway .illegal).cups.get 2 = ⟨.loaded, some (board 0)⟩ ∧
      ((putAway .illegal).waited [] 3).lineOf (board 0) = none ∧
      NotCachedRefuses ((putAway .illegal).nest .a).state .nestIllegal) ∧
    (Posted placeXout .picker 1 q ∧ LanesSettled placeXout ∧
      Fetched (placeXout.waited [] 3) [] (board 0) xout (found placeXout) [] ∧
      FirstFails (placeGradeTable (found placeXout) xout) .xoutDiscard) ∧
    (Posted placeAstray .picker 1 q ∧ LanesSettled placeAstray ∧
      Fetched (placeAstray.waited [] 3) [] (board 0) (line 0 held2) (found placeAstray) [] ∧
      AllHold (placeGradeTable (found placeAstray) (line 0 held2)) ∧
      FirstFails (placeLaneTable (found placeAstray) (line 0 held2) (word1 placeAstray [] q))
        .laneMismatch) ∧
    (Posted discardGood .picker 1 (post cell .picker 4 false) ∧ LanesSettled discardGood ∧
      Fetched (discardGood.waited [] 3) [] (board 0) (line 0 held2) (found discardGood) [] ∧
      FirstFails (discardTable (found discardGood) (line 0 held2)) .goodBoard) := by
  refine ⟨by decide +kernel, ⟨posted_of (by decide +kernel), ?_, by decide +kernel, by decide +kernel, ?_⟩,
    ⟨posted_of (by decide +kernel), ?_, fetched_hit [] (by decide +kernel), Or.inl (by decide +kernel)⟩,
    ⟨posted_of (by decide +kernel), ?_, fetched_hit [] (by decide +kernel), ?_,
      Or.inl (by decide +kernel)⟩,
    posted_of (by decide +kernel), ?_, fetched_hit [] (by decide +kernel), Or.inl (by decide +kernel)⟩
  all_goals first
    | (unfold LanesSettled; decide +kernel)
    | exact ⟨by decide +kernel, trivial⟩
    | exact Or.inr (Or.inr (Or.inl ⟨rfl, rfl⟩))

/-- Every entry holds a board of nest B, number 5 the least recent, and dirty. -/
def full : State :=
  { cell with
    cache := Table.ofFn fun i => some ⟨⟨.b, i.val⟩, record (hw i.val .free 15), i.val == 5, false⟩
    recency := (List.finRange 64).filter (fun i => i != 5) ++ [5] }

/-- The Engine has a request in hand and every entry of the cache is taken. -/
def fullAsked : State := { full with engine := .serving 1 }

theorem witness_LookupHitsOrFills :
    (RecencyListed (with0 held2) ∧ RecencyListed State.reset ∧ RecencyListed (posted cell .router 1 0) ∧
      RecencyListed fullAsked ∧ Answered [] 7) ∧
    ((with0 held2).lineOf (board 0) = some 0 ∧ (with0 held2).cache.get 0 = some (line 0 held2)) ∧
    (State.reset.lineOf (board 0) = none ∧ (State.reset.nest .a).state.loaded = false) ∧
    (let s := posted cell .router 1 0;
      s.engine = .serving 1 ∧ s.lineOf (board 3) = none ∧ (s.nest .a).state.loaded = true ∧
        s.victim = some 0 ∧ s.cache.get 0 = none) ∧
    (fullAsked.lineOf (board 0) = none ∧ (fullAsked.nest .a).state.loaded = true ∧
      fullAsked.victim = some 5 ∧ (fullAsked.cache.get 5).any (fun l => l.dirty) = true) ∧
    ∀ k, Answered (hardAt k) k ∧ ¬Answered (hardAt k) (k + 1) := by
  refine ⟨⟨?_, ?_, ?_, ?_, answered_nil 7⟩, ?_, ?_, ?_, ?_, hardAt_answered⟩ <;>
    (try unfold RecencyListed) <;> decide +kernel

theorem witness_EffectiveSpanBoundsTheUncutTabs :
    effectiveSpan ⟨0, 3⟩ 5 = some ⟨1, 1⟩ ∧ effectiveSpan ⟨0, 2⟩ 3 = none := by decide

/-! ### Admissions -/

/-- A CUT of board 0. -/
def cutPosted : State := posted (with0 (hw 0 .partCut 2)) .router 1 (onBoard 0 0 0 0 3)

theorem witness_CutIsAdmitted :
    Posted cutPosted .router 1 (post cell .router 1 false) ∧
    postRow .router (post cell .router 1 false).data [] = some (.cut []) ∧ Answered [] 3 ∧
    Fetched (cutPosted.waited [] 3) [] (board 0) (line 0 (hw 0 .partCut 2)) (found cutPosted) [] ∧
    (let s := cutPosted
      let q := post cell .router 1 false
      let v := found cutPosted
      let l := line 0 (hw 0 .partCut 2)
      Nest.ofCode (cmdNest (word1 s [] q)) = some (board 0).nest ∧
        (board 0).pos = cmdPosition (word1 s [] q) ∧ (s.nest (board 0).nest).state = .active ∧
        (board 0).pos < s.boardCount (board 0).nest ∧ v.boardBusy (board 0) = false ∧
        v.effectiveHold l ≠ .locked ∧ l.words.hw.state = .partCut ∧
        1 ≤ (cmdSpan (word1 s [] q)).count ∧
        (cmdSpan (word1 s [] q)).first + (cmdSpan (word1 s [] q)).count ≤ l.words.hw.tabs ∧
        effectiveSpan (cmdSpan (word1 s [] q)) l.words.hw.cutMask = some ⟨0, 3⟩ ∧
        (v.nest (board 0).nest).claim ≠ .picker ∧ v.freeEntries = 0 :: (List.finRange 32).tail ∧
        (foundAfter s [(q.word 2, cutTranslation ⟨0, 3⟩), (q.word 3, verdictAdmitted (some 0) v.time),
          (q.word 0, q.data)]).cached (board 0) = some l) :=
  ⟨posted_of (by decide +kernel), by decide, answered_nil 3, fetched_hit [] (by decide +kernel),
    by decide +kernel⟩

/-- A PICK of board 0 with cup 3. -/
def pickPosted : State := posted (with0 (hw 0 .free 15)) .picker 2 (onBoard 0 3 0 0 0)

theorem witness_PickIsAdmitted :
    Posted pickPosted .picker 1 (post cell .picker 2 false) ∧
    postRow .picker (post cell .picker 2 false).data [] = some (.pick []) ∧ Answered [] 3 ∧
    Fetched (pickPosted.waited [] 3) [] (board 0) (line 0 (hw 0 .free 15)) (found pickPosted) [] ∧
    (let s := pickPosted
      let q := post cell .picker 2 false
      let v := found pickPosted
      let l := line 0 (hw 0 .free 15)
      Nest.ofCode (cmdNest (word1 s [] q)) = some (board 0).nest ∧
        (board 0).pos = cmdPosition (word1 s [] q) ∧ (s.nest (board 0).nest).state = .active ∧
        (board 0).pos < s.boardCount (board 0).nest ∧ v.boardBusy (board 0) = false ∧
        v.effectiveHold l = .isOpen ∧ l.words.hw.state = .free ∧ cmdCup (word1 s [] q) = (3 : Fin 4).val ∧
        (v.cups.get 3).state = .empty ∧ (v.nest (board 0).nest).claim ≠ .router ∧
        v.freeEntries = 0 :: (List.finRange 32).tail ∧
        (foundAfter s [(q.word 3, verdictAdmitted (some 0) v.time), (q.word 0, q.data)]).cached
          (board 0) = some l) :=
  ⟨posted_of (by decide +kernel), by decide, answered_nil 3, fetched_hit [] (by decide +kernel),
    by decide +kernel⟩

/-- A DISCARD of the REJECT in cup 2. -/
def discardPosted : State := posted rejecting .picker 4 (onBoard 0 2 0 0 0)

theorem witness_DiscardIsAdmitted :
    Posted discardPosted .picker 1 (post cell .picker 4 false) ∧
    postRow .picker (post cell .picker 4 false).data [] = some (.discard []) ∧ Answered [] 3 ∧
    Fetched (discardPosted.waited [] 3) [] (board 0) ⟨board 0, { record held2 with w1 := 2 }, false, false⟩
      (found discardPosted) [] ∧
    (let s := discardPosted
      let q := post cell .picker 4 false
      let l : CacheLine := ⟨board 0, { record held2 with w1 := 2 }, false, false⟩
      cmdCup (word1 s [] q) = (2 : Fin 4).val ∧
        s.cups.get 2 = ⟨.loaded, some (board 0)⟩ ∧ boardGrade l.words.w1 ≠ some .good ∧
        l.words.hw.state = .held ∧ (found s).freeEntries = 0 :: (List.finRange 32).tail ∧
        (foundAfter s [(q.word 3, verdictAdmitted (some 0) (found s).time), (q.word 0, q.data)]).cached
          (board 0) = some l) :=
  ⟨posted_of (by decide +kernel), by decide, answered_nil 3, fetched_hit [] (by decide +kernel),
    by decide +kernel⟩

/-- A PLACE of the board in cup 2, its lane left to the part. -/
def placePosted : State := posted holding .picker 3 (onBoard 0 2 31 0 0)

theorem witness_PlaceIsAdmitted :
    Posted placePosted .picker 1 (post cell .picker 3 false) ∧
    postRow .picker (post cell .picker 3 false).data [] = some (.place []) ∧ Answered [] 3 ∧
    Fetched (placePosted.waited [] 3) [] (board 0) (line 0 held2) (found placePosted) [] ∧
    (let s := placePosted
      let q := post cell .picker 3 false
      let v := found placePosted
      let l := line 0 held2
      cmdCup (word1 s [] q) = (2 : Fin 4).val ∧ s.cups.get 2 = ⟨.loaded, some (board 0)⟩ ∧
        l.words.hw.state = .held ∧
        ¬(boardGrade l.words.w1 = some .xout ∧ v.policy (board 0).nest = some .discard) ∧
        cmdLane (word1 s [] q) = laneAuto ∧
        laneKindFits (boardGrade l.words.w1) (v.lanes.get (v.effectiveLane l)).kind = true ∧
        (v.lanes.get (v.effectiveLane l)).state = .isOpen ∧
        v.select (v.effectiveLane l) = some ⟨0, 0, 0, 0, 0x241, 7, 3⟩ ∧
        (v.stations.get 0).magazine = some ⟨0, 0x241, 3, false, [.free, .free, .free]⟩ ∧
        v.slotNamed .stacker (v.cursor .stacker) = false ∧
        v.freeEntries = 0 :: 1 :: ((List.finRange 32).drop 2) ∧ 16 ≤ (s.ring .stacker).slots ∧
        (foundAfter s [((s.ring .stacker).slotAddr (s.cursor .stacker) + 8,
            presentWord1 0 0 0x241 3),
          ((s.ring .stacker).slotAddr (s.cursor .stacker) + 16,
            presentWord2 (board 0) (s.cursor .picker)),
          ((s.ring .stacker).slotAddr (s.cursor .stacker) + 24, verdictAdmitted (some 1) v.time),
          (q.word 2, placeTranslation 0 0 (s.cursor .stacker)),
          (q.word 3, verdictAdmitted (some 0) v.time), (q.word 0, q.data)]).cached (board 0) =
          some l) :=
  ⟨posted_of (by decide +kernel), by decide, answered_nil 3, fetched_hit [] (by decide +kernel),
    by decide +kernel⟩

/-- The hypotheses of the admissions' clauses on a HARD: each statement's state, with memory's answers to the
writes of its post. -/
theorem witness_admissions_answered_hard (k : Nat) :
    Answered (hardAt (3 + k)) 3 ∧ Answered ((hardAt (3 + k)).drop 3) k ∧
    ¬Answered ((hardAt (3 + k)).drop 3) (k + 1) ∧
    (∀ s q, (s : State).waited (hardAt (3 + k)) 3 = s.waited [] 3 ∧
      word1 s (hardAt (3 + k)) q = word1 s [] q) ∧
    (∀ a, Fetched (cutPosted.waited [] 3) a (board 0) (line 0 (hw 0 .partCut 2)) (found cutPosted) a ∧
      Fetched (pickPosted.waited [] 3) a (board 0) (line 0 (hw 0 .free 15)) (found pickPosted) a ∧
      Fetched (discardPosted.waited [] 3) a (board 0) ⟨board 0, { record held2 with w1 := 2 }, false, false⟩
        (found discardPosted) a ∧
      Fetched (placePosted.waited [] 3) a (board 0) (line 0 held2) (found placePosted) a) := by
  refine ⟨hardAt_first 3 k, ?_, ?_, fun s q => hardAt_waited s q k, fun a => ⟨fetched_hit a ?_,
    fetched_hit a ?_, fetched_hit a ?_, fetched_hit a ?_⟩⟩
  · rw [hardAt_drop]; exact (hardAt_answered k).1
  · rw [hardAt_drop]; exact (hardAt_answered k).2
  all_goals decide +kernel

/-- A TRIAL of a PLACE. -/
def placeTried : State := tried holding .picker 3 (onBoard 0 2 31 0 0)

/-- A TRIAL of a CUT. -/
def cutTried : State := tried (with0 (hw 0 .partCut 2)) .router 1 (onBoard 0 0 0 0 3)

theorem witness_TrialIsTriedAndChangesNothing_physical :
    (Posted placeTried .picker 1 (post cell .picker 3 true) ∧
      ringTrial (post cell .picker 3 true).data = true ∧
      postRow .picker (post cell .picker 3 true).data [] = some (.trialCommand []) ∧
      physicalKind .picker (ringKind (post cell .picker 3 true).data) = some .place) ∧
    (∃ sel v rest, physicalPasses .place (word1 placeTried [] (post cell .picker 3 true))
      (Run.start (placeTried.waited [] 3) []) = some (sel, Run.start v rest) ∧ sel.isSome = true) ∧
    (Posted cutTried .router 1 (post cell .router 1 true) ∧
      postRow .router (post cell .router 1 true).data [] = some (.trialCommand [])) ∧
    ∃ sel v rest, physicalPasses .cut (word1 cutTried [] (post cell .router 1 true))
      (Run.start (cutTried.waited [] 3) []) = some (sel, Run.start v rest) ∧ sel.isSome = false :=
  ⟨⟨posted_of (by decide +kernel), by decide, by decide, by decide⟩, passes_of (by decide +kernel),
    ⟨posted_of (by decide +kernel), by decide⟩, passes_of (by decide +kernel)⟩

theorem witness_TrialIsTriedAndChangesNothing_service :
    Posted (tried cell .service 16 0) .service 1 (post cell .service 16 true) ∧
    postRow .service (post cell .service 16 true).data [] = some (.trialServiceCommand []) ∧
    serviceKind (ringKind (post cell .service 16 true).data) = some .nestStop ∧
    servicePasses .nestStop (word1 (tried cell .service 16 0) [] (post cell .service 16 true))
      ((tried cell .service 16 0).waited [] 3) ∧ Answered [] 5 :=
  ⟨posted_of (by decide +kernel), by decide, by decide, pass_of (by decide +kernel), answered_nil 5⟩

/-- A TRIAL of a RESOLVE of board 0 to SCRAPPED. -/
def resolveTried : State := tried unsettled .service 24 (settling 9 0 0 0)

theorem witness_TrialIsTriedAndChangesNothing_resolve (k : Nat) :
    let q := post cell .service 24 true
    let l := line 0 { hw 0 .uncertain 15 with lastCause := some .expired }
    (ringTrial q.data = true ∧ Posted resolveTried .service 1 q ∧
      postRow .service q.data [] = some (.trialServiceCommand []) ∧
      serviceKind (ringKind q.data) = some .resolve) ∧
    ResolveLooksUp resolveTried (word1 resolveTried [] q) (board 0) ∧
    (∀ a, Fetched (resolveTried.waited [] 3) a (board 0) l (found resolveTried) a) ∧
    l.words.hw.state = .uncertain ∧
    Resolves (found resolveTried) (board 0) l (word1 resolveTried [] q) .scrapped ∧
    (Answered [] 5 ∧ Answered (hardAt k) k ∧ ¬Answered (hardAt k) (k + 1)) :=
  ⟨⟨by decide, posted_of (by decide +kernel), by decide, by decide⟩,
    by unfold ResolveLooksUp TargetNamed; decide +kernel, fun a => fetched_hit a (by decide +kernel),
    by decide +kernel, by unfold Resolves; decide +kernel, answered_nil 5, hardAt_answered k⟩

/-! ### Service commands -/

theorem witness_NestStopsAndResumes (x : NestState) :
    Posted (posted (withNestA cell fun c => { c with state := x }) .service 16 0) .service 1
        (post cell .service 16 false) ∧
      Answered [] 5 ∧ postRow .service (post cell .service 16 false).data [] = some (.nestStop []) ∧
      postRow .service (post cell .service 17 false).data [] = some (.nestResume []) ∧
      (let w1 := word1 (posted (withNestA cell fun c => { c with state := x }) .service 16 0) []
          (post cell .service 16 false);
        Nest.ofCode (cmdNest w1) = some .a ∧ cmdCondition w1 = 0) ∧
      ((posted (withNestA cell fun c => { c with state := x }) .service 16 0).nest .a).state = x := by
  refine ⟨?_, answered_nil 5, by decide, by decide, ?_, rfl⟩ <;> cases x <;>
    first | exact posted_of (by decide +kernel) | decide +kernel

/-- Nest A in a state, with a service command in hand, nothing naming the nest. -/
def nestAsked (x : NestState) (kind : Nat) : State :=
  posted (withNestA cell fun c => { c with state := x }) .service kind 0

theorem witness_SyncAndReleaseReachTheWalker :
    (Posted (nestAsked .active 18) .service 1 (post cell .service 18 false) ∧
      postRow .service (post cell .service 18 false).data [] = some (.nestSync []) ∧
      Nest.ofCode (cmdNest (word1 (nestAsked .active 18) [] (post cell .service 18 false))) = some .a) ∧
    (Posted (nestAsked .complete 19) .service 1 (post cell .service 19 false) ∧
      postRow .service (post cell .service 19 false).data [] = some (.nestRelease []) ∧
      Nest.ofCode (cmdNest (word1 (nestAsked .complete 19) [] (post cell .service 19 false))) = some .a) ∧
    (Posted (nestAsked .loading 19) .service 1 (post cell .service 19 false) ∧
      Nest.ofCode (cmdNest (word1 (nestAsked .loading 19) [] (post cell .service 19 false))) = some .a ∧
      ((nestAsked .loading 19).nest .a).state = .loading) ∧
    Answered [] 5 ∧ ((nestAsked .complete 19).jobs = [] ∧ (nestAsked .complete 19).walker = .idle) ∧
    (∀ i, (nestAsked .complete 19).entries.get i = none) ∧
    ∀ c, ((nestAsked .complete 19).cups.get c).ref = none :=
  ⟨⟨posted_of (by decide +kernel), by decide, by decide +kernel⟩,
    ⟨posted_of (by decide +kernel), by decide, by decide +kernel⟩,
    ⟨posted_of (by decide +kernel), by decide +kernel, rfl⟩, answered_nil 5, ⟨rfl, rfl⟩,
    by decide +kernel, by decide +kernel⟩

theorem witness_SyncAndReleaseReachTheWalker_while_loading :
    ({ nestAsked .loading 19 with walker := .running (Job.start (.load .a panel)) } : State).walker =
        .running (Job.start (.load .a panel)) ∧
      (Job.start (.load .a panel)).job = .load .a panel ∧
      ({ nestAsked .loading 19 with walker := .waiting (.load .a .ok 2) } : State).walker =
        .waiting (.load .a .ok 2) := ⟨rfl, rfl, rfl⟩

/-- A LANE_STOP of lane 0. -/
def stopAsked (x : LaneState) (condition notice : Nat) : State :=
  posted (withLane cell (lane x)) .service 20 (onLane 0 condition notice)

theorem witness_LaneStopAndResumeActOnTheLane_stop :
    Posted (stopAsked .isOpen 1 1) .service 1 (post cell .service 20 false) ∧
    postRow .service (post cell .service 20 false).data [] = some (.laneStop []) ∧ Answered [] 5 ∧
    LanesSettled (stopAsked .isOpen 1 1) ∧
    (let w1 := word1 (stopAsked .isOpen 1 1) [] (post cell .service 20 false);
      cmdLane w1 = (0 : Fin 16).val ∧ cmdCondition w1 = StopCondition.atStationEnd.code ∧
        cmdNotice w1 = StopNotice.atDrain.code ∧
        ((stopAsked .isOpen 1 1).lanes.get 0).state ≠ .closed) ∧
    (LanesSettled (stopAsked .stopped 0 0) ∧ LanesSettled (stopAsked .paused 0 0)) := by
  refine ⟨posted_of (by decide +kernel), by decide, answered_nil 5, ?_, by decide +kernel, ?_, ?_⟩ <;>
    unfold LanesSettled <;> decide +kernel

/-- A LANE_RESUME of lane 0. -/
def resumeAsked (x : LaneState) (slots : List SlotState) : State :=
  posted (withSlots (withLane cell (lane x)) slots) .service 21 0

theorem witness_LaneStopAndResumeActOnTheLane_resume :
    Posted (resumeAsked .stopped [.free]) .service 1 (post cell .service 21 false) ∧
    postRow .service (post cell .service 21 false).data [] = some (.laneResume []) ∧ Answered [] 5 ∧
    LanesSettled (resumeAsked .stopped [.free]) ∧
    cmdLane (word1 (resumeAsked .stopped [.free]) [] (post cell .service 21 false)) = (0 : Fin 16).val ∧
    ((resumeAsked .stopped [.free]).lanes.get 0).state ≠ .closed ∧
    (LanesSettled (resumeAsked .paused [.blocked]) ∧
      (resumeAsked .paused [.blocked]).someUsable (lane .paused) = false) := by
  refine ⟨posted_of (by decide +kernel), by decide, answered_nil 5, ?_, by decide +kernel,
    by decide +kernel, ?_, by decide +kernel⟩ <;> unfold LanesSettled <;> decide +kernel

/-- A STATION_RESET of station 1, which is FAULTED, with a pair of another magazine in flight to it. -/
def resetAsked : State :=
  posted (withEntry (withStation cell 1 { station [.free, .reserved] with
      state := .faulted .collision, generation := 8 }) 4
    { placeEntry .isOpen with dest := some { target with station := 1 } }) .service 22 (onSlot 1 0 0)

theorem noPairAt {s : State} {i : Fin 8} (h : ((List.finRange 32).all fun j => (s.entries.get j).all fun e =>
      e.dest.all fun d => d.station != i || !s.inPlace d) = true) : ¬PairAt s i := by
  rintro ⟨j, e, d, he, _, _, hd, hi, hp⟩
  simpa [hd, hi, hp] using entries_all h j e he

theorem witness_StationResetAndSlotSetActOnTheStation_reset :
    Posted resetAsked .service 1 (post cell .service 22 false) ∧
    postRow .service (post cell .service 22 false).data [] = some (.stationReset []) ∧
    Answered [] 5 ∧ LanesSettled resetAsked ∧
    cmdStation (word1 resetAsked [] (post cell .service 22 false)) = (1 : Fin 8).val ∧
    (resetAsked.stations.get 1).state = .faulted .collision ∧
    ¬PairAt resetAsked 1 :=
  ⟨posted_of (by decide +kernel), by decide, answered_nil 5, by unfold LanesSettled; decide +kernel,
    by decide +kernel, by decide +kernel, noPairAt (by decide +kernel)⟩

/-- A SLOT_SET of slot 2 of station 0 to BLOCKED. -/
def slotAsked : State := posted (withSlots cell [.blocked, .blocked, .free]) .service 23 (onSlot 0 2 4)

theorem witness_StationResetAndSlotSetActOnTheStation_slot :
    Posted slotAsked .service 1 (post cell .service 23 false) ∧
    postRow .service (post cell .service 23 false).data [] = some (.slotSet []) ∧ Answered [] 5 ∧
    (let w1 := word1 slotAsked [] (post cell .service 23 false);
      cmdStation w1 = (0 : Fin 8).val ∧ cmdTarget w1 = SlotState.blocked.code ∧
        (slotAsked.stations.get 0).magazine = some ⟨0, 0x241, 3, false, [.blocked, .blocked, .free]⟩ ∧
        [SlotState.blocked, .blocked, .free][cmdSlot w1]? = some .free) :=
  ⟨posted_of (by decide +kernel), by decide, answered_nil 5, by decide +kernel⟩

/-- Lane 0 is CLOSED. -/
def closedLane : State := withLane cell { lane .closed with enabled := false }

theorem witness_NestAndLaneCommandsAreRefusedInOrder :
    let q := fun kind => post cell .service kind false
    let w := fun (s : State) kind w1 => word1 (posted s .service kind w1) [] (q kind)
    (Posted (posted cell .service 16 2) .service 1 (q 16) ∧
      serviceKind (ringKind (q 16).data) = some .nestStop ∧
      postRow .service (q 16).data [] = some (.nestStop []) ∧ Nest.ofCode (cmdNest (w cell 16 2)) = none) ∧
    (Posted (posted cell .service 16 (onLane 0 1 0)) .service 1 (q 16) ∧
      Nest.ofCode (cmdNest (w cell 16 (onLane 0 1 0))) = some .a ∧
      cmdCondition (w cell 16 (onLane 0 1 0)) ≠ StopCondition.now.code) ∧
    (Posted (nestAsked .active 19) .service 1 (q 19) ∧ serviceKind (ringKind (q 19).data) = some .nestRelease ∧
      ((nestAsked .active 19).nest .a).state = .active) ∧
    (Posted (posted cell .service 20 (onLane 16 0 0)) .service 1 (q 20) ∧
      serviceKind (ringKind (q 20).data) = some .laneStop ∧ 16 ≤ cmdLane (w cell 20 (onLane 16 0 0))) ∧
    (Posted (posted cell .service 20 (onLane 15 0 2)) .service 1 (q 20) ∧
      cmdLane (w cell 20 (onLane 15 0 2)) = (15 : Fin 16).val ∧
      (∀ x : StopNotice, cmdNotice (w cell 20 (onLane 15 0 2)) ≠ x.code) ∧
      ∀ x : StopCondition, cmdCondition (w cell 20 (onLane 15 2 0)) ≠ x.code) ∧
    (Posted (posted closedLane .service 21 0) .service 1 (q 21) ∧
      serviceKind (ringKind (q 21).data) = some .laneResume ∧ cmdLane (w closedLane 21 0) = (0 : Fin 16).val ∧
      ((posted closedLane .service 21 0).lanes.get 0).state = .closed) :=
  ⟨⟨posted_of (by decide +kernel), by decide, by decide, by decide +kernel⟩,
    ⟨posted_of (by decide +kernel), by decide +kernel, by decide +kernel⟩,
    ⟨posted_of (by decide +kernel), by decide, rfl⟩,
    ⟨posted_of (by decide +kernel), by decide, by decide +kernel⟩,
    ⟨posted_of (by decide +kernel), by decide +kernel, (by intro x; cases x <;> decide +kernel),
      (by intro x; cases x <;> decide +kernel)⟩,
    posted_of (by decide +kernel), by decide, by decide +kernel, by decide +kernel⟩

theorem witness_NestAndLaneCommandsAreRefusedInOrder_held :
    (SyncExists ((posted { cell with jobs := [.sync .a] } .service 18 0).waited [] 3) .a ∧
      Posted (posted { cell with jobs := [.sync .a] } .service 18 0) .service 1
        (post cell .service 18 false)) ∧
    SyncExists { cell with walker := .running (Job.start (.sync .a)) } .a ∧
    SyncExists (completing cell (.sync .a true false)) .a ∧
    (((withNestA named0 fun c => { c with state := .stopped }).entries.get 3).any fun e =>
        e.board.nest == .a) = true ∧ (holding.cups.get 2).ref = some (board 0) :=
  ⟨⟨Or.inl (List.mem_singleton.mpr rfl), posted_of (by decide +kernel)⟩, Or.inr (Or.inl ⟨_, rfl, rfl⟩),
    Or.inr (Or.inr ⟨_, _, rfl⟩), by decide +kernel, by decide +kernel⟩

theorem witness_StationAndBoardCommandsAreRefusedInOrder_station :
    let q := fun kind => post cell .service kind false
    let w := fun (s : State) kind w1 => word1 (posted s .service kind w1) [] (q kind)
    let flying := posted (placing .isOpen) .service 22 (onSlot 0 0 0)
    let set := fun slot target => posted (placing .isOpen) .service 23 (onSlot 0 slot target)
    (Posted (posted cell .service 22 (onSlot 8 0 0)) .service 1 (q 22) ∧
      serviceKind (ringKind (q 22).data) = some .stationReset ∧ 8 ≤ cmdStation (w cell 22 (onSlot 8 0 0))) ∧
    (Posted flying .service 1 (q 22) ∧ PairAt flying 0 ∧ (flying.stations.get 0).state = .filling ∧
      cmdStation (w (placing .isOpen) 22 (onSlot 0 0 0)) = (0 : Fin 8).val) ∧
    (Posted (set 3 4) .service 1 (q 23) ∧ serviceKind (ringKind (q 23).data) = some .slotSet ∧
      ((set 3 4).stations.get 0).magazine = some ⟨0, 0x241, 3, false, [.free, .reserved, .occupied]⟩ ∧
      3 ≤ cmdSlot (w (placing .isOpen) 23 (onSlot 0 3 4)) ∧
      cmdTarget (w (placing .isOpen) 23 (onSlot 0 3 4)) = SlotState.blocked.code) ∧
    (Posted (set 1 1) .service 1 (q 23) ∧ cmdSlot (w (placing .isOpen) 23 (onSlot 0 1 1)) = 1 ∧
      cmdTarget (w (placing .isOpen) 23 (onSlot 0 1 1)) = SlotState.free.code) ∧
    (Posted (set 1 3) .service 1 (q 23) ∧
      cmdTarget (w (placing .isOpen) 23 (onSlot 0 1 3)) ≠ SlotState.free.code ∧
      cmdTarget (w (placing .isOpen) 23 (onSlot 0 1 3)) ≠ SlotState.blocked.code) ∧
    ((posted cell .service 23 (onSlot 7 0 1)).stations.get 7).magazine = none := by
  refine ⟨⟨posted_of (by decide +kernel), by decide, by decide +kernel⟩,
    ⟨posted_of (by decide +kernel), ⟨4, placeEntry .isOpen, target, ?_⟩, by decide +kernel,
      by decide +kernel⟩,
    ⟨posted_of (by decide +kernel), by decide, by decide +kernel⟩,
    ⟨posted_of (by decide +kernel), by decide +kernel⟩,
    ⟨posted_of (by decide +kernel), by decide +kernel⟩, by decide +kernel⟩
  decide +kernel

/-- A RESOLVE of board 0. -/
def resolveAsked (w1 : Word) : State := posted unsettled .service 24 w1

theorem witness_ResolveSettlesTheBoard :
    Posted (resolveAsked 0) .service 1 (post cell .service 24 false) ∧
    postRow .service (post cell .service 24 false).data [] = some (.resolve []) ∧ Answered [] 3 ∧
    TableListed (resolveAsked 0) ∧
    (let w1 := word1 (resolveAsked 0) [] (post cell .service 24 false);
      Nest.ofCode (cmdNest w1) = some (board 0).nest ∧ (board 0).pos = cmdPosition w1 ∧
        ((resolveAsked 0).nest .a).state.loaded = true ∧
        (board 0).pos < (resolveAsked 0).boardCount .a) ∧
    (let l := line 0 { hw 0 .uncertain 15 with lastCause := some .expired }
      let q := post cell .service 24 false
      let v := found (resolveAsked 0);
      Fetched ((resolveAsked 0).waited [] 3) [] (board 0) l v [] ∧ l.words.hw.state = .uncertain ∧
        (foundAfter (resolveAsked 0) [(q.word 3, verdictAdmitted none v.time),
          (q.word 0, q.data)]).cached (board 0) = some l) := by
  refine ⟨posted_of (by decide +kernel), by decide, answered_nil 3, ?_, by decide +kernel,
    fetched_hit [] (by decide +kernel), by decide +kernel⟩
  unfold TableListed
  decide +kernel

theorem witness_StationAndBoardCommandsAreRefusedInOrder_resolve :
    let q := post cell .service 24 false
    let l := line 0 { hw 0 .uncertain 15 with lastCause := some .expired }
    let w := fun w1 => word1 (resolveAsked w1) [] q
    (serviceKind (ringKind q.data) = some .resolve ∧ Posted (resolveAsked 2) .service 1 q ∧
      Nest.ofCode (cmdNest (w 2)) = none) ∧
    (¬TargetNamed (cmdTarget (w (settling 12 0 0 0))) ∧ TargetNamed (cmdTarget (w (settling 11 0 0 0))) ∧
      ((withNestA unsettled fun c => { c with state := .illegal }).nest .a).state.loaded = false ∧
      (resolveAsked 0).boardCount .a ≤ cmdPosition (onBoard 4 0 0 0 0)) ∧
    (ResolveLooksUp (resolveAsked 0) (w 0) (board 0) ∧
      Fetched ((resolveAsked 0).waited [] 3) [] (board 0) l (found (resolveAsked 0)) [] ∧
      l.words.hw.state = .uncertain ∧ (hw 0 .free 15).state ≠ .uncertain) ∧
    (2 ^ l.words.hw.tabs ≤ (cmdMask (w (settling 1 0 0 16))).toNat ∧
      derivedState l.words.hw.tabs (cmdMask (w (settling 0 0 0 1))) ≠ .intact) ∧
    (cmdTarget (w (settling 5 4 0 0)) = BoardState.held.code ∧ 4 ≤ cmdCup (w (settling 5 4 0 0)) ∧
      cmdCup (w (settling 5 1 0 0)) = (1 : Fin 4).val ∧ (picking.cups.get 2).state ≠ .empty ∧
      picking.cups.get 2 ≠ ⟨.suspect, some (board 0)⟩) ∧
    (let stacked := fun station slot => settling 8 0 slot 0 ||| onSlot station 0 0;
      cmdTarget (w (stacked 8 0)) = BoardState.stacked.code ∧ 8 ≤ cmdStation (w (stacked 8 0)) ∧
        cmdStation (w (stacked 7 0)) = (7 : Fin 8).val ∧ (unsettled.stations.get 7).magazine = none ∧
        cmdSlot (w (stacked 0 3)) = 3 ∧
        (unsettled.stations.get 0).magazine.any (fun m => m.slots.length == 3) = true ∧
        ((placing .isOpen).stations.get 0).magazine.any (fun m => m.slots[2]? == some .occupied) = true) :=
  ⟨⟨by decide, posted_of (by decide +kernel), by decide +kernel⟩,
    by unfold TargetNamed; decide +kernel,
    ⟨by unfold ResolveLooksUp TargetNamed; decide +kernel,
      fetched_hit [] (by decide +kernel), by decide +kernel⟩,
    by decide +kernel, by decide +kernel, by decide +kernel⟩

theorem witness_ResolveSettlesTheBoard_targets :
    let l := line 0 { hw 0 .uncertain 15 with lastCause := some .expired }
    Resolves (found unsettled) (board 0) l (settling 0 0 0 0) (.derived .intact 0) ∧
    Resolves (found unsettled) (board 0) l (settling 1 0 0 14) (.derived .partCut 14) ∧
    Resolves (found unsettled) (board 0) l (settling 3 0 0 15) (.derived .free 15) ∧
    Resolves (found unsettled) (board 0) l (settling 5 1 0 0) (.held 1) ∧
    Resolves (found unsettled) (board 0) l (settling 5 3 0 0) (.held 3) ∧
    Resolves (found unsettled) (board 0) l (settling 8 0 1 0) (.stacked 0 1 0x241) ∧
    Resolves (found unsettled) (board 0) l (settling 9 0 0 0) .scrapped ∧
    Resolves (found unsettled) (board 0) l (settling 11 0 0 0) .lost := by
  refine ⟨?_, ?_, ?_, ?_, ?_, ⟨by decide, by decide, by decide,
    ⟨0, 0x241, 3, false, [.free, .suspect, .free]⟩, by decide +kernel⟩, ?_, ?_⟩ <;>
    unfold Resolves <;> decide +kernel

theorem witness_ForgetAndCupClearRelease_forget :
    (Posted (posted unsettled .service 25 (onEntry 5)) .service 1 (post cell .service 25 false) ∧
      postRow .service (post cell .service 25 false).data [] = some (.forget []) ∧ Answered [] 5 ∧
      cmdEntry (word1 (posted unsettled .service 25 (onEntry 5)) [] (post cell .service 25 false)) =
        (5 : Fin 32).val ∧
      (posted unsettled .service 25 (onEntry 5)).entries.get 5 =
        some (presentEntry (.expired .expired))) ∧
    (Posted (posted unsettled .service 25 (onEntry 31)) .service 1 (post cell .service 25 false) ∧
      cmdEntry (word1 (posted unsettled .service 25 (onEntry 31)) [] (post cell .service 25 false)) =
        (31 : Fin 32).val ∧ unsettled.entries.get 31 = none) ∧
    (serviceKind (ringKind (post cell .service 25 false).data) = some .forget ∧
      32 ≤ cmdEntry (word1 (posted unsettled .service 25 (onEntry 32)) [] (post cell .service 25 false))) :=
  ⟨⟨posted_of (by decide +kernel), by decide, answered_nil 5, by decide +kernel, by decide +kernel⟩,
    ⟨posted_of (by decide +kernel), by decide +kernel, by decide +kernel⟩, by decide +kernel⟩

theorem witness_ForgetAndCupClearRelease_cup (x : CupState) (k : Fin 4) :
    let s := posted { cell with cups := cell.cups.set k ⟨x, some (board 0)⟩ } .service 26 (onCup k.val)
    Posted s .service 1 (post cell .service 26 false) ∧
      postRow .service (post cell .service 26 false).data [] = some (.cupClear []) ∧ Answered [] 5 ∧
      serviceKind (ringKind (post cell .service 26 false).data) = some .cupClear ∧
      (cmdCup (word1 s [] (post cell .service 26 false)) = k.val ∧ (s.cups.get k).state = x) ∧
      4 ≤ cmdCup (word1 (posted cell .service 26 (onCup 4)) [] (post cell .service 26 false)) := by
  refine ⟨posted_of ?_, by decide, answered_nil 5, by decide, ?_, by decide +kernel⟩ <;> cases x <;>
    revert k <;> decide +kernel

theorem witness_CellClearDiscardsEveryEntry :
    Posted (posted (placing .isOpen) .service 27 0) .service 1 (post cell .service 27 false) ∧
    postRow .service (post cell .service 27 false).data [] = some (.cellClear []) ∧ Answered [] 5 ∧
    TableListed (posted (placing .isOpen) .service 27 0) ∧
    (accepted (posted (placing .isOpen) .service 27 0) [] (post cell .service 27 false)).cached
      (board 0) = some (line 0 { hw 0 .placing 15 with cup := some 1 }) ∧
    (madeUncertain .cleared (line 0 { hw 0 .placing 15 with cup := some 1 }).words.hw ≠
      (line 0 { hw 0 .placing 15 with cup := some 1 }).words.hw) ∧
    (placing .isOpen).entries.get 4 = some (placeEntry .isOpen) ∧ (placeEntry .isOpen).inFlight = true :=
  ⟨posted_of (by decide +kernel), by decide, answered_nil 5, by unfold TableListed; decide +kernel,
    by decide +kernel, by decide +kernel, by decide +kernel, by decide +kernel⟩

theorem witness_records_that_a_sync_has_passed :
    let past := { Job.start (.sync .a) with scan := 1 }
    Passed { with0 held2 with walker := .running past } past (board 0) ∧
    Passed (cached cell 0 { line 0 held2 with writeBack := true }) (Job.start (.sync .a)) (board 0) ∧
    ∀ j, cell.walker ≠ .running j :=
  ⟨⟨rfl, 0, line 0 held2, by decide +kernel⟩,
    ⟨rfl, 0, { line 0 held2 with writeBack := true }, by decide +kernel⟩, fun _ h => nomatch h⟩

/-! ### Reports -/

theorem witness_CutEndDerivesTheBoard :
    let s := reported cutting .router (reportWord 33) (pack [⟨0, 4, 3⟩, ⟨8, 2, 1⟩])
    let q := report .router (reportWord 33)
    let e := { entry .router .cut 0 .isOpen with span := some ⟨1, 3⟩ }
    Reported s .router 2 q ∧ reportRow .router q.data [] = .cutEnd [] ∧ Answered [] 4 ∧
      Answers s .router q 3 e ∧
      (e.kind = .cut ∧ e.state = .isOpen ∧ e.span = some ⟨1, 3⟩ ∧
        cutEndDone (word1 s [] q) ≤ (3 : Nat) ∧
        (appliedReport s [] q).cached e.board = some (line 0 (hw 0 .cutting 1)) ∧
        (line 0 (hw 0 .cutting 1)).words.hw.state = .cutting) :=
  ⟨reported_of (by decide +kernel), by decide, answered_nil 4, answers_of (by decide +kernel),
    by decide +kernel⟩

theorem witness_PickAndDiscardEndsSettleTheCup_pick :
    let s := reported picking .picker (reportWord 34) 3
    let q := report .picker (reportWord 34)
    let e := { entry .picker .pick 0 .isOpen with cup := some 2 }
    let l := line 0 { hw 0 .picking 15 with cup := some 2 }
    Reported s .picker 3 q ∧ reportRow .picker q.data [] = .pickEnd [] ∧ Answered [] 4 ∧
      Answers s .picker q 3 e ∧
      (e.kind = .pick ∧ e.state = .isOpen ∧ e.cup = some 2 ∧ reportResult (word1 s [] q) ≠ .abort ∧
        (appliedReport s [] q).cached e.board = some l ∧ l.words.hw.state = .picking) :=
  ⟨reported_of (by decide +kernel), by decide, answered_nil 4, answers_of (by decide +kernel),
    by decide +kernel⟩

theorem witness_PickAndDiscardEndsSettleTheCup_discard :
    let s := reported discarding .picker (reportWord 36) 2
    let q := report .picker (reportWord 36)
    let e := { entry .picker .discard 0 .isOpen with cup := some 2 }
    let l := line 0 { hw 0 .discarding 15 with cup := some 2 }
    Reported s .picker 3 q ∧ reportRow .picker q.data [] = .discardEnd [] ∧ Answered [] 4 ∧
      Answers s .picker q 3 e ∧
      (e.kind = .discard ∧ e.state = .isOpen ∧ e.cup = some 2 ∧ reportResult (word1 s [] q) ≠ .fail ∧
        (appliedReport s [] q).cached e.board = some l ∧ l.words.hw.state = .discarding) :=
  ⟨reported_of (by decide +kernel), by decide, answered_nil 4, answers_of (by decide +kernel),
    by decide +kernel⟩

theorem pair_placing (x : EntryState) (s : State)
    (h : s.entries = (placing x).entries) : Pair s 4 5 (placeEntry x) (presentEntry x) target 1 := by
  refine ⟨by decide, ?_, ?_, ⟨rfl, rfl⟩, rfl, ⟨rfl, rfl⟩, ⟨rfl, rfl⟩, rfl, rfl⟩ <;> rw [h] <;> rfl

theorem witness_FirstReportOfAPairIsStored :
    let s := reported (placing .isOpen) .picker (reportWord 35) 0
    let q := report .picker (reportWord 35)
    let s' := reported (placing .isOpen) .stacker (reportWord 37) (seen 1 0 0x241)
    let q' := report .stacker (reportWord 37)
    (Answered [] 4 ∧ Pair s 4 5 (placeEntry .isOpen) (presentEntry .isOpen) target 1 ∧
      Reported s .picker 3 q ∧ Answers s .picker q 4 (placeEntry .isOpen)) ∧
    (s.rings = some rings ∧ reportRow .picker q.data [] = .placeEnd [] ∧
      ((rings.report .picker).slotOf q.addr.toNat).getD 0 = 2 ∧ reportResult (word1 s [] q) ≠ .fail) ∧
    (Pair s' 4 5 (placeEntry .isOpen) (presentEntry .isOpen) target 1 ∧ Reported s' .stacker 4 q' ∧
      Answers s' .stacker q' 5 (presentEntry .isOpen)) ∧
    (reportRow .stacker q'.data [] = .presentEnd [] ∧
      ((rings.report .stacker).slotOf q'.addr.toNat).getD 0 = 2) :=
  ⟨⟨answered_nil 4, pair_placing .isOpen _ rfl, reported_of (by decide +kernel),
      answers_of (by decide +kernel)⟩, by decide +kernel,
    ⟨pair_placing .isOpen _ rfl, reported_of (by decide +kernel), answers_of (by decide +kernel)⟩,
    by decide +kernel⟩

theorem witness_SecondReportResolvesThePair :
    let o : Observation := ⟨1, false, 0x241⟩
    let s := reported (seenFirst o) .picker (reportWord 35) 0
    let q := report .picker (reportWord 35)
    let present := { presentEntry .half with stored := some ⟨.presentEnd o, 1, 5⟩ }
    let l := line 0 { hw 0 .placing 15 with cup := some 1 }
    Reported s .picker 3 q ∧ Answered [] 4 ∧ Pair s 4 5 (placeEntry .half) present target 1 ∧
      Answers s .picker q 4 (placeEntry .half) ∧
      (reportRow .picker q.data [] = .placeEnd [] ∧
        (appliedReport s [] q).cached (board 0) = some l ∧ l.words.hw.state = .placing ∧
        reportResult (word1 s [] q) = .done) := by
  refine ⟨reported_of (by decide +kernel), answered_nil 4, ?_, answers_of (by decide +kernel),
    by decide +kernel⟩
  exact ⟨by decide, by decide +kernel, by decide +kernel, ⟨rfl, rfl⟩, rfl, ⟨rfl, rfl⟩, ⟨rfl, rfl⟩, rfl, rfl⟩

theorem witness_SecondReportResolvesThePair_stacker :
    let s := reported (placedFirst .dropped) .stacker (reportWord 37) (seen 0 1 0x241)
    let q := report .stacker (reportWord 37)
    let place := { placeEntry .half with stored := some ⟨.placeEnd .dropped, 1, 5⟩ }
    Reported s .stacker 4 q ∧ Answered [] 4 ∧ Pair s 4 5 place (presentEntry .half) target 1 ∧
      Answers s .stacker q 5 (presentEntry .half) ∧ reportRow .stacker q.data [] = .presentEnd [] := by
  refine ⟨reported_of (by decide +kernel), answered_nil 4, ?_, answers_of (by decide +kernel), by decide⟩
  exact ⟨by decide, by decide +kernel, by decide +kernel, ⟨rfl, rfl⟩, rfl, ⟨rfl, rfl⟩, ⟨rfl, rfl⟩, rfl, rfl⟩

/-- A PICK of board 1 is open behind the PLACE of board 0. -/
def behind : State :=
  withEntry (cached (placing .isOpen) 1 (line 1 (hw 1 .picking 15))) 7
    { entry .picker .pick 1 .isOpen with slot := 3, cup := some 2 }

theorem witness_FittingReportSkipsEarlierEntries :
    let q := report .picker (word0 34 false 9 3)
    let s := reported behind .picker q.data 0
    let e := { entry .picker .pick 1 .isOpen with slot := 3, cup := some 2 }
    (Reported s .picker 3 q ∧ Answered [] 4 ∧ PairsLinked s ∧ LanesSettled s) ∧
      (s.entryNamed RepRing.picker.answers (ringAnswered q.data) (ringSequence q.data) = some 7 ∧
        s.entries.get 7 = some e ∧ s.order = [4, 5] ++ 7 :: [] ∧ (7 : Fin 32) ∉ ([4, 5] : List (Fin 32))) ∧
      ((([4, 5] : List (Fin 32)).filter fun j =>
          (s.entries.get j).any fun f => f.ring == RepRing.picker.answers && f.awaits) = [4] ∧
        s.entries.get 4 = some (placeEntry .isOpen) ∧ (placeEntry .isOpen).board ≠ e.board) ∧
      (reportRow .picker q.data [] = .pickEnd [] ∧ e.state = .isOpen ∧ e.kind = .pick ∧ e.cup = some 2 ∧
        reportResult (word1 s [] q) ≠ .abort ∧
        (appliedReport s [] q).cached (board 1) = some (line 1 (hw 1 .picking 15)) ∧
        (line 1 (hw 1 .picking 15)).words.hw.state = .picking) :=
  ⟨⟨reported_of (by decide +kernel), answered_nil 4, linked_of (by decide +kernel),
    by unfold LanesSettled; decide +kernel⟩, by decide +kernel, by decide +kernel, by decide +kernel⟩

/-- A state with a PICK of board 1 into cup 0 open before what stands in the list. -/
def afterPick (s : State) : State :=
  { cached s 1 (line 1 { hw 1 .picking 15 with cup := some 0 }) with
    entries := s.entries.set 6 (some { entry .picker .pick 1 .isOpen with slot := 7, cup := some 0 })
    order := 6 :: s.order
    cups := s.cups.set 0 ⟨.reserved, some (board 1)⟩ }

/-- The manual's worked example: a PLACE_END resolves a pair whose PRESENT_END saw another slot, and skips the
PICK before it. -/
def workedExample : State :=
  reported (afterPick (seenFirst ⟨0, false, 0x241⟩)) .picker (reportWord 35) 0

theorem test_placeEnd_skips_and_resolves : leaves (.placeEnd []) workedExample (fun t =>
    t.order == [6] && (t.entries.get 6).any (fun e => e.state == .expired .skipped) &&
      (t.cached (board 1)).any (fun l => l.words.hw.state == .uncertain &&
        l.words.hw.lastCause == some .skipped) &&
      (t.cached (board 0)).any (fun l => l.words.hw.state == .stacked && l.words.hw.relocated) &&
      t.cups.get 0 == ⟨.suspect, some (board 1)⟩ && t.cups.get 1 == ⟨.empty, none⟩ &&
      (t.stations.get 0).magazine.any (fun m => m.slots == [.occupied, .free, .occupied]) &&
      (t.captureOf .picker).any (fun c => c.cause == .skipped && c.refs.entry == some 6) &&
      t.flag .uncertain && t.flag .relocated) = true := by decide +kernel

theorem witness_FittingReportSkipsEarlierEntries_pair (x : EntryState) (h : x = .isOpen ∨ x = .half) :
    let q := report .picker (reportWord 35)
    let s := if x = .half then workedExample
      else reported (afterPick (placing .isOpen)) .picker (reportWord 35) 0
    (Reported s .picker 3 q ∧ PairsLinked s ∧ LanesSettled s ∧ s.order = [6] ++ 4 :: [5]) ∧
      (s.entryNamed RepRing.picker.answers (ringAnswered q.data) (ringSequence q.data) = some 4 ∧
        s.entries.get 4 = some (placeEntry x) ∧ (placeEntry x).state = x ∧ (placeEntry x).stored = none) ∧
      (s.entries.get 6 = some { entry .picker .pick 1 .isOpen with slot := 7, cup := some 0 } ∧
        (placeEntry x).board = board 0) ∧
      (reportRow .picker q.data [] = .placeEnd [] ∧ s.rings = some rings ∧
        ((rings.report .picker).slotOf q.addr.toNat).getD 0 = 2 ∧ reportResult (word1 s [] q) = .done) ∧
      ((appliedReport s [] q).cached (board 0) = some (line 0 { hw 0 .placing 15 with cup := some 1 }) ∧
        (line 0 { hw 0 .placing 15 with cup := some 1 }).words.hw.state = .placing) := by
  rcases h with rfl | rfl <;>
  exact ⟨⟨reported_of (by decide +kernel), linked_of (by decide +kernel),
    by unfold LanesSettled; decide +kernel, by decide +kernel⟩, by decide +kernel, by decide +kernel,
    by decide +kernel, by decide +kernel⟩

/-- A PRESENT_END for the pair of board 0, of whose ring an earlier pair of board 1 awaits its report. -/
def secondPresent : State :=
  let s := placing .isOpen
  reported { cached s 1 (line 1 { hw 1 .placing 15 with cup := some 3 }) with
    entries := (s.entries.set 8 (some { placeEntry .isOpen with
      board := board 1, slot := 9, cup := some 3, partner := some 9 })).set 9 (some { presentEntry .isOpen with
      board := board 1, slot := 9, partner := some 8 })
    order := 8 :: 9 :: s.order } .stacker (reportWord 37) (seen 1 0 0x241)

theorem witness_FittingReportSkipsEarlierEntries_present :
    let q := report .stacker (reportWord 37)
    let s := secondPresent
    Reported s .stacker 4 q ∧ PairsLinked s ∧ LanesSettled s ∧ s.order = [8, 9, 4] ++ 5 :: [] ∧
      s.entryNamed RepRing.stacker.answers (ringAnswered q.data) (ringSequence q.data) = some 5 ∧
      (([8, 9, 4] : List (Fin 32)).filter fun j =>
        (s.entries.get j).any fun f => f.ring == RepRing.stacker.answers && f.awaits) = [9] ∧
      (reportRow .stacker q.data [] = .presentEnd [] ∧
        ((rings.report .stacker).slotOf q.addr.toNat).getD 0 = 2) ∧
      Pair s 4 5 (placeEntry .isOpen) (presentEntry .isOpen) target 1 := by
  refine ⟨reported_of (by decide +kernel), linked_of (by decide +kernel),
    by unfold LanesSettled; decide +kernel, by decide +kernel, by decide +kernel, by decide +kernel,
    by decide +kernel, ?_⟩
  exact ⟨by decide, by decide +kernel, by decide +kernel, ⟨rfl, rfl⟩, rfl, ⟨rfl, rfl⟩, ⟨rfl, rfl⟩, rfl, rfl⟩

/-- A CUT of board 1 is open before that of board 0. -/
def secondCut : State :=
  { cached cutting 1 (line 1 (hw 1 .cutting 1)) with
    entries := cutting.entries.set 6 (some { entry .router .cut 1 .isOpen with
      slot := 7, span := some ⟨0, 1⟩ })
    order := 6 :: cutting.order }

theorem witness_FittingReportSkipsEarlierEntries_cut_and_discard :
    (let q := report .router (reportWord 33)
      let s := reported secondCut .router q.data 2;
      Reported s .router 2 q ∧ PairsLinked s ∧ LanesSettled s ∧ s.order = [6] ++ 3 :: [] ∧
        reportRow .router q.data [] = .cutEnd [] ∧ cutEndDone (word1 s [] q) ≤ 3 ∧
        s.entries.get 3 = some { entry .router .cut 0 .isOpen with span := some ⟨1, 3⟩ } ∧
        (appliedReport s [] q).cached (board 0) = some (line 0 (hw 0 .cutting 1))) ∧
    (let q := report .picker (reportWord 36)
      let s := reported (afterPick discarding) .picker q.data 2
      let e := { entry .picker .discard 0 .isOpen with cup := some 2 };
      Reported s .picker 3 q ∧ PairsLinked s ∧ LanesSettled s ∧ s.order = [6] ++ 3 :: [] ∧
        reportRow .picker q.data [] = .discardEnd [] ∧ e.kind = .discard ∧
        (appliedReport s [] q).cached (board 0) =
          some (line 0 { hw 0 .discarding 15 with cup := some 2 })) := by
  refine ⟨⟨reported_of (by decide +kernel), linked_of (by decide +kernel),
    by unfold LanesSettled; decide +kernel, by decide +kernel⟩, reported_of (by decide +kernel),
    linked_of (by decide +kernel), by unfold LanesSettled; decide +kernel, by decide +kernel⟩

theorem witness_UnmatchedReportsAreDisputed :
    let q := report .router (reportWord 33)
    let late := { entry .router .cut 0 (.expired .skipped) with span := some ⟨1, 3⟩ }
    (Reported (reported cell .router (reportWord 34) 0) .router 2 (report .router (reportWord 34)) ∧
      reportKind .router (ringKind (reportWord 34)) = none ∧
      reportKind .stacker (ringKind (reportWord 34)) = none) ∧
    (Reported (reported cell .router (stationWord 48 7) 0) .router 2 (report .router (stationWord 48 7)) ∧
      reportKind .router (ringKind (stationWord 48 7)) = none ∧
      reportKind .stacker (ringKind (stationWord 48 7)) = some .arrived ∧
      ringStation (stationWord 48 7) = (7 : Fin 8).val ∧ 8 ≤ ringStation (stationWord 48 8)) ∧
    (reportKind .picker (ringKind (stationWord 49 0)) = none ∧
      reportKind .stacker (ringKind (stationWord 49 0)) = some .removed) ∧
    (Reported (reported cell .router (reportWord 33) 0) .router 2 q ∧
      reportKind .router (ringKind q.data) = some .cutEnd ∧
      (reported cell .router (reportWord 33) 0).entryNamed .router (ringAnswered q.data)
        (ringSequence q.data) = none) ∧
    (Reported (reported (withEntryAs cutting 3 late) .router (reportWord 33) 0) .router 2 q ∧
      (reported (withEntryAs cutting 3 late) .router (reportWord 33) 0).entryNamed .router
        (ringAnswered q.data) (ringSequence q.data) = some 3 ∧
      (reported (withEntryAs cutting 3 late) .router (reportWord 33) 0).entries.get 3 = some late ∧
      late.state = .expired .skipped) ∧
    (Reported (reported unsettled .stacker (reportWord 37) 0) .stacker 4 (report .stacker (reportWord 37)) ∧
      reportKind .stacker (ringKind (reportWord 37)) = some .presentEnd ∧
      (reported unsettled .stacker (reportWord 37) 0).entryNamed .stacker (ringAnswered (reportWord 37))
        (ringSequence (reportWord 37)) = some 5 ∧
      unsettled.entries.get 5 = some (presentEntry (.expired .expired))) ∧ Answered [] 4 :=
  ⟨⟨reported_of (by decide +kernel), by decide⟩, ⟨reported_of (by decide +kernel), by decide⟩, by decide,
    ⟨reported_of (by decide +kernel), by decide, by decide +kernel⟩,
    ⟨reported_of (by decide +kernel), by decide +kernel, by decide +kernel, by decide⟩,
    ⟨reported_of (by decide +kernel), by decide, by decide +kernel, by decide +kernel⟩, answered_nil 4⟩

theorem witness_MisfitReportExpiresItsEntry :
    let q := report .router (reportWord 33)
    let s := reported cutting .router (reportWord 33) 4
    let e := { entry .router .cut 0 .isOpen with span := some ⟨1, 3⟩ }
    let q' := report .picker (reportWord 34)
    let s' := reported picking .picker (reportWord 34) 2
    let e' := { entry .picker .pick 0 .isOpen with cup := some 2 }
    (Reported s .router 2 q ∧ reportKind .router (ringKind q.data) = some .cutEnd ∧ Answered [] 4 ∧
      s.entryNamed .router (ringAnswered q.data) (ringSequence q.data) = some 3 ∧
      s.entries.get 3 = some e ∧ e.state = .isOpen ∧ e.kind = .cut ∧
      Misfits .cutEnd e (word1 s [] q) .outOfSpan) ∧
    (Reported s' .picker 3 q' ∧ reportKind .picker (ringKind q'.data) = some .pickEnd ∧
      s'.entryNamed .picker (ringAnswered q'.data) (ringSequence q'.data) = some 3 ∧
      s'.entries.get 3 = some e' ∧ e'.state = .isOpen ∧ e'.kind = .pick ∧
      Misfits .pickEnd e' (word1 s' [] q') .kindMismatch) := by
  refine ⟨⟨reported_of (by decide +kernel), by decide, answered_nil 4, by decide +kernel,
    by decide +kernel, rfl, rfl, Or.inr ⟨by decide +kernel, rfl, ⟨_, rfl, by decide +kernel⟩, rfl⟩⟩,
    reported_of (by decide +kernel), by decide, by decide +kernel, by decide +kernel, rfl, rfl,
    Or.inl ⟨by decide +kernel, rfl⟩⟩

theorem witness_MisfitReportExpiresItsEntry_pair :
    let place := { placeEntry .half with stored := some (⟨.placeEnd .done, 1, 5⟩ : StoredReport) }
    let q := report .picker (reportWord 35)
    let s := reported (placedFirst .done) .picker (reportWord 35) 0
    let present := { presentEntry .half with stored := some (⟨.presentEnd ⟨1, false, 0x241⟩, 1, 5⟩ : StoredReport) }
    let q' := report .stacker (reportWord 37)
    let s' := reported (seenFirst ⟨1, false, 0x241⟩) .stacker (reportWord 37) 0
    (Reported s .picker 3 q ∧ s.entryNamed .picker (ringAnswered q.data) (ringSequence q.data) = some 4 ∧
      Pair s 4 5 place (presentEntry .half) target 1 ∧
      Misfits .placeEnd place (word1 s [] q) .kindMismatch) ∧
    (Reported s' .stacker 4 q' ∧
      s'.entryNamed .stacker (ringAnswered q'.data) (ringSequence q'.data) = some 5 ∧
      Pair s' 4 5 (placeEntry .half) present target 1 ∧
      Misfits .presentEnd present (word1 s' [] q') .kindMismatch) := by
  refine ⟨⟨reported_of (by decide +kernel), by decide +kernel, ?_, Or.inl ⟨by decide +kernel, rfl⟩⟩,
    reported_of (by decide +kernel), by decide +kernel, ?_, Or.inl ⟨by decide +kernel, rfl⟩⟩ <;>
  exact ⟨by decide, by decide +kernel, by decide +kernel, ⟨rfl, rfl⟩, rfl, ⟨rfl, rfl⟩, ⟨rfl, rfl⟩, rfl, rfl⟩

/-- A label has come for station 1, which has heard bad ones before. -/
def labelled (attempts : Nat) (mask : BitVec 16) (w1 : Word) : State :=
  reported (withStation cell 1 { Station.reset with
    state := .identifying, mask := mask, attempts := attempts }) .stacker (stationWord 48 1) w1

theorem witness_ArrivedLabelIsJudged :
    let q := report .stacker (stationWord 48 1)
    let good := labelWord 1 0 0 0x9403
    let matching := fun (code : BitVec 8) (k : Fin 16) =>
      (cell.magTypes.get k).isDefined = true ∧ (cell.magTypes.get k).code = code
    (Reported (labelled 3 1 0) .stacker 4 q ∧ reportRow .stacker q.data [] = .arrived [] ∧
      Answered [] 4 ∧ ringStation q.data = (1 : Fin 8).val) ∧
    (((labelled 2 1 0).stations.get 1).state = .identifying ∧
      ((labelled 2 1 0).stations.get 1).attempts + 1 < 4 ∧
      ((labelled 3 1 0).stations.get 1).attempts = 3 ∧ (labelled 3 1 0).magTypes = cell.magTypes) ∧
    ((arrivedLabel (word1 (labelled 3 1 1) [] q)).crc ≠ (arrivedLabel (word1 (labelled 3 1 1) [] q)).check ∧
      (arrivedLabel (word1 (labelled 3 1 good) [] q)).crc = (arrivedLabel (word1 (labelled 3 1 good) [] q)).check ∧
      (arrivedLabel (word1 (labelled 3 1 good) [] q)).code = 1) ∧
    (matching 1 0 ∧ (∀ k, matching 1 k → k = 0) ∧ ∀ k, ¬matching 2 k) ∧
    ((1 : BitVec 16).getLsbD 0 = true ∧ (2 : BitVec 16).getLsbD 0 = false) ∧
    (RawLabel.crc (arrivedLabel (labelWord 2 0 0 (RawLabel.crc ⟨2, 0, 0, 0⟩).toNat)) =
      (arrivedLabel (labelWord 2 0 0 (RawLabel.crc ⟨2, 0, 0, 0⟩).toNat)).check) :=
  ⟨⟨reported_of (by decide +kernel), by decide, answered_nil 4, by decide⟩, by decide +kernel,
    by decide +kernel, by decide +kernel, by decide, by decide +kernel⟩

theorem witness_RemovedForgetsTheMagazine :
    (Reported (reported cell .stacker (stationWord 49 8) 0) .stacker 4
        (report .stacker (stationWord 49 8)) ∧
      reportRow .stacker (stationWord 49 8) [] = .removed [] ∧ 8 ≤ ringStation (stationWord 49 8) ∧
      reportRow .stacker (stationWord 48 15) [] = .arrived [] ∧ 8 ≤ ringStation (stationWord 48 15)) ∧
    (Reported (reported cell .stacker (stationWord 48 7) 0) .stacker 4
        (report .stacker (stationWord 48 7)) ∧ ringStation (stationWord 48 7) = (7 : Fin 8).val ∧
      (cell.stations.get 7).state = .disabled ∧ (cell.stations.get 0).state = .ready) ∧
    (Reported (reported cell .stacker (stationWord 49 0) 0) .stacker 4
        (report .stacker (stationWord 49 0)) ∧ ringStation (stationWord 49 0) = (0 : Fin 8).val ∧
      (cell.stations.get 1).state = .vacant ∧ (cell.stations.get 0).state ≠ .vacant ∧
      (cell.stations.get 0).state ≠ .disabled) ∧ Answered [] 4 :=
  ⟨⟨reported_of (by decide +kernel), by decide, by decide, by decide, by decide⟩,
    ⟨reported_of (by decide +kernel), by decide, by decide +kernel, by decide +kernel⟩,
    ⟨reported_of (by decide +kernel), by decide, by decide +kernel, by decide +kernel, by decide +kernel⟩,
    answered_nil 4⟩

/-! ### Expiry, captures, flags, edits -/

theorem witness_ExpiryLeavesTheBoardUncertain :
    let s := expiring cutting [3]
    let e := { entry .router .cut 0 .isOpen with span := some ⟨1, 3⟩ }
    let s' := expiring picking [3, 9]
    let e' := { entry .picker .pick 0 .isOpen with cup := some 2 }
    (s.mode = .guarded ∧ s.engine = .serving expiryPosition ∧ s.due = 3 :: [] ∧
      s.entries.get 3 = some e ∧ e.kind = .cut) ∧
    (s'.due = 3 :: [9] ∧ s'.entries.get 3 = some e' ∧ e'.kind = .pick) := by decide +kernel

theorem witness_ExpiryLeavesTheBoardUncertain_pair :
    let s := expiring (placing .isOpen) [4, 5]
    (s.mode = .guarded ∧ s.engine = .serving expiryPosition ∧ s.due = 4 :: [5]) ∧ TableListed s ∧
    Pair s 4 5 (placeEntry .isOpen) (presentEntry .isOpen) target 1 :=
  ⟨by decide +kernel, by unfold TableListed; decide +kernel, pair_placing .isOpen _ rfl⟩

theorem witness_CapturesAndFlagsAreCleared_capture :
    let q := fun data => written (.captureRelease .stacker) 0x20160 data
    let s := fun (c : State) data => inHand c 1 (q data) 0
    ((s cell 0).mode = .guarded ∧ (s cell 0).heldInHand = some (1, q 0) ∧
      (q 0).cls = .captureRelease .stacker ∧ ringMark (q 0).data = 0 ∧
      (s cell 0).captureOf .stacker = none) ∧
    ((s (withCaptures cell) 0).mode = .guarded ∧ (s (withCaptures cell) 0).heldInHand = some (1, q 0) ∧
      (s (withCaptures cell) 0).captureOf .stacker ≠ none) ∧
    ((s cell 3).heldInHand = some (1, q 3) ∧ ringMark (q 3).data ≠ 0) := by decide +kernel

theorem witness_CapturesAndFlagsAreCleared_flags :
    let q := fun data => written .flagClear 0x20028 data
    let s := fun (flags : BitVec 24) data => inHand { cell with flags := flags } 1 (q data) 0
    ((s 0xF 0xFF).mode = .guarded ∧ (s 0xF 0xFF).heldInHand = some (1, q 0xFF) ∧
      (q 0xFF).cls = .flagClear ∧ ∀ k, k < 64 → 4 ≤ k → (s 0xF 0xFF).flags.getLsbD k = false) ∧
    ((s 0x800010 0x800000).heldInHand = some (1, q 0x800000) ∧ 4 ≤ 23 ∧
      (q 0x800000).data.getLsbD 23 = true ∧ (s 0x800010 0x800000).flags.getLsbD 23 = true) := by
  decide +kernel

theorem witness_BoardEditReplacesWord1 :
    let q := fun data => written (.boardEdit (board 0)) 0x30008 data
    let s := fun (c : State) data => inHand c 1 (q data) 0
    ((s cell 0).mode = .guarded ∧ (s cell 0).heldInHand = some (1, q 0) ∧
      (q 0).cls = .boardEdit (board 0) ∧ ((s cell 0).nest .a).state ≠ .loading ∧
      (∀ i, (s cell 0).entries.get i = none)) ∧
    (((s (withNestA cell fun c => { c with state := .loading }) 0).nest .a).state = .loading) ∧
    ((s named0 0).entries.get 3 = some (entry .router .cut 0 .isOpen) ∧
      (entry .router .cut 0 .isOpen).board = board 0) ∧
    (bits (q 0x1F0002).data 0 2 ≤ 2 ∧ bit (q 0x1F0002).data 16 = true ∧
      bits (q 0x1F0002).data 17 5 < 16 ∧ ¬bits (q 0x210000).data 17 5 < 16 ∧
      ¬bits (q 3).data 0 2 ≤ 2) := by decide +kernel

/-! ### The Root Record, the walker -/

theorem witness_RefusedLoadAppliesNothing :
    ((loading cell 8 (some .proc)).heldInHand = some (1, loadWrite 8 (some .proc)) ∧
      (loadWrite 8 (some .proc)).cls = .load ∧ (loading cell 8 (some .proc)).mode = .guarded ∧
      (loadWrite 8 (some .proc)).role ≠ none ∧
      (loadRead (loading cell 8 (some .proc)) [] (loadWrite 8 (some .proc))).judgeLoad
        (bodyOf (loading cell 8 (some .proc)) [] (loadWrite 8 (some .proc))) = some (.notPermitted 3)) ∧
    ((loading State.reset 5 none).heldInHand = some (1, loadWrite 5 none) ∧
      (loading State.reset 5 none).mode = .openPath ∧
      (loadRead (loading State.reset 5 none) [] (loadWrite 5 none)).judgeLoad
        (bodyOf (loading State.reset 5 none) [] (loadWrite 5 none)) = some (.incomplete 1) ∧
      bit (loadWrite 5 none).data (16 + 1) = false ∧ bit (loadWrite 5 none).data (16 + 0) = true) ∧
    (let s := inHand cell 5 (loadWrite 8 none) 0;
      s.heldInHand = some (5, loadWrite 8 none) ∧ s.mode = .guarded ∧ (loadWrite 8 none).role = none ∧
        s.roleOf 5 ≠ .proc) ∧
    (∀ n, Answered [] n) :=
  ⟨by decide +kernel, by decide +kernel, by decide +kernel, answered_nil⟩

theorem witness_AcceptedLoadAppliesItsSections :
    ((loading State.reset 0x3EF none).heldInHand = some (1, loadWrite 0x3EF none) ∧
      (loadWrite 0x3EF none).cls = .load ∧ (loading State.reset 0x3EF none).mode = .openPath ∧
      (loadRead (loading State.reset 0x3EF none) [] (loadWrite 0x3EF none)).judgeLoad
        (bodyOf (loading State.reset 0x3EF none) [] (loadWrite 0x3EF none)) = none) ∧
    LanesSettled (loading State.reset 0x3EF none) ∧
    ((loading unloadedCell 8 (some .proc)).heldInHand = some (1, loadWrite 8 (some .proc)) ∧
      (loading unloadedCell 8 (some .proc)).mode = .guarded ∧ (loadWrite 8 (some .proc)).role ≠ none ∧
      (loadRead (loading unloadedCell 8 (some .proc)) [] (loadWrite 8 (some .proc))).judgeLoad
        (bodyOf (loading unloadedCell 8 (some .proc)) [] (loadWrite 8 (some .proc))) = none) ∧
    LanesSettled (loading unloadedCell 8 (some .proc)) ∧ ∀ n, Answered [] n :=
  ⟨by decide +kernel, by unfold LanesSettled; decide +kernel, by decide +kernel, cell_settled,
    answered_nil⟩

theorem witness_WalkerStartsAndEndsJobs :
    (({ cell with jobs := [.sync .a, .release .b] } : State).walker = .idle ∧
      ({ cell with jobs := [.sync .a, .release .b] } : State).jobs = .sync .a :: [.release .b]) ∧
    (loadAtEnd.walker =
        .running { Job.start (.load .a panel) with phase := .ended .ok, counted := 2 } ∧
      (Job.start (.load .a panel)).job = .load .a panel) ∧
    ((Job.start (.sync .a)).phase = .scanning ∧ (Job.start (.sync .a)).job = .sync .a ∧
      (Job.start (.release .a)).phase = .scanning ∧ (Job.start (.release .a)).job = .release .a ∧
      ((with0 held2).cache.get 0).all (fun l => !l.dirty) = true ∧
      ∀ i : Fin 64, 1 ≤ i.val → (with0 held2).cache.get i = none) :=
  ⟨⟨rfl, rfl⟩, ⟨rfl, rfl⟩, by decide +kernel⟩

/-- The walker works at a job; the record of board 1 stands in memory, in a state. -/
def walking (j : RunningJob) (x : BoardState) : State :=
  { cell with
    walker := .running j
    mem := [(record (hw 1 x 0)).w0, (record (hw 1 x 0)).w1, (record (hw 1 x 0)).w2,
      (record (hw 1 x 0)).w3].zipIdx.foldl (fun m p => Memory.writeBytes m (0x30020 + 8 * p.2) p.1 8) [] }

/-- A LOAD job of nest A at position 1. -/
def loadingAt (phase : JobPhase) : RunningJob :=
  { Job.start (.load .a panel) with scan := 1, phase := phase }

/-- A flush job of nest A at entry 0. -/
def flushing (job : Job) (phase : JobPhase) : RunningJob := { Job.start job with phase := phase }

theorem witness_WalkerCycleServesItsJob_load :
    let w := record (hw 1 .partCut 0)
    (∀ p ∈ [JobPhase.types 63, .record [0], .record [w.w0, w.w1, w.w2], .storing 2 w],
      (walking (loadingAt p) .partCut).granted false = some .walker) ∧
    (walking (loadingAt (.types 63)) .partCut).mode = .guarded ∧
    (let s := walking (loadingAt (.record [w.w0, w.w1, w.w2])) .partCut
      let read : BoardWords := ⟨w.w0, w.w1, w.w2, Memory.readWord s.mem 0x30038⟩;
      RecordFits (s.nest .a) 1 read ∧ ¬RecordFits (s.nest .a) 1 { read with w1 := 3 } ∧
        read.sameFields (read.withHw (Normalised read panel.policy)) = false) := by
  refine ⟨by decide +kernel, rfl, ?_⟩
  unfold RecordFits
  decide +kernel

theorem witness_WalkerCycleServesItsJob_flush :
    let s := cached { cell with walker := .running (Job.start (.sync .a)) } 0
      { line 0 held2 with dirty := true }
    let inFlight := flushing (.release .a) (.flushing 2 0 (record held2))
    (s.walker = .running (Job.start (.sync .a)) ∧ (Job.start (.sync .a)).phase = .scanning ∧
      (∀ n d, Job.sync .a ≠ .load n d) ∧ (Job.start (.sync .a)).scan = (0 : Fin 64).val ∧
      s.cache.get 0 = some { line 0 held2 with dirty := true } ∧ (board 0).nest = (Job.sync .a).nest) ∧
    ((s.scan 64).granted false = some .walker) ∧
    ((walking inFlight .held).walker = .running inFlight ∧
      (walking inFlight .held).granted false = some .walker ∧ ∀ n d, Job.release .a ≠ .load n d) :=
  ⟨⟨rfl, rfl, (fun _ _ h => nomatch h), rfl, by decide +kernel, rfl⟩, by decide +kernel, rfl,
    by decide +kernel, (fun _ _ h => nomatch h)⟩

theorem witness_CompletionsReachTheNest :
    let s := completing (withNestA cell fun c => { c with state := .loading }) (.load .a .ok 0)
    (s.mode = .guarded ∧ s.engine = .serving walkerPosition ∧ s.walker = .waiting (.load .a .ok 0) ∧
      (s.nest .a).state = .loading) ∧
    (completing cell (.sync .b true false)).walker = .waiting (.sync .b true false) ∧
    (completing cell (.release .a true)).walker = .waiting (.release .a true) := ⟨by decide +kernel, rfl, rfl⟩

theorem witness_StationIsUsableWhen :
    (Station.reset.state = .disabled ∧
      ({ station [.free] with state := .faulted .collision } : Station).state = .faulted .collision) ∧
    (station [.occupied, .free]).usable = true ∧
    ((station [.free]).magazine.map fun m => { m with inhibited := true }).any (fun m => m.inhibited) =
      true := by decide +kernel

/-! ### What steps keep -/

theorem witness_invariants :
    MemoryCanonical (placing .isOpen) ∧ FlagsMirrorCaptures (withCaptures cell) ∧
    OpenPathSilent State.reset ∧ LanesSettled cell ∧ TableInOrder (placing .isOpen) ∧
    TableInOrder { placing .half with due := [5, 4] } ∧
    RecencyListed (with0 held2) ∧ OneCyclePerTag (imaging [.status]) ∧
    ({ State.reset with pending := [.timebase] } : State).mode = .openPath := by
  refine ⟨?_, ?_, fun _ => ⟨rfl, rfl, ?_⟩, cell_settled, ⟨?_, ?_, linked_of (by decide +kernel)⟩,
    ⟨?_, ?_, linked_of (by decide +kernel)⟩, ?_, ?_, rfl⟩
  · exact ⟨List.Pairwise.nil, fun c h => nomatch h⟩
  · intro src
    cases src <;> decide +kernel
  · intro src
    cases src <;> decide +kernel
  · unfold TableListed
    decide +kernel
  · exact fun i h => nomatch h
  · unfold TableListed
    decide +kernel
  · intro i h
    rcases List.mem_cons.mp h with rfl | h
    · exact ⟨_, rfl, rfl⟩
    · obtain rfl := List.mem_singleton.mp h
      exact ⟨_, rfl, rfl⟩
  · unfold RecencyListed
    decide +kernel
  · unfold OneCyclePerTag
    decide +kernel

theorem witness_GuardedModeAndHeldCapturesStay :
    let s := inHand (withCaptures cell) 1 (written (.captureRelease .router) 0x20120 0) 0
    Instr.captureRelease ≠ .resetN ∧ s.mode = .guarded ∧ s.captureOf .router = some someCapture ∧
      leaves .captureRelease s (fun t => t.captureOf .router != some someCapture) = true := by
  decide +kernel

end Sys2Proof.Tests
end

section
/-! PROOF. When a station of the Stacking Map is usable (R143). -/

namespace Sys2Proof.Machine

/-- The part of R143 about the state: READY and FILLING, and no other state, let a station be usable. -/
theorem Station.state_of_usable {st : Station} (h : st.usable = true) :
    st.state = .ready ∨ st.state = .filling := by
  obtain ⟨hstate, -⟩ := Bool.and_eq_true_iff.mp h
  simpa only [Bool.or_eq_true, beq_iff_eq] using hstate

/-- The part of R143 about the magazine, with the magazine named: it is not inhibited and has a FREE slot. -/
theorem Station.usable_iff_of_magazine {st : Station} {m : Magazine} (hm : st.magazine = some m) :
    st.usable = true ↔
      (st.state = .ready ∨ st.state = .filling) ∧ m.inhibited = false ∧ .free ∈ m.slots := by
  simp [Station.usable, hm]

/-- A station without a magazine has no slots, so none that is FREE (R130). -/
theorem Station.not_usable_of_no_magazine {st : Station} (hm : st.magazine = none) :
    st.usable = false := by
  simp [Station.usable, hm]

theorem Station.usable_iff (st : Station) :
    st.usable = true ↔ (st.state = .ready ∨ st.state = .filling) ∧
      ∃ m, st.magazine = some m ∧ m.inhibited = false ∧ .free ∈ m.slots := by
  cases hm : st.magazine with
  | none => simp [Station.not_usable_of_no_magazine hm]
  | some m => simp [Station.usable_iff_of_magazine hm]

/-- A DISABLED, VACANT, IDENTIFYING, FULL or FAULTED station is not usable, whatever it holds. -/
theorem Station.not_usable_of_state {st : Station}
    (h : st.state = .disabled ∨ st.state = .vacant ∨ st.state = .identifying ∨ st.state = .full ∨
      ∃ c, st.state = .faulted c) : st.usable = false := by
  refine Bool.eq_false_iff.mpr fun husable => ?_
  rcases Station.state_of_usable husable with hs | hs <;> simp [hs] at h

theorem Station.not_usable_of_inhibited {st : Station} {m : Magazine} (hm : st.magazine = some m)
    (hi : m.inhibited = true) : st.usable = false := by
  refine Bool.eq_false_iff.mpr fun husable => ?_
  obtain ⟨-, hfree, -⟩ := (Station.usable_iff_of_magazine hm).mp husable
  exact absurd hi (Bool.eq_false_iff.mp hfree)

/-- Settles O52: the three conditions of R143 are the definition's, case by case of the magazine. -/
theorem stationIsUsableWhen : Obligations.StationIsUsableWhen := fun st =>
  ⟨st.usable_iff, Station.not_usable_of_state, fun _ => Station.not_usable_of_inhibited⟩

end Sys2Proof.Machine
end

section
/-! PROOF. What RESET_N makes of the configuration (R196). -/

namespace Sys2Proof.Machine

/-! ### What a register without a configuration answers -/

/-- Without a ring layout no address lies in a ring (R5). -/
theorem State.ringRegion_of_no_layout {s : State} (h : s.rings = none) (a : Nat) :
    s.ringRegion a = none := by
  simp [State.ringRegion, h]

/-- While no flag is published, LINE_A is deasserted, whatever is routed to it (R181). -/
theorem State.lineA_of_no_flag {s : State} (h : s.published.flags = 0) : s.lineA = false := by
  simp [State.lineA, h]

/-- While no flag is published, LINE_B is deasserted, whatever is routed to it (R181). -/
theorem State.lineB_of_no_flag {s : State} (h : s.published.flags = 0) : s.lineB = false := by
  simp [State.lineB, h]

/-! ### The state after RESET_N -/

/-- The state that RESET_N leaves: the part at its reset values, before the same cell memory and the same
queue of commands (R21, R196; notes/assumptions/13.md). -/
def State.afterReset (s : State) : State :=
  { State.reset with mem := s.mem, pending := s.pending }

theorem exec_resetN (s : State) : exec .resetN s = .next s.afterReset := rfl

@[simp] theorem State.afterReset_mem (s : State) : s.afterReset.mem = s.mem := rfl

/-- The four ring cursors (R79). -/
@[simp] theorem State.afterReset_cursor (s : State) (ring : CmdRing) :
    s.afterReset.cursor ring = 0 := by
  cases ring <;> rfl

/-- The two Nest Contexts (R58). -/
@[simp] theorem State.afterReset_nest (s : State) (n : Nest) :
    s.afterReset.nest n = NestContext.reset := by
  cases n <;> rfl

/-- The sixteen lanes (R140, R141). -/
@[simp] theorem State.afterReset_lane (s : State) (i : Fin 16) :
    s.afterReset.lanes.get i = Lane.reset := Table.get_replicate _ i

/-- The eight stations (R130). -/
@[simp] theorem State.afterReset_station (s : State) (i : Fin 8) :
    s.afterReset.stations.get i = Station.reset := Table.get_replicate _ i

/-- The Magazine Type Table (R129). -/
@[simp] theorem State.afterReset_magType (s : State) (i : Fin 16) :
    s.afterReset.magTypes.get i = ⟨false, 0, 0, 0⟩ := Table.get_replicate _ i

@[simp] theorem State.afterReset_ringRegion (s : State) (a : Nat) :
    s.afterReset.ringRegion a = none := State.ringRegion_of_no_layout rfl a

@[simp] theorem State.afterReset_lineA (s : State) : s.afterReset.lineA = false :=
  State.lineA_of_no_flag rfl

@[simp] theorem State.afterReset_lineB (s : State) : s.afterReset.lineB = false :=
  State.lineB_of_no_flag rfl

/-- Settles O3, row by row of the table of R196. -/
theorem resetReturnsConfiguration : Obligations.ResetReturnsConfiguration := by
  intro s
  refine ⟨s.afterReset, exec_resetN s, s.afterReset_mem, ?_⟩
  have nests (n : Nest) : (s.afterReset.nest n).descriptor = none ∧
      (s.afterReset.nest n).state = .empty := by
    rw [s.afterReset_nest n]; exact ⟨rfl, rfl⟩
  have lanes (i : Fin 16) : (s.afterReset.lanes.get i).enabled = false ∧
      (s.afterReset.lanes.get i).kind = .normal ∧ (s.afterReset.lanes.get i).order = .up ∧
      (s.afterReset.lanes.get i).stations = [] ∧ (s.afterReset.lanes.get i).state = .closed := by
    rw [s.afterReset_lane i]; exact ⟨rfl, rfl, rfl, rfl, rfl⟩
  have stations (i : Fin 8) : (s.afterReset.stations.get i).mask = 0 ∧
      (s.afterReset.stations.get i).state = .disabled := by
    rw [s.afterReset_station i]; exact ⟨rfl, rfl⟩
  exact ⟨rfl, rfl, rfl, rfl, rfl, s.afterReset_cursor, s.afterReset_ringRegion, rfl,
    nests, lanes, stations, s.afterReset_magType, rfl, rfl, rfl, s.afterReset_lineA,
    s.afterReset_lineB⟩

end Sys2Proof.Machine
end

section
/-! PROOF. Steps, stops and reset (R1, R21, R196; notes/assumptions/1.md, 7.md, 12.md, 13.md). -/

namespace Sys2Proof.Machine

open Sys2Proof.Claims

/-! ### One step -/

theorem step_of_pending {s : State} {c : Instr} {rest : List Instr} (h : s.pending = c :: rest) :
    step s = exec c { s with pending := rest } := by
  simp [step, h]

theorem step_of_empty {s : State} (h : s.pending = []) : step s = .next s := by
  simp [step, h]

/-- What one step can be: idling on an empty queue, or the command at the front of the queue. -/
theorem step_cases {s t : State} (h : step s = .next t) :
    t = s ∨ ∃ c rest, s.pending = c :: rest ∧ exec c { s with pending := rest } = .next t := by
  cases hp : s.pending with
  | nil => rw [step_of_empty hp] at h; cases h; exact .inl rfl
  | cons c rest => rw [step_of_pending hp] at h; exact .inr ⟨c, rest, rfl, h⟩

/-- Settles O1: both clauses are the two cases of `step`. -/
theorem stepRunsFrontCommand : Obligations.StepRunsFrontCommand := fun _ =>
  ⟨fun _ _ h => step_of_pending h, step_of_empty⟩

/-! ### What can stop the model -/

theorem arrive_waiting {c : Cycle} {s : State} (h : s.masters.get c.tag = .waiting) :
    arrive c s = .fault (.tagOutstanding c.tag) := by
  simp [arrive, h]

theorem arrive_taken {c : Cycle} {s : State} (h : s.masters.get c.tag ≠ .waiting) :
    arrive c s = .next (s.takeCycle c) := by
  simp [arrive, h]

end Sys2Proof.Machine
end

section
/-! PROOF. What the changes of a run leave alone, part by part: the path of the cycles, the Board Cache, the
Open Command Table and the Stacking Map. A change that leaves all four alone, and that keeps what
`State.Keeps` says, is quiet. -/

namespace Sys2Proof.Machine

/-- The four parts of the state that the conditions kept by every step speak of. -/
inductive Part where
  | path | cache | table | map
deriving DecidableEq

/-- A run has the same part of the state as another; to the Stacking Map belongs the mark that the lanes are
to be re-evaluated (R144). -/
def Run.Same (r r' : Run) : Part → Prop
  | .path => r'.st.masters = r.st.masters ∧ r'.st.waits = r.st.waits ∧ r'.st.pass = r.st.pass ∧
      r'.st.requests = r.st.requests ∧ r'.st.engine = r.st.engine
  | .cache => r'.st.cache = r.st.cache ∧ r'.st.recency = r.st.recency
  | .table => r'.st.entries = r.st.entries ∧ r'.st.order = r.st.order ∧ r'.st.due = r.st.due
  | .map => r'.st.lanes = r.st.lanes ∧ r'.st.stations = r.st.stations ∧ r'.lanes = r.lanes

/-- A change that leaves the four parts alone and keeps the rest of what every step keeps. -/
structure Run.Quiet (r r' : Run) : Prop where
  same  : ∀ k, r.Same r' k
  keeps : r.st.Keeps r'.st

namespace Run

/-! ### The relations -/

theorem Same.refl (r : Run) (k : Part) : r.Same r k := by
  cases k <;> simp [Same]

theorem Same.trans {a b c : Run} {k : Part} (h : a.Same b k) (h' : b.Same c k) : a.Same c k := by
  cases k <;> simp_all [Same]

theorem Same.ite {r a b : Run} {k : Part} {p : Prop} [Decidable p] (ha : r.Same a k)
    (hb : r.Same b k) : r.Same (if p then a else b) k := by
  split <;> assumption

theorem Same.foldl {α : Type} {k : Part} {f : Run → α → Run} (h : ∀ (r : Run) x, r.Same (f r x) k)
    (l : List α) (r : Run) : r.Same (l.foldl f r) k := by
  induction l generalizing r with
  | nil => exact .refl r k
  | cons x l ih => exact (h r x).trans (ih _)

/-- A change of none of the fields that the four parts have. -/
theorem Same.of_eq {r r' : Run} (h : r'.st = r.st) (hl : r'.lanes = r.lanes) (k : Part) :
    r.Same r' k := by
  cases k <;> simp [Same, h, hl]

theorem Quiet.refl (r : Run) : r.Quiet r := ⟨Same.refl r, .refl _⟩

theorem Quiet.trans {a b c : Run} (h : a.Quiet b) (h' : b.Quiet c) : a.Quiet c :=
  ⟨fun k => (h.same k).trans (h'.same k), h.keeps.trans h'.keeps⟩

theorem Quiet.ite {r a b : Run} {p : Prop} [Decidable p] (ha : r.Quiet a) (hb : r.Quiet b) :
    r.Quiet (if p then a else b) := by
  split <;> assumption

theorem Quiet.foldl {α : Type} {f : Run → α → Run} (h : ∀ (r : Run) x, r.Quiet (f r x))
    (l : List α) (r : Run) : r.Quiet (l.foldl f r) :=
  ⟨fun k => Same.foldl (fun r x => (h r x).same k) l r, State.Keeps.foldl (fun r x => (h r x).keeps) l r⟩

/-- A change of duties alone. -/
theorem Quiet.of_eq {r r' : Run} (h : r'.st = r.st) (hl : r'.lanes = r.lanes) : r.Quiet r' :=
  ⟨Same.of_eq h hl, by rw [h]; exact .refl _⟩

/-! ### Quiet changes -/

theorem image_quiet (r : Run) (id : ImageId) : r.Quiet (r.image id) :=
  .of_eq (r.image_st id) (r.image_lanes id)

theorem image_same (r : Run) (id : ImageId) (k : Part) : r.Same (r.image id) k :=
  (r.image_quiet id).same k

/-- A quiet change of the state, with its image. -/
theorem modify_image_quiet {r : Run} {f : State → State} (id : ImageId) (h : r.Quiet (r.modify f)) :
    r.Quiet ((r.modify f).image id) := h.trans (image_quiet _ _)

/-- Raising a flag leaves the four parts alone. -/
theorem raise_same (r : Run) (f : Flag) (k : Part) : r.Same (r.raise f) k := by
  unfold raise
  refine Same.ite (Same.trans ?_ (image_same _ _ k)) (.refl r k)
  cases k <;> simp [Same]

theorem raise_quiet (r : Run) {f : Flag} (h : f.free) : r.Quiet (r.raise f) :=
  ⟨r.raise_same f, r.raise_keeps h⟩

theorem setNest_quiet (r : Run) (n : Nest) (c : NestContext) : r.Quiet (r.setNest n c) := by
  refine ⟨fun k => ?_, r.setNest_keeps n c⟩
  unfold setNest
  refine Same.ite (.refl r k) (Same.trans ?_ (image_same _ _ k))
  cases k <;> simp [Same]

theorem setCup_quiet (r : Run) (i : Fin 4) (c : Cup) : r.Quiet (r.setCup i c) := by
  refine ⟨fun k => ?_, r.setCup_keeps i c⟩
  unfold setCup
  refine Same.ite (.refl r k) (Same.trans ?_ (image_same _ _ k))
  cases k <;> simp [Same]

theorem setCursors_quiet (r : Run) (c : Cursors) : r.Quiet (r.setCursors c) := by
  refine ⟨fun k => ?_, r.setCursors_keeps c⟩
  unfold setCursors
  refine Same.ite (.refl r k) (Same.trans ?_ (image_same _ _ k))
  cases k <;> simp [Same]

theorem advance_quiet (r : Run) (ring : CmdRing) : r.Quiet (r.advance ring) := r.setCursors_quiet _

theorem keepEvent_quiet (r : Run) (ev : Event) : r.Quiet (r.keepEvent ev) := .of_eq rfl rfl

theorem dispute_quiet (r : Run) (t : Tag) (q : Request) (cause : Cause) (refs : Refs) :
    r.Quiet (r.dispute t q cause refs) := r.keepEvent_quiet _

theorem suspectCup_quiet (r : Run) (c : Option (Fin 4)) : r.Quiet (r.suspectCup c) := by
  cases c with
  | none => exact .refl r
  | some c => exact r.setCup_quiet _ _

theorem putCup_quiet (r : Run) (c : Option (Fin 4)) (cup : Cup) : r.Quiet (r.putCup c cup) := by
  cases c with
  | none => exact .refl r
  | some c => exact r.setCup_quiet _ _

theorem dropReferences_quiet (r : Run) (b : BoardRef) (but : Option (Fin 4)) :
    r.Quiet (r.dropReferences b but) :=
  .foldl (fun r _ => .ite (r.setCup_quiet _ _) (.refl r)) _ r

theorem giveCup_quiet (r : Run) (c : Fin 4) (cup : Cup) (b : BoardRef) :
    r.Quiet (r.giveCup c cup b) := (r.setCup_quiet c cup).trans (dropReferences_quiet _ _ _)

theorem reclaim_quiet (r : Run) (n : Nest) : r.Quiet (r.reclaim n) := r.setNest_quiet _ _

theorem boardEnded_quiet (r : Run) (n : Nest) : r.Quiet (r.boardEnded n) :=
  .ite (.ite ((r.setNest_quiet _ _).trans (raise_quiet _ trivial)) (r.setNest_quiet _ _)) (.refl r)

theorem drainTest_quiet (r : Run) (n : Nest) : r.Quiet (r.drainTest n) :=
  .ite ((r.setNest_quiet _ _).trans (raise_quiet _ trivial)) (.refl r)

theorem stopNest_quiet (r : Run) (n : Nest) : r.Quiet (r.stopNest n) :=
  .ite ((r.setNest_quiet _ _).trans (drainTest_quiet _ _)) (.refl r)

theorem resumeNest_quiet (r : Run) (n : Nest) : r.Quiet (r.resumeNest n) := r.setNest_quiet _ _

theorem queueJob_quiet (r : Run) (job : Job) : r.Quiet (r.queueJob job) :=
  ⟨fun k => by cases k <;> simp [Same, queueJob], .of_same rfl rfl rfl rfl rfl⟩

theorem freeWalker_quiet (r : Run) : r.Quiet r.freeWalker :=
  ⟨fun k => by cases k <;> simp [Same, freeWalker], .of_same rfl rfl rfl rfl rfl⟩

/-- A cancelled load changes the queue of jobs and the walker alone (R74). -/
theorem cancelLoad_quiet (r : Run) (n : Nest) : r.Quiet (r.modify fun s => s.cancelLoad n) := by
  have h : ∃ w js, r.st.cancelLoad n = { r.st with walker := w, jobs := js } := by
    unfold State.cancelLoad
    simp only
    split <;> (try split) <;> exact ⟨_, _, rfl⟩
  obtain ⟨w, js, h⟩ := h
  refine ⟨fun k => ?_, r.modify_keeps ?_⟩
  · cases k <;> simp [Same, h]
  · rw [h]; exact .of_same rfl rfl rfl rfl rfl

theorem releaseNest_quiet (r : Run) (n : Nest) : r.Quiet (r.releaseNest n) :=
  .ite ((r.cancelLoad_quiet n).trans (setNest_quiet _ _ _))
    ((r.setNest_quiet _ _).trans (queueJob_quiet _ _))

theorem redirty_quiet (r : Run) : r.Quiet (r.modify State.redirty) := by
  refine ⟨fun k => ?_, r.modify_keeps r.st.redirty_keeps⟩
  cases k <;> simp only [Same, modify_st, modify_lanes] <;> unfold State.redirty <;> split <;> simp

/-! ### The Condition Unit -/

theorem fillCapture_same (r : Run) (ev : Event) (k : Part) : r.Same (r.fillCapture ev) k := by
  refine Same.trans ?_ (image_same _ _ k)
  refine Same.trans ?_ (raise_same _ _ k)
  refine Same.trans ?_ (image_same _ _ k)
  cases k <;> simp [Same]

theorem noteEvent_quiet (r : Run) (ev : Event) : r.Quiet (r.noteEvent ev) := by
  refine ⟨fun k => ?_, r.noteEvent_keeps ev⟩
  unfold noteEvent
  refine Same.ite ?_ (.refl r k)
  split
  · exact r.fillCapture_same ev k
  · exact .refl r k

theorem refusal_quiet (r : Run) (ev : Event) : r.Quiet (r.refusal ev).2 := by
  refine ⟨fun k => ?_, r.refusal_keeps ev⟩
  unfold refusal
  split
  · split
    · exact r.fillCapture_same ev k
    · exact (r.raise_same _ k).trans (image_same _ _ k)
  · exact .refl r k

theorem guardRefusal_quiet (r : Run) (g : GuardRecord) : r.Quiet (r.guardRefusal g) := by
  refine ⟨fun k => ?_, r.guardRefusal_keeps g⟩
  refine Same.trans ?_ (image_same _ _ k)
  refine Same.trans ?_ (raise_same _ _ k)
  cases k <;> simp [Same]

theorem releaseCapture_same (r : Run) (src : Source) (k : Part) :
    r.Same (r.releaseCapture src) k := by
  refine Same.trans ?_ (image_same _ _ k)
  refine Same.trans ?_ (image_same _ _ k)
  cases k <;> simp [Same]

/-! ### The end of a request -/

theorem handEvents_quiet (r : Run) : r.Quiet r.handEvents := by
  have hstart : r.Quiet { r with events := [] } := .of_eq rfl rfl
  exact hstart.trans (.foldl (fun r ev => r.noteEvent_quiet ev) _ _)

theorem queueImages_quiet (r : Run) : r.Quiet r.queueImages := by
  refine ⟨fun k => ?_, r.queued_keeps⟩
  cases k <;> simp only [Same, queueImages] <;> rw [r.queued_eq] <;> simp

end Run

end Sys2Proof.Machine
end

section
/-! PROOF. The changes of a run that reach the Board Cache, the Stacking Map or the Open Command Table: each
leaves the other parts alone. -/

namespace Sys2Proof.Machine

/-- A change that leaves every part but one alone, and keeps the rest of what every step keeps. -/
structure Run.Only (x : Part) (r r' : Run) : Prop where
  same  : ∀ k, k ≠ x → r.Same r' k
  keeps : r.st.Keeps r'.st

namespace Run

theorem Only.refl (x : Part) (r : Run) : Only x r r := ⟨fun k _ => .refl r k, .refl _⟩

theorem Only.trans {x : Part} {a b c : Run} (h : Only x a b) (h' : Only x b c) : Only x a c :=
  ⟨fun k hk => (h.same k hk).trans (h'.same k hk), h.keeps.trans h'.keeps⟩

theorem Quiet.only {r r' : Run} (h : r.Quiet r') (x : Part) : Only x r r' := ⟨fun k _ => h.same k, h.keeps⟩

theorem Only.ite {x : Part} {r a b : Run} {p : Prop} [Decidable p] (ha : Only x r a) (hb : Only x r b) :
    Only x r (if p then a else b) := by
  split <;> assumption

theorem Only.foldl {α : Type} {x : Part} {f : Run → α → Run} (h : ∀ (r : Run) y, Only x r (f r y))
    (l : List α) (r : Run) : Only x r (l.foldl f r) :=
  ⟨fun k hk => Same.foldl (fun r y => (h r y).same k hk) l r,
    State.Keeps.foldl (fun r y => (h r y).keeps) l r⟩

/-! ### The Board Cache -/

/-- The changes of the cache and its recency order that the Engine makes: a valid entry is touched, an entry
is written and touched, a valid entry is rewritten, an entry becomes invalid. -/
inductive Lines : Run → Run → Prop
  | touch (r : Run) (i : Fin 64) (h : (r.st.cache.get i).isSome) :
      Lines r (r.modify fun s => s.touch i)
  | put (r : Run) (i : Fin 64) (l : CacheLine) :
      Lines r (r.modify fun s => (s.setLine i (some l)).touch i)
  | rewrite (r : Run) (i : Fin 64) (l : CacheLine) (h : (r.st.cache.get i).isSome) :
      Lines r (r.modify fun s => s.setLine i (some l))
  | drop (r : Run) (i : Fin 64) : Lines r (r.modify fun s => s.invalidate i)

theorem Lines.only {r r' : Run} (h : r.Lines r') : Only .cache r r' := by
  cases h with
  | touch i hi => exact ⟨fun k hk => by cases k <;> simp_all [Same], State.touch_keeps _ _⟩
  | put i l =>
    exact ⟨fun k hk => by cases k <;> simp_all [Same],
      (State.setLine_keeps _ _ _).trans (State.touch_keeps _ _)⟩
  | rewrite i l hi => exact ⟨fun k hk => by cases k <;> simp_all [Same], State.setLine_keeps _ _ _⟩
  | drop i =>
    exact ⟨fun k hk => by cases k <;> simp_all [Same, State.invalidate], State.invalidate_keeps _ _⟩

/-- A change of a board's record: none, or an entry written and touched, and then a quiet change. -/
theorem changeBoard_lines (r : Run) (b : BoardRef) (f : BoardHw → BoardHw) :
    r.changeBoard b f = r ∨ ∃ r', r.Lines r' ∧ r'.Quiet (r.changeBoard b f) := by
  unfold changeBoard
  cases r.st.lineOf b with
  | none => exact .inl rfl
  | some i =>
    simp only
    cases r.st.cache.get i with
    | none => exact .inl rfl
    | some l =>
      simp only
      split
      · exact .inl rfl
      · let l' : CacheLine :=
          { l with words := l.words.withHw { f l.words.hw with time := r.st.time }, dirty := true }
        exact .inr ⟨_, .put r i l', (Quiet.ite (redirty_quiet _) (.refl _)).trans (setNest_quiet _ _ _)⟩

theorem changeBoard_only (r : Run) (b : BoardRef) (f : BoardHw → BoardHw) :
    Only .cache r (r.changeBoard b f) := by
  rcases r.changeBoard_lines b f with h | ⟨r', hl, hq⟩
  · rw [h]; exact .refl _ r
  · exact hl.only.trans (hq.only _)

/-- Word 1 of a record replaced in the entry that holds it, if one does (R37). -/
theorem replaceWord1_lines (r : Run) (b : BoardRef) (w1 : Word) :
    (r.modify fun s => s.replaceWord1 b w1) = r ∨ r.Lines (r.modify fun s => s.replaceWord1 b w1) := by
  cases hi : r.st.lineOf b with
  | none => left; simp [modify, State.replaceWord1, hi]
  | some i =>
    cases hl : r.st.cache.get i with
    | none => left; simp [modify, State.replaceWord1, hi, hl]
    | some l =>
      right
      have h := Lines.rewrite r i { l with words := { l.words with w1 := w1 } } (by simp [hl])
      simpa [modify, State.replaceWord1, hi, hl] using h

/-! ### The Stacking Map -/

theorem raise_only (x : Part) (r : Run) {f : Flag} (h : f.free) : Only x r (r.raise f) :=
  (r.raise_quiet h).only x

theorem setLane_only (r : Run) (i : Fin 16) (l : Lane) : Only .map r (r.setLane i l) := by
  refine ⟨fun k hk => ?_, r.setLane_keeps i l⟩
  unfold setLane
  refine Same.ite (.refl r k) (Same.trans ?_ (image_same _ _ k))
  cases k <;> simp_all [Same]

theorem touchLanes_only (r : Run) : Only .map r r.touchLanes :=
  ⟨fun k hk => by cases k <;> simp_all [Same, touchLanes], .refl _⟩

theorem setStation_only (r : Run) (i : Fin 8) (st : Station) : Only .map r (r.setStation i st) := by
  refine ⟨fun k hk => ?_, r.setStation_keeps i st⟩
  unfold setStation
  refine Same.ite (.refl r k) (Same.trans ?_ ((touchLanes_only _).same k hk))
  refine Same.trans ?_ (image_same _ _ k)
  cases k <;> simp_all [Same]

theorem setSlots_only (r : Run) (i : Fin 8) (f : List SlotState → List SlotState) :
    Only .map r (r.setSlots i f) :=
  .ite ((r.setStation_only _ _).trans (raise_only _ _ (f := .stationChange) trivial))
    (r.setStation_only _ _)

theorem announce_only (r : Run) (i : Fin 16) (l : Lane) : Only .map r (r.announce i l) :=
  .ite ((r.setLane_only _ _).trans (raise_only _ _ (f := .laneStopped) trivial)) (r.setLane_only _ _)

theorem reevaluateLane_only (r : Run) (i : Fin 16) : Only .map r (r.reevaluateLane i) :=
  .ite (.refl _ r) (.ite ((r.setLane_only _ _).trans (raise_only _ _ (f := .laneExhausted) trivial))
    (r.announce_only _ _))

theorem settleLanes_only (r : Run) : Only .map r r.settleLanes := by
  have h : Only .map r r.reevaluate := .foldl (fun r i => r.reevaluateLane_only i) _ r
  unfold settleLanes
  generalize r.reevaluate = r' at h ⊢
  split
  · exact h.trans ⟨fun k hk => by cases k <;> simp_all [Same], .refl _⟩
  · exact .refl _ r

theorem setPending_only (r : Run) (i : Fin 16) (n : Nat) : Only .map r (r.setPending i n) :=
  r.announce_only _ _

theorem pairEnded_only (r : Run) (i : Fin 16) : Only .map r (r.pairEnded i) :=
  (r.setPending_only _ _).trans (touchLanes_only _)

theorem takeSelection_only (r : Run) (sel : Selection) : Only .map r (r.takeSelection sel) :=
  ((r.setLane_only _ _).trans (setSlots_only _ _ _)).trans (touchLanes_only _)

theorem stopLane_only (r : Run) (i : Fin 16) (q : StopRequest) : Only .map r (r.stopLane i q) :=
  (Only.trans (.ite (.refl _ r) (r.announce_only _ _)) ((image_quiet _ _).only _)).trans (touchLanes_only _)

theorem resumeLane_only (r : Run) (i : Fin 16) : Only .map r (r.resumeLane i) :=
  ((r.setLane_only _ _).trans ((image_quiet _ _).only _)).trans (touchLanes_only _)

theorem markSlot_only (r : Run) (i : Fin 8) (slot : Nat) (x : SlotState) :
    Only .map r (r.markSlot i slot x) :=
  ((r.setSlots_only _ _).trans ((image_quiet _ _).only _)).trans (touchLanes_only _)

theorem configureLane_only (ws : List Word) (r : Run) (i : Fin 16) :
    Only .map r (configureLane ws r i) := (r.setLane_only _ _).trans ((image_quiet _ _).only _)

theorem clearStation_only (r : Run) (i : Fin 8) : Only .map r (r.clearStation i) :=
  .ite (r.setSlots_only _ _) (.refl _ r)

theorem endSlots_only (r : Run) (x : PairEnd) (d : Destination) (o : Observation) :
    Only .map r (r.endSlots x d o) := by
  unfold endSlots
  cases x with
  | stacked => exact r.setSlots_only _ _
  | relocated slot => exact (r.setSlots_only _ _).trans (raise_only _ _ (f := .relocated) trivial)
  | stationChanged => exact raise_only _ _ (f := .uncertain) trivial
  | collision =>
    exact (((r.setStation_only _ _).trans (raise_only _ _ (f := .stationChange) trivial)).trans
      (setLane_only _ _ _)).trans (raise_only _ _ (f := .uncertain) trivial)
  | aborted => exact .ite (r.setSlots_only _ _) (.refl _ r)
  | dropped => exact .ite (r.setSlots_only _ _) (.refl _ r)

/-! ### The Open Command Table -/

theorem setEntry_only (r : Run) (i : Fin 32) (e : Option Entry) : Only .table r (r.setEntry i e) := by
  refine ⟨fun k hk => Same.trans ?_ (image_same _ _ k), r.setEntry_keeps i e⟩
  cases k <;> simp_all [Same]

theorem openEntry_only (r : Run) (i : Fin 32) (e : Entry) (limit : Nat) :
    Only .table r (r.openEntry i e limit) := by
  refine ⟨fun k hk => Same.trans ?_ ((setEntry_only _ _ _).same k hk), r.openEntry_keeps i e limit⟩
  cases k <;> simp_all [Same]

theorem markExpired_only (r : Run) (i : Fin 32) (e : Entry) (cause : ExpiryCause) :
    Only .table r (r.markExpired i e cause) := by
  refine ⟨fun k hk => Same.trans ?_ ((setEntry_only _ _ _).same k hk), r.markExpired_keeps i e cause⟩
  cases k <;> simp_all [Same]

theorem freeEntry_only (r : Run) (i : Fin 32) : Only .table r (r.freeEntry i) := by
  refine ⟨fun k hk => ?_, r.freeEntry_keeps i⟩
  unfold freeEntry
  cases r.st.entries.get i with
  | none => exact .refl r k
  | some e =>
    refine Same.trans ?_ ((setEntry_only _ _ _).same k hk)
    split <;> cases k <;> simp_all [Same]

theorem removeEntries_only (r : Run) (ids : List (Fin 32)) : Only .table r (r.removeEntries ids) :=
  (Only.foldl (fun r i => r.freeEntry_only i) ids r).trans
    ((Quiet.foldl (fun r n => r.reclaim_quiet n) _ _).only _)

end Run

end Sys2Proof.Machine
end

section
/-! PROOF. What goes on in the part without the Engine changes none of the registers that the Engine judges by,
whatever the Engine is doing: `State.calm` blots out the Engine's own place as well (R18, R20). -/

namespace Sys2Proof.Machine

/-- A state with everything blotted out that changes without the Engine's doing, the request that it takes
next among it (R18). -/
def State.calm (s : State) : State := { s.steady with engine := .idle, lastServed := 0 }

theorem State.calm_of_steady {s t : State} (h : t.steady = s.steady) : t.calm = s.calm := by
  simp [State.calm, h]

theorem State.takeNext_calm (s : State) : s.takeNext.calm = s.calm := by
  unfold State.takeNext
  split
  · split <;> rfl
  · rfl
  · rfl

/-! ### A cycle that arrives -/

theorem State.hold_calm (s : State) (c : Cycle) (cls : RequestClass) : (s.hold c cls).calm = s.calm :=
  State.takeNext_calm _

theorem State.dispatch_calm (s : State) (c : Cycle) (f : Fate) : (s.dispatch c f).calm = s.calm := by
  cases f with
  | pass => rfl
  | boardRead b word =>
    show (s.readBoard c b word).calm = _
    unfold State.readBoard
    split <;> rfl
  | held cls => exact s.hold_calm c cls
  | refused cause =>
    exact State.calm_of_steady
      ((Run.awaitImages_steady _ _ _).trans (Run.refusal_aside (Run.start s []) _))
  | guarded =>
    exact State.calm_of_steady
      ((Run.awaitImages_steady _ _ _).trans (Run.guardRefusal_aside (Run.start s []) _))
  | plain a => rfl

theorem State.takeCycle_calm (s : State) (c : Cycle) : (s.takeCycle c).calm = s.calm :=
  (State.dispatch_calm _ _ _).trans rfl

/-! ### The ends of the walker's jobs -/

theorem State.present_calm {s u : State} (h : u.steady = s.steady) (w : Walker) :
    (State.takeNext { u with walker := w }).calm = s.calm :=
  (State.takeNext_calm _).trans (State.calm_of_steady h)

theorem State.endLoadJob_calm (s : State) : s.endLoadJob.calm = s.calm := by
  unfold State.endLoadJob
  split
  · split
    · split
      · rfl
      · exact State.present_calm rfl _
    · rfl
  · rfl
  · rfl

theorem State.endSyncJob_calm (s : State) : s.endSyncJob.calm = s.calm := by
  have h := s.scan_steady 64
  unfold State.endSyncJob
  generalize s.scan 64 = u at h
  split
  · split
    · split
      · exact State.present_calm h _
      · rfl
    · rfl
    · rfl
  · rfl
  · rfl

theorem State.endReleaseJob_calm (s : State) : s.endReleaseJob.calm = s.calm := by
  have h := s.scan_steady 64
  unfold State.endReleaseJob
  generalize s.scan 64 = u at h
  split
  · split
    · split
      · exact State.present_calm h _
      · rfl
    · rfl
    · rfl
  · rfl
  · rfl

theorem State.endJob_calm (s : State) : s.endJob.calm = s.calm :=
  (State.endReleaseJob_calm _).trans ((State.endSyncJob_calm _).trans s.endLoadJob_calm)

/-! ### The port -/

theorem State.completeEngine_calm (s : State) (id : ImageId) : (s.completeEngine id).calm = s.calm := by
  unfold State.completeEngine
  split
  · rfl
  · rfl
  · simp only
    split
    · exact State.takeNext_calm _
    · rfl

theorem State.grantImage_calm (s : State) (hard : Bool) : (s.grantImage hard).calm = s.calm := by
  unfold State.grantImage
  split
  · rfl
  · next id rest _ =>
    have h : ∀ u : State, u.calm = s.calm →
        (((u.publish id).completeWaits id).completeEngine id).calm = s.calm := fun u hu =>
      (State.completeEngine_calm _ _).trans ((State.calm_of_steady
        ((State.completeWaits_steady _ _).trans (State.publish_steady _ _))).trans hu)
    cases hard
    · exact h _ rfl
    · exact (State.calm_of_steady (State.raise_steady _ .memory)).trans (h _ rfl)

theorem State.grant_calm (s : State) (hard : Bool) (src : Option PortSource) :
    (s.grant hard src).calm = s.calm := by
  unfold State.grant
  split
  · rfl
  · exact State.calm_of_steady (s.grantPass_steady hard)
  · rfl
  · exact State.calm_of_steady (State.grantWalker_steady _ hard)
  · exact s.grantImage_calm hard

theorem State.portCycle_calm (s : State) (engine : Bool) (visits : Nat) (hard : Bool) :
    (s.portCycle engine visits hard).calm = s.calm :=
  (State.grant_calm _ _ _).trans (State.calm_of_steady (s.scan_steady visits))

/-! ### What the Engine waits through -/

theorem State.meanwhile_calm (e : EngineCycle) (s : State) (m : Meanwhile) :
    (s.meanwhile e m).calm = s.calm := by
  cases m with
  | timebase => exact State.calm_of_steady s.tick_steady
  | arrival c =>
    show State.calm (if s.masters.get c.tag = .waiting then s else s.takeCycle c) = _
    split
    · rfl
    · exact s.takeCycle_calm c
  | portCycle visits hard =>
    cases e with
    | quiet => exact s.portCycle_calm false visits hard
    | presented => exact s.portCycle_calm true visits hard
    | inFlight => exact State.calm_of_steady (s.scan_steady visits)
  | jobStart => exact State.calm_of_steady s.startJob_steady
  | jobEnd => exact s.endJob_calm

/-! ### Predicates that hold through a cycle of the Engine -/

/-- A predicate that everything keeps that goes on while the Engine waits for one of its cycles: what can go on
beside a request, the grants that the rotation puts before the Engine's, and the Engine's own grant (R20). -/
structure Patient (P : State → Prop) : Prop where
  meanwhile : ∀ e s m, P s → P (s.meanwhile e m)
  grant     : ∀ s src, P s → P (s.grant false src)
  portLast  : ∀ s p, P s → P { s with portLast := p }

namespace Patient

variable {P : State → Prop}

theorem foldl (h : Patient P) (e : EngineCycle) (l : List Meanwhile) {s : State} (hs : P s) :
    P (l.foldl (State.meanwhile e) s) := by
  induction l generalizing s with
  | nil => exact hs
  | cons m l ih => exact ih (h.meanwhile e s m hs)

theorem yieldPort (h : Patient P) (n : Nat) {s : State} (hs : P s) : P (s.yieldPort n) := by
  induction n generalizing s with
  | zero => exact hs
  | succ n ih =>
    unfold State.yieldPort
    split
    · exact hs
    · exact hs
    · exact ih (h.grant _ _ hs)

theorem await (h : Patient P) {s : State} (hs : P s) (a : MemAnswer) : P (s.await a) :=
  h.foldl _ _ (h.portLast _ _ (h.yieldPort 3 (h.foldl _ _ (h.foldl _ _ hs))))

end Patient

/-- The registers that the Engine judges by stand through everything that goes on beside a request. -/
theorem State.calm_patient (s : State) : Patient fun t => t.calm = s.calm where
  meanwhile e t m h := (t.meanwhile_calm e m).trans h
  grant t src h := (t.grant_calm false src).trans h
  portLast _ _ h := h

theorem State.await_calm (s : State) (a : MemAnswer) : (s.await a).calm = s.calm :=
  s.calm_patient.await rfl a

section Calm

variable {s t : State} (h : t.calm = s.calm)
include h

theorem State.entries_of_calm : t.entries = s.entries :=
  (congrArg State.entries h : t.calm.entries = s.calm.entries)

theorem State.order_of_calm : t.order = s.order :=
  (congrArg State.order h : t.calm.order = s.calm.order)

theorem State.lanes_of_calm : t.lanes = s.lanes :=
  (congrArg State.lanes h : t.calm.lanes = s.calm.lanes)

theorem State.stations_of_calm : t.stations = s.stations :=
  (congrArg State.stations h : t.calm.stations = s.calm.stations)

end Calm

/-! ### The Engine's cycles, part by part -/

namespace Run

theorem cycle_calm (r : Run) : r.cycle.2.st.calm = r.st.calm := r.st.await_calm _

theorem raise_calm (r : Run) (f : Flag) : (r.raise f).st.calm = r.st.calm :=
  State.calm_of_steady (r.raise_aside f)

theorem read_calm (r : Run) (a : Nat) : (r.read a).2.st.calm = r.st.calm := by
  unfold read
  split
  · exact (raise_calm _ _).trans r.cycle_calm
  · exact r.cycle_calm

theorem write_calm (r : Run) (a : Nat) (w : Word) : (r.write a w).2.st.calm = r.st.calm := by
  unfold write
  split
  · exact (raise_calm _ _).trans r.cycle_calm
  · exact r.cycle_calm

theorem reads_calm (r : Run) (a n : Nat) : (r.reads a n).2.st.calm = r.st.calm := by
  induction n generalizing r a with
  | zero => rfl
  | succ n ih =>
    have h := r.read_calm a
    unfold reads
    split
    · next e => rw [e] at h; exact h
    · next w r' e =>
      rw [e] at h
      have k := ih r' (a + 8)
      split
      · next e' => rw [e'] at k; exact k.trans h
      · next e' => rw [e'] at k; exact k.trans h

theorem writes_calm (r : Run) (ws : List (Nat × Word)) : (r.writes ws).2.st.calm = r.st.calm := by
  induction ws generalizing r with
  | nil => rfl
  | cons p ws ih =>
    have h := r.write_calm p.1 p.2
    unfold writes
    split
    · next e => rw [e] at h; exact h
    · next r' e => rw [e] at h; exact (ih r').trans h

end Run

end Sys2Proof.Machine
end

section
/-! PROOF. Properties of a run that every operation of a request keeps. `Steady` lists the changes outside the
Open Command Table that such a property is to bear; what a request does to the cache, to the lanes and
stations, and at its end, follows from them. -/

namespace Sys2Proof.Machine

/-! ### The lanes and stations -/

/-- A lane that comes from another by a change that leaves it settled wherever it was: it is CLOSED, PAUSED or
STOPPED, or it keeps its state, its stations and its place, and at most drops its stop (R141, R144). -/
def Lane.Follows (l old : Lane) : Prop :=
  (l.state = .closed ∨ l.state = .paused ∨ l.state = .stopped) ∨
    (l.state = old.state ∧ l.stations = old.stations ∧ l.current = old.current ∧
      (l.stop = old.stop ∨ l.stop = none))

theorem Lane.Follows.without_stop {l old : Lane} (h : l.Follows old) :
    Lane.Follows { l with stop := none } old :=
  h.imp id fun ⟨hs, hl, hc, _⟩ => ⟨hs, hl, hc, .inr rfl⟩

theorem Lane.pending_follows (l : Lane) (n : Nat) : Lane.Follows { l with pending := n } l :=
  .inr ⟨rfl, rfl, rfl, .inl rfl⟩

theorem Lane.collide_follows (l : Lane) : l.collide.Follows l := by
  unfold Lane.collide
  split
  · exact .inl (.inr (.inl rfl))
  · exact .inl (.inr (.inl rfl))
  all_goals exact .inr ⟨rfl, rfl, rfl, .inl rfl⟩

namespace Run

/-- The changes of the lanes and stations that a request makes. -/
inductive Moves : Run → Run → Prop
  | touch (r : Run) : Moves r r.touchLanes
  | station (r : Run) (i : Fin 8) (st : Station) : Moves r (r.setStation i st)
  | lane (r : Run) (i : Fin 16) (l : Lane) (h : l.Follows (r.st.lanes.get i)) : Moves r (r.setLane i l)
  | select (r : Run) (sel : Selection) : Moves r (r.takeSelection sel)
  | stop (r : Run) (i : Fin 16) (q : StopRequest) : Moves r (r.stopLane i q)
  | resume (r : Run) (i : Fin 16) : Moves r (r.resumeLane i)
  | configure (r : Run) (ws : List Word) :
      Moves r ((List.finRange 16).foldl (configureLane ws) r).touchLanes
  | settle (r : Run) : Moves r r.settleLanes

theorem Moves.only {r r' : Run} (h : r.Moves r') : Only .map r r' := by
  cases h with
  | touch => exact r.touchLanes_only
  | station i st => exact r.setStation_only i st
  | lane i l _ => exact r.setLane_only i l
  | select sel => exact r.takeSelection_only sel
  | stop i q => exact r.stopLane_only i q
  | resume i => exact r.resumeLane_only i
  | configure ws => exact (Only.foldl (configureLane_only ws) _ r).trans (touchLanes_only _)
  | settle => exact r.settleLanes_only

/-! ### The configuration -/

/-- A state with the configuration and the registers blotted out that no part of `Part` and no clause of
`State.Keeps` speaks of. -/
def bare (s : State) : State :=
  { s with
    roles := none, rings := none, imageBase := none, lastServed := 0, portLast := .pass, passLast := 0
    walker := .idle, jobs := [], nestA := .reset, nestB := .reset, time := 0, limits := ⟨0, 0, 0, 0, 0⟩
    cursors := ⟨0, 0, 0, 0⟩, cups := Table.replicate 4 ⟨.empty, none⟩
    magTypes := Table.replicate 16 ⟨false, 0, 0, 0⟩, lastGuard := none, loadGen := 0, loadStatus := .none
    routeA := 0, routeB := 0, published := ⟨0, 0, 0⟩, pending := [] }

/-- A change of the configuration alone is quiet. -/
theorem modify_quiet {r : Run} {f : State → State} (h : bare (f r.st) = bare r.st) :
    r.Quiet (r.modify f) := by
  have field {α : Type} (g : State → α) : g (bare (f r.st)) = g (bare r.st) := congrArg g h
  refine ⟨fun k => ?_, .of_same (field State.mode) (field State.mem) (field State.flags)
    (field State.captures) (field State.images)⟩
  cases k with
  | path => exact ⟨field State.masters, field State.waits, field State.pass, field State.requests,
      field State.engine⟩
  | cache => exact ⟨field State.cache, field State.recency⟩
  | table => exact ⟨field State.entries, field State.order, field State.due⟩
  | map => exact ⟨field State.lanes, field State.stations, rfl⟩

theorem stored_quiet (r : Run) (a : Nat) (w : Word) :
    r.Quiet (r.modify fun s => { s with mem := Memory.writeBytes s.mem a w 8 }) :=
  ⟨fun k => by cases k <;> simp [Same], State.write_keeps _ _ _ _⟩

/-- The status block leaves its place in the queue when the full image is collected (R194). -/
theorem fullImage_quiet (r : Run) : r.Quiet r.fullImage := by
  have hrecords : r.Quiet (fullImageRecords.foldl Run.image r) := .foldl image_quiet fullImageRecords r
  have herase (r : Run) : r.Quiet (r.modify fun s => { s with images := s.images.erase .status }) := by
    refine ⟨fun k => by cases k <;> simp [Same], rfl, id, fun h => h, fun h ho => ?_, fun _ _ e => e⟩
    obtain ⟨hi, hf, hc⟩ := h ho
    exact ⟨by simp [hi], hf, hc⟩
  unfold fullImage
  generalize fullImageRecords.foldl Run.image r = r' at hrecords ⊢
  simp only
  refine (hrecords.trans (herase r')).trans (Quiet.trans ?_ (image_quiet _ _))
  exact .of_eq rfl rfl

/-! ### Still and steady properties -/

/-- A property of a run that every change keeps that a request makes of its own outside the Open Command
Table. -/
structure Still (J : Run → Prop) : Prop where
  quiet : ∀ {r r' : Run}, r.Quiet r' → J r → J r'
  lines : ∀ {r r' : Run}, r.Lines r' → J r → J r'
  moves : ∀ {r r' : Run}, r.Moves r' → J r → J r'

/-- A still property that the Engine's cycles keep as well, with all that goes on beside them, and the step into
GUARDED mode. -/
structure Steady (J : Run → Prop) : Prop extends Still J where
  cycle  : ∀ r : Run, J r → J r.cycle.2
  enters : ∀ r : Run, J r → J (r.modify fun s => { s with mode := .guarded })

/-- A property that each of a list of changes keeps. -/
theorem kept_foldl (J : Run → Prop) {α : Type} {f : Run → α → Run} (hf : ∀ (r : Run) x, J r → J (f r x))
    (l : List α) {r : Run} (hr : J r) : J (l.foldl f r) := by
  induction l generalizing r with
  | nil => exact hr
  | cons x l ih => exact ih (hf r x hr)

/-- The Open Command Table stands through every change outside it. -/
theorem Still.same_table (r : Run) : Still fun r' => r.Same r' .table where
  quiet q h := h.trans (q.same _)
  lines l h := h.trans (l.only.same _ (by decide))
  moves m h := h.trans (m.only.same _ (by decide))

namespace Still

variable {J : Run → Prop} (h : Still J)
include h

/-! #### The Board Cache -/

theorem changeBoard {r : Run} (hr : J r) (b : BoardRef) (f : BoardHw → BoardHw) :
    J (r.changeBoard b f) := by
  rcases r.changeBoard_lines b f with e | ⟨r', hl, hq⟩
  · rw [e]; exact hr
  · exact h.quiet hq (h.lines hl hr)

theorem replaceWord1 {r : Run} (hr : J r) (b : BoardRef) (w1 : Word) :
    J (r.modify fun s => s.replaceWord1 b w1) := by
  rcases r.replaceWord1_lines b w1 with e | hl
  · rw [e]; exact hr
  · exact h.lines hl hr

/-! #### The Stacking Map -/

theorem setSlots {r : Run} (hr : J r) (i : Fin 8) (f : List SlotState → List SlotState) :
    J (r.setSlots i f) := by
  unfold Run.setSlots
  simp only
  split
  · exact h.quiet (raise_quiet _ (f := .stationChange) trivial) (h.moves (.station r i _) hr)
  · exact h.moves (.station r i _) hr

theorem touchLanes {r : Run} (hr : J r) : J r.touchLanes := h.moves (.touch r) hr

theorem announce {r : Run} (hr : J r) (i : Fin 16) {l : Lane} (hl : l.Follows (r.st.lanes.get i)) :
    J (r.announce i l) := by
  unfold Run.announce
  split
  · exact h.quiet (raise_quiet _ (f := .laneStopped) trivial) (h.moves (.lane r i _ hl.without_stop) hr)
  · exact h.moves (.lane r i l hl) hr

theorem setPending {r : Run} (hr : J r) (i : Fin 16) (n : Nat) : J (r.setPending i n) :=
  h.announce hr i (Lane.pending_follows _ n)

theorem pairEnded {r : Run} (hr : J r) (i : Fin 16) : J (r.pairEnded i) :=
  h.touchLanes (h.setPending hr i _)

theorem markSlot {r : Run} (hr : J r) (i : Fin 8) (slot : Nat) (x : SlotState) :
    J (r.markSlot i slot x) :=
  h.touchLanes (h.quiet (image_quiet _ _) (h.setSlots hr i _))

theorem clearStation {r : Run} (hr : J r) (i : Fin 8) : J (r.clearStation i) := by
  unfold Run.clearStation
  split
  · exact h.setSlots hr i _
  · exact hr

theorem endSlots {r : Run} (hr : J r) (x : PairEnd) (d : Destination) (o : Observation) :
    J (r.endSlots x d o) := by
  unfold Run.endSlots
  cases x with
  | stacked => exact h.setSlots hr _ _
  | relocated slot => exact h.quiet (raise_quiet _ (f := .relocated) trivial) (h.setSlots hr _ _)
  | stationChanged => exact h.quiet (raise_quiet _ (f := .uncertain) trivial) hr
  | collision =>
    refine h.quiet (raise_quiet _ (f := .uncertain) trivial) (h.moves (.lane _ _ _ ?_) ?_)
    · exact Lane.collide_follows _
    · exact h.quiet (raise_quiet _ (f := .stationChange) trivial) (h.moves (.station r _ _) hr)
  | aborted =>
    simp only
    split
    · exact h.setSlots hr _ _
    · exact hr
  | dropped =>
    simp only
    split
    · exact h.setSlots hr _ _
    · exact hr

end Still

namespace Steady

variable {J : Run → Prop} (h : Steady J)
include h

/-! #### The Engine's cycles -/

theorem read {r : Run} (hr : J r) (a : Nat) : J (r.read a).2 := by
  unfold Run.read
  split
  · exact h.quiet (raise_quiet _ trivial) (h.cycle r hr)
  · exact h.cycle r hr

theorem write {r : Run} (hr : J r) (a : Nat) (w : Word) : J (r.write a w).2 := by
  unfold Run.write
  split
  · exact h.quiet (raise_quiet _ trivial) (h.cycle r hr)
  · exact h.quiet (stored_quiet _ _ _) (h.cycle r hr)

theorem reads {r : Run} (hr : J r) (a n : Nat) : J (r.reads a n).2 := by
  induction n generalizing r a with
  | zero => exact hr
  | succ n ih =>
    have hw := h.read hr a
    unfold Run.reads
    split
    · next e => rw [e] at hw; exact hw
    · next w r' e =>
      rw [e] at hw
      have hk := ih hw (a + 8)
      split
      · next e' => rw [e'] at hk; exact hk
      · next e' => rw [e'] at hk; exact hk

theorem writes {r : Run} (hr : J r) (ws : List (Nat × Word)) : J (r.writes ws).2 := by
  induction ws generalizing r with
  | nil => exact hr
  | cons p ws ih =>
    have hw := h.write hr p.1 p.2
    unfold Run.writes
    split
    · next e => rw [e] at hw; exact hw
    · next r' e => rw [e] at hw; exact ih hw

/-- A request that goes on with the words it read; the registers that it judges by stand. -/
theorem reading {r : Run} (hr : J r) (a n : Nat) {k : List Word → Run → Ack × Run}
    (hk : ∀ ws (r' : Run), J r' → r'.st.calm = r.st.calm → J (k ws r').2) : J (r.reading a n k).2 := by
  have hw := h.reads hr a n
  have hc := r.reads_calm a n
  unfold Run.reading
  split
  · next e => rw [e] at hw; exact hw
  · next ws r' e => rw [e] at hw hc; exact hk ws r' hw hc

/-- A request that goes on after its writes; the registers that it judges by stand. -/
theorem writing {r : Run} (hr : J r) (ws : List (Nat × Word)) {k : Run → Ack × Run}
    (hk : ∀ r' : Run, J r' → r'.st.calm = r.st.calm → J (k r').2) : J (r.writing ws k).2 := by
  have hw := h.writes hr ws
  have hc := r.writes_calm ws
  unfold Run.writing
  split
  · next e => rw [e] at hw; exact hw
  · next r' e => rw [e] at hw hc; exact hk r' hw hc

/-- A request that is answered after its writes, with what it then applies. -/
theorem writing_apply {r : Run} (hr : J r) (ws : List (Nat × Word)) (a : Ack) {f : Run → Run}
    (hf : ∀ r' : Run, J r' → r'.st.calm = r.st.calm → J (f r')) :
    J (r.writing ws fun r => (a, f r)).2 := h.writing hr ws hf

/-! #### The lookup of a board -/

theorem evict {r : Run} (hr : J r) (i : Fin 64) : J (r.evict i).2 := by
  unfold Run.evict
  split
  · exact hr
  · next l _ =>
    have hw := h.writes hr (if l.dirty then l.words.writeBack (r.st.boardAddr l.board) else [])
    split
    · next e => rw [e] at hw; exact hw
    · next r' e => rw [e] at hw; exact h.lines (.drop r' i) hw

theorem fill {r : Run} (hr : J r) (b : BoardRef) : J (r.fill b).2 := by
  unfold Run.fill
  split
  · exact hr
  · next i _ =>
    have he := h.evict hr i
    split
    · next e => rw [e] at he; exact he
    · next r' e =>
      rw [e] at he
      have hw := h.reads he (r'.st.boardAddr b) 4
      split
      · next e' => rw [e'] at hw; exact hw
      · next r'' e' => rw [e'] at hw; exact h.lines (.put r'' i _) hw

theorem lookup {r : Run} (hr : J r) (b : BoardRef) : J (r.lookup b).2 := by
  unfold Run.lookup
  split
  · split
    · next i _ _ l hl => exact h.lines (.touch r i (by simp [hl])) hr
    · exact hr
  · split
    · exact h.fill hr b
    · exact hr

/-! #### The end of a request -/

theorem emptySlots {r : Run} (hr : J r) : J r.emptySlots := by
  have hstart : r.Quiet { r with empties := [] } := .of_eq rfl rfl
  unfold Run.emptySlots
  exact kept_foldl J (fun r p k => h.write k _ _) r.empties (h.quiet hstart hr)

theorem conclude {r : Run} (hr : J r) : J r.conclude :=
  h.quiet (queueImages_quiet _) (h.quiet (handEvents_quiet _) (h.emptySlots (h.moves (.settle r) hr)))

/-! #### The load -/

theorem readSections {r : Run} (hr : J r) (ks : List Nat) : J (r.readSections ks).2 := by
  induction ks generalizing r with
  | nil => exact hr
  | cons k ks ih =>
    have hw := h.reads hr (Config.rootBase + (sectionPlace k).1) (sectionPlace k).2
    unfold Run.readSections
    split
    · next e => rw [e] at hw; exact hw
    · next ws r' e =>
      rw [e] at hw
      have hk := ih hw
      split
      · next e' => rw [e'] at hk; exact hk
      · next e' => rw [e'] at hk; exact hk

theorem loadNest {r : Run} (hr : J r) (n : Nest) (d : Descriptor) : J (r.loadNest n d) :=
  h.quiet (modify_quiet rfl) (h.quiet (setNest_quiet _ _ _) hr)

theorem applySection {r : Run} (hr : J r) (b : Body) (k : Nat) : J (applySection b r k) := by
  unfold Machine.applySection
  simp only
  split
  · exact h.quiet (modify_quiet rfl) hr
  · exact h.quiet (setCursors_quiet _ _) (h.quiet (modify_quiet rfl) hr)
  · exact h.quiet (fullImage_quiet _) (h.quiet (modify_quiet rfl) hr)
  · exact h.loadNest hr _ _
  · exact h.loadNest hr _ _
  · exact h.moves (.configure r _) hr
  · exact h.touchLanes (kept_foldl J (fun r i k => h.moves (.station r i _) k) _ hr)
  · exact h.quiet (modify_quiet rfl) hr
  · exact h.quiet (modify_quiet rfl) hr
  · exact h.quiet (modify_quiet rfl) hr

theorem enterGuarded {r : Run} (hr : J r) : J r.enterGuarded := by
  unfold Run.enterGuarded
  split
  · exact hr
  · exact h.quiet (fullImage_quiet _) (h.enters r hr)

theorem applyLoad {r : Run} (hr : J r) (q : Request) (b : Body) : J (applyLoad q b r) := by
  have hsections : J ((b.map fun p => p.1).foldl (Machine.applySection b) r) :=
    kept_foldl J (fun r k hr => h.applySection hr b k) _ hr
  unfold Machine.applyLoad
  simp only
  generalize (b.map fun p => p.1).foldl (Machine.applySection b) r = r' at hsections ⊢
  have hsettled := h.moves (.settle _) (h.touchLanes (h.enterGuarded hsections))
  generalize r'.enterGuarded.touchLanes.settleLanes = r'' at hsettled ⊢
  exact h.quiet (image_quiet _ _) (h.quiet (raise_quiet _ (f := .loadDone) trivial)
    (h.quiet (modify_quiet rfl) hsettled))

theorem refuseLoad {r : Run} (hr : J r) (t : Tag) (q : Request) (f : LoadFailure) :
    J (refuseLoad t q f r).2 := by
  unfold Machine.refuseLoad
  split
  · exact h.quiet (refusal_quiet _ _) (h.quiet (image_quiet _ _) (h.quiet (modify_quiet rfl) hr))
  · exact hr

theorem serveLoad {r : Run} (hr : J r) (t : Tag) (q : Request) : J (serveLoad t q r).2 := by
  unfold Machine.serveLoad
  split
  · exact h.quiet (guardRefusal_quiet _ _) hr
  · have hw := h.readSections hr (loadSections q.data)
    split
    · next e => rw [e] at hw; exact hw
    · next b r' e =>
      rw [e] at hw
      split
      · exact h.refuseLoad hw t q _
      · exact h.writing_apply hw _ _ fun _ k _ => h.applyLoad k q b

end Steady

end Run

end Sys2Proof.Machine
end

section
/-! PROOF. How a report meets the table (R117, R119), and what an expiry does to it (R111, R112). -/

namespace Sys2Proof.Machine

/-! ### Matching -/

theorem State.entryNamed_some {s : State} {ring : CmdRing} {slot : Nat} {sequence : BitVec 8} {i : Fin 32}
    (h : s.entryNamed ring slot sequence = some i) :
    ∃ e, s.entries.get i = some e ∧ e.ring = ring ∧ e.slot = slot ∧ e.sequence = sequence := by
  have := Table.firstIndex_some h
  cases he : s.entries.get i with
  | none => simp [he] at this
  | some e =>
    simp only [he, Option.any_some, Bool.and_eq_true, beq_iff_eq] at this
    obtain ⟨⟨h1, h2⟩, h3⟩ := this
    exact ⟨e, rfl, h1, h2, h3⟩

/-- What the match of a report says of the entry that it names (R117, R119). -/
def State.Meets (s : State) (k : ReportKind) (q : Request) (w1 : Word) : Match → Prop
  | .noEntry => True
  | .late i => ∃ e, s.entries.get i = some e ∧ e.inFlight = false
  | .misfit i _ => ∃ e, s.entries.get i = some e ∧ e.inFlight = true
  | .fits i => ∃ e, s.entries.get i = some e ∧ e.inFlight = true ∧ e.ring = q.reportRing.answers ∧
      e.kind.answeredBy = k ∧ e.awaits = true ∧ k.allows w1 = true

theorem State.matchReport_meets (s : State) (k : ReportKind) (q : Request) (w1 : Word) :
    s.Meets k q w1 (s.matchReport k q w1) := by
  unfold State.matchReport
  split
  · trivial
  · next i hi =>
    obtain ⟨e, he, hring, -⟩ := State.entryNamed_some hi
    rw [he]
    simp only
    split
    · next hf => exact ⟨e, he, by simpa using hf⟩
    · next hf =>
      have hf : e.inFlight = true := by simpa using hf
      split
      · exact ⟨e, he, hf⟩
      · next hm =>
        simp only [Bool.not_eq_true', Bool.not_eq_false, Bool.and_eq_true, beq_iff_eq] at hm
        obtain ⟨⟨hk, ha⟩, hw⟩ := hm
        split
        · exact ⟨e, he, hf⟩
        · exact ⟨e, he, hf, hring, hk, ha, hw⟩

/-- An entry of which a report is awaited is in flight. -/
theorem Entry.inFlight_of_awaits {e : Entry} (h : e.awaits = true) : e.inFlight = true := by
  unfold Entry.awaits at h
  unfold Entry.inFlight
  cases he : e.state <;> simp_all

/-! ### The marks of an expiry -/

/-- What an expiry makes of the table: the entry becomes EXPIRED, and with it the other entry of its pair
(R111, R112). -/
def Run.markWhole (r : Run) (i : Fin 32) (e : Entry) (cause : ExpiryCause) : Run :=
  if e.kind.ofPair then
    match r.st.partnerOf e with
    | none => r.markExpired i e cause
    | some (j, f) => (r.markExpired i e cause).markExpired j f cause
  else r.markExpired i e cause

namespace Run

variable {J : Run → Prop}

theorem Still.expireSingle (h : Still J) {r : Run} {i : Fin 32} {e : Entry} {cause : ExpiryCause}
    (hr : J (r.markExpired i e cause)) : J (r.expireSingle i e cause) :=
  h.quiet (keepEvent_quiet _ _) (h.quiet (raise_quiet _ (f := .uncertain) trivial)
    (h.quiet (image_quiet _ _) (h.changeBoard (h.quiet (suspectCup_quiet _ _) hr) _ _)))

theorem Still.expirePair (h : Still J) {r : Run} {i : Fin 32} {e : Entry} {cause : ExpiryCause}
    (hp : e.kind.ofPair = true) (hr : J (r.markWhole i e cause)) : J (r.expirePair i e cause) := by
  have hmap : ∀ r' : Run, J r' → J (match e.dest with
      | none => r'
      | some d => (if r'.st.inPlace d = true
          then r'.setSlots d.station fun slots => slots.set d.slot .suspect else r').pairEnded
            d.lane) := by
    intro r' hr'
    split
    · exact hr'
    · refine h.pairEnded ?_ _
      split
      · exact h.setSlots hr' _ _
      · exact hr'
  unfold Run.expirePair
  simp only
  refine h.quiet (keepEvent_quiet _ _) (h.quiet (raise_quiet _ (f := .uncertain) trivial) (hmap _ ?_))
  refine h.quiet (image_quiet _ _) (h.changeBoard (h.quiet (suspectCup_quiet _ _) ?_) _ _)
  simp only [markWhole, hp, if_true] at hr
  cases hpart : r.st.partnerOf e with
  | none => simpa [hpart] using hr
  | some jf => simpa [hpart] using hr

theorem expire_of_single {r : Run} {i : Fin 32} {e : Entry} (he : r.st.entries.get i = some e)
    (hk : e.kind.ofPair = false) (cause : ExpiryCause) : r.expire i cause = r.expireSingle i e cause := by
  simp [expire, he, hk]

theorem expire_of_pair {r : Run} {i : Fin 32} {e : Entry} (he : r.st.entries.get i = some e)
    (hk : e.kind.ofPair = true) (cause : ExpiryCause) : r.expire i cause = r.expirePair i e cause := by
  simp [expire, he, hk]

theorem expire_of_free {r : Run} {i : Fin 32} (he : r.st.entries.get i = none) (cause : ExpiryCause) :
    r.expire i cause = r := by
  simp [expire, he]

/-- What an expiry keeps besides the table is kept by everything that follows its marks. -/
theorem Still.expire (h : Still J) {r : Run} {i : Fin 32} {e : Entry} {cause : ExpiryCause}
    (he : r.st.entries.get i = some e) (hr : J (r.markWhole i e cause)) : J (r.expire i cause) := by
  cases hk : e.kind.ofPair with
  | false =>
    rw [expire_of_single he hk]
    exact h.expireSingle (by simpa [markWhole, hk] using hr)
  | true =>
    rw [expire_of_pair he hk]
    exact h.expirePair hk hr

/-- The table after an expiry is the table after its marks. -/
theorem expire_same_table {r : Run} {i : Fin 32} {e : Entry} (he : r.st.entries.get i = some e)
    (cause : ExpiryCause) : (r.markWhole i e cause).Same (r.expire i cause) .table :=
  (Still.same_table _).expire he (.refl _ _)

@[simp] theorem markExpired_entries (r : Run) (i : Fin 32) (e : Entry) (cause : ExpiryCause) :
    (r.markExpired i e cause).st.entries = r.st.entries.set i (some { e with state := .expired cause }) := by
  simp [markExpired, setEntry]

@[simp] theorem markExpired_order (r : Run) (i : Fin 32) (e : Entry) (cause : ExpiryCause) :
    (r.markExpired i e cause).st.order = r.st.order := by
  simp [markExpired, setEntry]

@[simp] theorem markExpired_due (r : Run) (i : Fin 32) (e : Entry) (cause : ExpiryCause) :
    (r.markExpired i e cause).st.due = r.st.due.erase i := by
  simp [markExpired, setEntry]

end Run

theorem State.partnerOf_some {s : State} {e f : Entry} {j : Fin 32} (h : s.partnerOf e = some (j, f)) :
    e.partner = some j ∧ s.entries.get j = some f := by
  unfold State.partnerOf at h
  cases hp : e.partner with
  | none => simp [hp] at h
  | some k =>
    simp only [hp, Option.bind_some, Option.map_eq_some_iff, Prod.mk.injEq] at h
    obtain ⟨g, hg, rfl, rfl⟩ := h
    exact ⟨rfl, hg⟩

theorem State.partnerOf_eq {s : State} {e f : Entry} {j : Fin 32} (hp : e.partner = some j)
    (hf : s.entries.get j = some f) : s.partnerOf e = some (j, f) := by
  simp [State.partnerOf, hp, hf]

/-- An entry as it was, or EXPIRED since. -/
def Entry.Since (e e' : Entry) : Prop := e' = e ∨ ∃ c, e' = { e with state := .expired c }

theorem Entry.Since.trans {a b c : Entry} (h : a.Since b) (h' : b.Since c) : a.Since c := by
  rcases h' with rfl | ⟨x, rfl⟩
  · exact h
  · rcases h with rfl | ⟨y, rfl⟩ <;> exact .inr ⟨x, rfl⟩

theorem Run.markExpired_since {r : Run} {i x : Fin 32} {e e₀ : Entry} (cause : ExpiryCause)
    (he : r.st.entries.get i = some e) (hx : r.st.entries.get x = some e₀) :
    ∃ e', (r.markExpired i e cause).st.entries.get x = some e' ∧ e₀.Since e' := by
  rw [markExpired_entries, Table.get_set]
  split
  · next hxi =>
    subst hxi
    rw [he] at hx
    cases hx
    exact ⟨_, rfl, .inr ⟨cause, rfl⟩⟩
  · exact ⟨e₀, hx, .inl rfl⟩

/-- An expiry changes no entry but for its state, and frees none. -/
theorem Run.expire_since {r : Run} {x : Fin 32} {e₀ : Entry} (i : Fin 32) (cause : ExpiryCause)
    (hx : r.st.entries.get x = some e₀) :
    ∃ e', (r.expire i cause).st.entries.get x = some e' ∧ e₀.Since e' := by
  cases he : r.st.entries.get i with
  | none => rw [expire_of_free he]; exact ⟨e₀, hx, .inl rfl⟩
  | some e =>
    rw [(expire_same_table he cause).1]
    unfold markWhole
    split
    · cases hp : r.st.partnerOf e with
      | none => exact markExpired_since cause he hx
      | some jf =>
        obtain ⟨j, f⟩ := jf
        obtain ⟨-, hf⟩ := State.partnerOf_some hp
        obtain ⟨e₁, h₁, s₁⟩ := markExpired_since cause he hx
        simp only
        rw [markExpired_entries, Table.get_set]
        split
        · next hxj =>
          subst hxj
          rw [hf] at hx
          cases hx
          exact ⟨_, rfl, .inr ⟨cause, rfl⟩⟩
        · exact ⟨e₁, h₁, s₁⟩
    · exact markExpired_since cause he hx

/-- The skips change no entry but for its state, and free none (R120). -/
theorem Run.skip_since {r : Run} {x : Fin 32} {e₀ : Entry} (ring : CmdRing) (i : Fin 32)
    (hx : r.st.entries.get x = some e₀) :
    ∃ e', (r.skip ring i).st.entries.get x = some e' ∧ e₀.Since e' := by
  have hfold : ∀ (l : List (Fin 32)) (r' : Run) (e₁ : Entry), r'.st.entries.get x = some e₁ →
      ∃ e', (l.foldl (fun r j => r.expire j .skipped) r').st.entries.get x = some e' ∧ e₁.Since e' := by
    intro l
    induction l with
    | nil => exact fun r' e₁ h => ⟨e₁, h, .inl rfl⟩
    | cons j l ih =>
      intro r' e₁ h
      obtain ⟨e₂, h₂, s₂⟩ := r'.expire_since j .skipped h
      obtain ⟨e', h', s'⟩ := ih _ _ h₂
      exact ⟨e', h', s₂.trans s'⟩
  exact hfold _ r e₀ hx

end Sys2Proof.Machine
end

section
/-! PROOF. What every request of the Engine keeps. `Closed` adds to `Steady` the changes of the Open Command
Table, each with what its request knows of the entries; one lemma for each row follows, and
`exec_closed` says once what a command can do. -/

namespace Sys2Proof.Machine

/-- Entries that a request may remove: none of a pair in flight among them, all that name a board, all that are
listed, or the two of a pair in flight (R80, R121, R164, R168). -/
def State.Removable (s : State) (ids : List (Fin 32)) : Prop :=
  (∀ i ∈ ids, ∀ e, s.entries.get i = some e → e.inFlight = true → e.kind.ofPair = false) ∨
    (∃ b, ids = s.entriesOf b) ∨ ids = s.order

/-- The two entries that an admitted PLACE opens (R95, R105). -/
structure OpensPair (i j : Fin 32) (place present : Entry) : Prop where
  placeKind      : place.kind = .place
  placeRing      : place.ring = .picker
  placeState     : place.state = .isOpen
  placePartner   : place.partner = some j
  placeCup       : place.cup.isSome = true
  placeDest      : place.dest.isSome = true
  presentKind    : present.kind = .present
  presentRing    : present.ring = .stacker
  presentState   : present.state = .isOpen
  presentPartner : present.partner = some i
  presentCup     : present.cup = none
  board          : present.board = place.board
  dest           : present.dest = place.dest

/-- A report that fits is one for an entry in flight on the ring it answers (R117, R119). -/
structure Fits (r : Run) (ring : CmdRing) (i : Fin 32) (e : Entry) : Prop where
  entry    : r.st.entries.get i = some e
  inFlight : e.inFlight = true
  ring     : e.ring = ring
  awaits   : e.awaits = true

namespace Run

/-- A property of a run that every operation of a request keeps. -/
structure Closed (J : Run → Prop) : Prop extends Steady J where
  opens      : ∀ {r : Run} {i : Fin 32} {e : Entry} (limit : Nat), J r → r.st.entries.get i = none →
    e.state = .isOpen → e.kind.ofPair = false → e.ring = e.kind.ring → J (r.openEntry i e limit)
  opensPair  : ∀ {r : Run} {i j : Fin 32} {place present : Entry} (limit : Nat), J r → i ≠ j →
    r.st.entries.get i = none → r.st.entries.get j = none → OpensPair i j place present →
    J ((r.openEntry i place limit).openEntry j present limit)
  expire     : ∀ {r : Run} {i : Fin 32} (cause : ExpiryCause), J r →
    (i ∈ r.st.due ∨ ∃ e, r.st.entries.get i = some e ∧ e.inFlight = true) → J (r.expire i cause)
  remove     : ∀ {r : Run} {ids : List (Fin 32)}, J r → r.st.Removable ids → J (r.removeEntries ids)
  skip       : ∀ {r : Run} {i : Fin 32} {e : Entry} {ring : CmdRing}, J r → Fits r ring i e →
    J (r.skip ring i)
  store      : ∀ {r : Run} {i : Fin 32} {e : Entry} {ring : CmdRing} (payload : StoredPayload) (slot : Nat),
    J r → Fits r ring i e → e.kind.ofPair = true → e.state = .isOpen →
    J ((r.skip ring i).storeReport i e payload slot)
  removePair : ∀ {r r' : Run} {i j : Fin 32} {e f : Entry} {ring : CmdRing}, J r → Fits r ring i e →
    e.kind.ofPair = true → (r.skip ring i).st.partnerOf e = some (j, f) → (r.skip ring i).Same r' .table →
    J r' → J (r'.removeEntries [i, j])

namespace Closed

variable {J : Run → Prop} (h : Closed J)
include h

/-! ### Posts -/

theorem refusePost {r : Run} (hr : J r) (t : Tag) (q : Request) (cause : Cause) (refs : Refs) :
    J (refusePost t q cause refs r).2 := by
  refine h.writing hr _ fun r' k _ => ?_
  split
  · exact k
  · exact h.quiet (refusal_quiet _ _) k

theorem servePost {α : Type} {ring : CmdRing} {judge : Word → Run → Judged α × Run}
    {grant : Request → α → Run → Ack × Run} {r : Run} (hr : J r) (t : Tag) (q : Request)
    (hj : ∀ w (r : Run), J r → J (judge w r).2)
    (hg : ∀ w (r : Run) x, J (judge w r).2 → (judge w r).1 = .pass x → J (grant q x (judge w r).2).2) :
    J (servePost ring judge grant t q r).2 := by
  refine h.reading hr _ _ fun ws r' k _ => ?_
  split
  · exact h.refusePost k t q _ _
  · have kj := hj (wordAt ws 0) r' k
    have kg := hg (wordAt ws 0) r'
    split
    · next e => rw [e] at kj; exact h.refusePost kj t q _ _
    · next e => rw [e] at kj; exact kj
    · next x _ e => rw [e] at kj kg; exact kg x kj rfl

theorem fetch {α : Type} {judge : CacheLine → Run → Judged α × Run} {r : Run} (hr : J r) (b : BoardRef)
    (refs : Refs) (hj : ∀ l (r : Run), J r → J (judge l r).2) : J (fetch b refs judge r).2 := by
  have hl := h.lookup hr b
  unfold Machine.fetch
  split
  · next e => rw [e] at hl; exact hj _ _ hl
  · next e => rw [e] at hl; exact hl
  · next e => rw [e] at hl; exact hl

/-- A passing TRIAL advances its cursor (R100, R159). -/
theorem grantTrial {r : Run} (hr : J r) (ring : CmdRing) (translation : List (Nat × Word))
    (dest : Option (Fin 8 × Nat)) (q : Request) : J (grantTrial ring translation dest q r).2 :=
  h.writing_apply hr _ _ fun _ k _ => h.quiet (advance_quiet _ _) k

/-- A TRIAL post changes nothing but its cursor (R100, R159). -/
theorem serveTrialPost {α : Type} {ring : CmdRing} {judge : Word → Run → Judged α × Run}
    {grant : Request → α → Run → Ack × Run} {r : Run} (hr : J r) (t : Tag) (q : Request)
    (hj : ∀ w (r : Run), J r → J (judge w r).2) (hg : ∀ x (r : Run), J r → J (grant q x r).2) :
    J (Machine.servePost ring judge grant t q r).2 :=
  h.servePost hr t q hj fun _ _ x k _ => hg x _ k

/-! ### The judgements of the physical commands -/

theorem judgeCut {r : Run} (hr : J r) (w : Word) : J (judgeCut w r).2 := by
  unfold Machine.judgeCut
  split
  · exact hr
  · refine h.fetch hr _ _ fun l r' k => ?_
    split
    · exact k
    · split <;> exact k

theorem judgePick {r : Run} (hr : J r) (w : Word) : J (judgePick w r).2 := by
  unfold Machine.judgePick
  split
  · exact hr
  · refine h.fetch hr _ _ fun l r' k => ?_
    split <;> exact k

theorem withCup {α : Type} {judge : Fin 4 → CacheLine → Run → Judged α × Run} {r : Run} (hr : J r)
    (w : Word) (hj : ∀ c l (r : Run), J r → J (judge c l r).2) : J (withCup w judge r).2 := by
  unfold Machine.withCup
  split
  · exact hr
  · split
    · exact hr
    · exact hr
    · exact h.fetch hr _ _ (hj _)

theorem judgePlace {r : Run} (hr : J r) (w : Word) : J (judgePlace w r).2 :=
  h.withCup hr w fun _ _ _ k => k

theorem judgeDiscard {r : Run} (hr : J r) (w : Word) : J (judgeDiscard w r).2 :=
  h.withCup hr w fun _ _ _ k => k

end Closed

end Run

/-! ### What a plan says of the table -/

/-- A judgement that passes has fetched a record and judged it. -/
theorem fetch_passes {α : Type} {b : BoardRef} {refs : Refs} {judge : CacheLine → Run → Judged α × Run}
    {r : Run} {x : α} (h : (fetch b refs judge r).1 = .pass x) :
    ∃ l r', (judge l r').1 = .pass x ∧ (fetch b refs judge r).2 = (judge l r').2 := by
  unfold fetch at h ⊢
  split
  · next l r' e => rw [e] at h; exact ⟨l, r', h, rfl⟩
  · next e => rw [e] at h; cases h
  · next e => rw [e] at h; cases h

theorem State.free_of_mem_freeEntries {s : State} {i : Fin 32} (h : i ∈ s.freeEntries) :
    s.entries.get i = none := by
  have := (Table.mem_indices _ _ _).1 h
  simpa using this

theorem State.freeEntries_head {s : State} {i : Fin 32} {rest : List (Fin 32)}
    (h : s.freeEntries = i :: rest) : s.entries.get i = none :=
  s.free_of_mem_freeEntries (by simp [h])

theorem judgeCut_free {w : Word} {r : Run} {p : CutPlan} (h : (judgeCut w r).1 = .pass p) :
    (judgeCut w r).2.st.entries.get p.entry = none := by
  unfold judgeCut at h ⊢
  split
  · next e => rw [e] at h; cases h
  · next b e =>
    rw [e] at h
    obtain ⟨l, r', hp, hr⟩ := fetch_passes h
    rw [hr]
    split at hp
    · cases hp
    · split at hp
      · next hf =>
        cases hp
        exact State.freeEntries_head hf
      · cases hp

/-- What `judgePickCup` says of a plan that it passes (R90). -/
theorem judgePickCup_pass {b : BoardRef} {w : Word} {s : State} {p : PickPlan}
    (h : judgePickCup b w s = .pass p) : s.entries.get p.entry = none := by
  unfold judgePickCup at h
  split at h
  · cases h
  · split at h
    · cases h
    · split at h
      · cases h
      · split at h
        · cases h
        · next hf => cases h; exact State.freeEntries_head hf

theorem judgePick_free {w : Word} {r : Run} {p : PickPlan} (h : (judgePick w r).1 = .pass p) :
    (judgePick w r).2.st.entries.get p.entry = none := by
  unfold judgePick at h ⊢
  split
  · next e => rw [e] at h; cases h
  · next b e =>
    rw [e] at h
    obtain ⟨l, r', hp, hr⟩ := fetch_passes h
    rw [hr]
    split at hp
    · cases hp
    · exact judgePickCup_pass hp

/-- A command that names a cup passes by the judgement of the board that the cup names. -/
theorem withCup_passes {α : Type} {w : Word} {judge : Fin 4 → CacheLine → State → Judged α} {r : Run} {x : α}
    (h : (withCup w (fun c l r => (judge c l r.st, r)) r).1 = .pass x) :
    ∃ c l, judge c l (withCup w (fun c l r => (judge c l r.st, r)) r).2.st = .pass x := by
  unfold withCup at h ⊢
  split
  · next e => rw [e] at h; cases h
  · next c e =>
    rw [e] at h
    simp only at h
    split
    · next _ _ e' => rw [e'] at h; cases h
    · next e' e'' => rw [e', e''] at h; cases h
    · next b e' e'' =>
      rw [e', e''] at h
      obtain ⟨l, r', hp, hr⟩ := fetch_passes h
      exact ⟨c, l, by rw [hr]; exact hp⟩

theorem judgeDiscard_free {w : Word} {r : Run} {p : PickPlan} (h : (judgeDiscard w r).1 = .pass p) :
    (judgeDiscard w r).2.st.entries.get p.entry = none := by
  obtain ⟨c, l, hp⟩ := withCup_passes h
  unfold judgeDiscardBoard at hp
  split at hp
  · cases hp
  · split at hp
    · cases hp
    · next hf => cases hp; exact State.freeEntries_head hf

/-- A PLACE that passes has two free entries for its pair (R92). -/
theorem judgePlace_free {w : Word} {r : Run} {p : PlacePlan} (h : (judgePlace w r).1 = .pass p) :
    p.place ≠ p.present ∧ (judgePlace w r).2.st.entries.get p.place = none ∧
      (judgePlace w r).2.st.entries.get p.present = none := by
  obtain ⟨c, l, hp⟩ := withCup_passes (judge := fun c l s => judgePlaceBoard w c l s) h
  have hst : (withCup w (fun c l r => (judgePlaceBoard w c l r.st, r)) r).2 = (judgePlace w r).2 := rfl
  rw [hst] at hp
  unfold judgePlaceBoard at hp
  simp only at hp
  split at hp
  · cases hp
  · split at hp
    · cases hp
    · split at hp
      · cases hp
      · split at hp
        · next i j rest hf =>
          cases hp
          have hn : (i :: j :: rest).Nodup := hf ▸ Table.nodup_indices _ _
          refine ⟨fun e => ?_, State.free_of_mem_freeEntries (by simp [hf]),
            State.free_of_mem_freeEntries (by simp [hf])⟩
          simp only at e
          simp [e] at hn
        · cases hp

/-! ### The physical commands -/

/-- An entry that a run has, it has after the Engine's cycles. -/
theorem State.entries_get_of_calm {s t : State} (h : t.calm = s.calm) (i : Fin 32) :
    t.entries.get i = s.entries.get i := by rw [State.entries_of_calm h]

namespace Run.Closed

variable {J : Run → Prop} (h : Run.Closed J)
include h

theorem applyCut {r : Run} (hr : J r) (q : Request) {p : CutPlan} (now : Time)
    (hf : r.st.entries.get p.entry = none) : J (applyCut q p now r) :=
  h.quiet (advance_quiet _ _) (h.quiet (reclaim_quiet _ _)
    (h.changeBoard (h.opens _ hr hf rfl rfl rfl) _ _))

theorem grantCut {r : Run} (hr : J r) (q : Request) {p : CutPlan}
    (hf : r.st.entries.get p.entry = none) : J (grantCut q p r).2 :=
  h.writing_apply hr _ _ fun _ k c => h.applyCut k q _ ((State.entries_get_of_calm c _).trans hf)

theorem applyPick {r : Run} (hr : J r) (q : Request) {p : PickPlan} (now : Time)
    (hf : r.st.entries.get p.entry = none) : J (applyPick q p now r) :=
  h.quiet (advance_quiet _ _) (h.quiet (reclaim_quiet _ _)
    (h.changeBoard (h.quiet (giveCup_quiet _ _ _ _) (h.opens _ hr hf rfl rfl rfl)) _ _))

theorem grantPick {r : Run} (hr : J r) (q : Request) {p : PickPlan}
    (hf : r.st.entries.get p.entry = none) : J (grantPick q p r).2 :=
  h.writing_apply hr _ _ fun _ k c => h.applyPick k q _ ((State.entries_get_of_calm c _).trans hf)

theorem applyDiscard {r : Run} (hr : J r) (q : Request) {p : PickPlan} (now : Time)
    (hf : r.st.entries.get p.entry = none) : J (applyDiscard q p now r) :=
  h.quiet (advance_quiet _ _) (h.quiet (image_quiet _ _)
    (h.changeBoard (h.quiet (setCup_quiet _ _ _) (h.opens _ hr hf rfl rfl rfl)) _ _))

theorem grantDiscard {r : Run} (hr : J r) (q : Request) {p : PickPlan}
    (hf : r.st.entries.get p.entry = none) : J (grantDiscard q p r).2 :=
  h.writing_apply hr _ _ fun _ k c => h.applyDiscard k q _ ((State.entries_get_of_calm c _).trans hf)

end Run.Closed

/-- The PLACE entry of an admitted PLACE (R95, R105). -/
def placeEntry (q : Request) (p : PlacePlan) (now : Time) (s : State) : Entry :=
  { newEntry .picker (s.cursor .picker) (ringSequence q.data) .place p.board now with
    cup := some p.cup, dest := some p.sel.dest, partner := some p.present }

/-- The PRESENT entry of an admitted PLACE (R95, R105). -/
def presentEntry (q : Request) (p : PlacePlan) (now : Time) (s : State) : Entry :=
  { newEntry .stacker (s.cursor .stacker) (ringSequence q.data) .present p.board now with
    dest := some p.sel.dest, partner := some p.place }

/-- What an admitted PLACE does to the table: it opens the two entries of its pair (R95). -/
def openPair (q : Request) (p : PlacePlan) (now : Time) (r : Run) : Run :=
  (r.openEntry p.place (placeEntry q p now r.st) r.st.limits.pair).openEntry p.present
    (presentEntry q p now r.st) r.st.limits.pair

/-- What an admitted PLACE keeps besides the table is kept by everything that follows its two entries. -/
theorem Run.Still.applyPlace {J : Run → Prop} (h : Run.Still J) {q : Request} {p : PlacePlan} {now : Time}
    {r : Run} (hr : J (openPair q p now r)) : J (applyPlace q p now r) := by
  unfold openPair placeEntry presentEntry at hr
  unfold Machine.applyPlace
  simp only
  exact h.quiet (image_quiet _ _) (h.moves (.select _ _) (h.changeBoard (h.quiet (setCup_quiet _ _ _) hr) _ _))

/-- The entry of an admitted PLACE is in flight when the PRESENT record is to be posted (R97). -/
theorem applyPlace_entry (q : Request) (p : PlacePlan) (now : Time) (r : Run) (hn : p.place ≠ p.present) :
    ∃ e, (applyPlace q p now r).st.entries.get p.place = some e ∧ e.inFlight = true := by
  have hsame : (openPair q p now r).Same (applyPlace q p now r) .table :=
    (Run.Still.same_table _).applyPlace (.refl _ _)
  refine ⟨{ placeEntry q p now r.st with expiry := expiryTime now r.st.limits.pair }, ?_, rfl⟩
  rw [hsame.1]
  simp only [openPair, Run.openEntry, Run.setEntry, Run.image_st, Run.modify_st]
  rw [Table.get_set_ne _ _ hn, Table.get_set_self]
  rfl

namespace Run.Closed

variable {J : Run → Prop} (h : Run.Closed J)
include h

theorem applyPlace {r : Run} (hr : J r) (q : Request) {p : PlacePlan} (now : Time)
    (hn : p.place ≠ p.present) (hp : r.st.entries.get p.place = none)
    (hq : r.st.entries.get p.present = none) : J (applyPlace q p now r) := by
  refine h.toStill.applyPlace (h.opensPair _ hr hn hp hq ?_)
  constructor <;> rfl

theorem postPresent {r : Run} (hr : J r) (q : Request) (p : PlacePlan) (a : Nat)
    (he : ∃ e, r.st.entries.get p.place = some e ∧ e.inFlight = true) : J (postPresent q p a r) := by
  have hw := h.write hr a (presentWord0 markValid (ringSequence q.data))
  have hc := r.write_calm a (presentWord0 markValid (ringSequence q.data))
  unfold Machine.postPresent
  split
  · next e => rw [e] at hw; exact hw
  · next e =>
    rw [e] at hw hc
    exact h.expire .memory hw (.inr (by rwa [State.entries_get_of_calm hc]))

theorem grantPlace {r : Run} (hr : J r) (q : Request) {p : PlacePlan} (hn : p.place ≠ p.present)
    (hp : r.st.entries.get p.place = none) (hq : r.st.entries.get p.present = none) :
    J (grantPlace q p r).2 := by
  refine h.writing_apply hr _ _ fun r' k c => ?_
  have hmade := h.applyPlace k q r.st.time hn ((State.entries_get_of_calm c _).trans hp)
    ((State.entries_get_of_calm c _).trans hq)
  exact h.quiet (advance_quiet _ _) (h.quiet (advance_quiet _ _)
    (h.postPresent hmade q p _ (applyPlace_entry q p _ r' hn)))

/-! ### TRIAL commands and unknown kinds -/

theorem serveTrial {r : Run} (hr : J r) (t : Tag) (q : Request) : J (serveTrial t q r).2 := by
  unfold Machine.serveTrial
  split
  · split
    · exact h.serveTrialPost hr t q (fun w _ k => h.judgeCut k w) fun _ _ k => h.grantTrial k _ _ _ _
    · exact h.serveTrialPost hr t q (fun w _ k => h.judgePick k w) fun _ _ k => h.grantTrial k _ _ _ _
    · exact h.serveTrialPost hr t q (fun w _ k => h.judgePlace k w) fun _ _ k => h.grantTrial k _ _ _ _
    · exact h.serveTrialPost hr t q (fun w _ k => h.judgeDiscard k w) fun _ _ k => h.grantTrial k _ _ _ _
    · exact hr
  all_goals exact hr

theorem serveBadKind {r : Run} (hr : J r) (t : Tag) (q : Request) : J (serveBadKind t q r).2 :=
  h.servePost hr t q (fun _ _ k => k) fun _ _ _ k _ => k

end Run.Closed

end Sys2Proof.Machine
end

section
/-! PROOF. What the reports and the service commands keep, row by row. -/

namespace Sys2Proof.Machine

/-! ### Reports -/

/-- An entry in use that is none of a pair. -/
def Run.Single (r : Run) (i : Fin 32) : Prop := ∃ e, r.st.entries.get i = some e ∧ e.kind.ofPair = false

theorem Run.Single.same {r r' : Run} {i : Fin 32} (h : r.Single i) (hs : r.Same r' .table) :
    r'.Single i := by
  obtain ⟨e, he, hk⟩ := h
  exact ⟨e, by rw [hs.1]; exact he, hk⟩

theorem Run.Single.removable {r : Run} {i : Fin 32} (h : r.Single i) : r.st.Removable [i] := by
  obtain ⟨e, he, hk⟩ := h
  refine .inl fun x hx f hf _ => ?_
  cases List.mem_singleton.1 hx
  rw [he] at hf
  cases hf
  exact hk

/-- An entry that no pair in flight has may be removed (R121, R165). -/
theorem State.removable_of_expired {s : State} {i : Fin 32} {e : Entry} (he : s.entries.get i = some e)
    (hf : e.inFlight = false) : s.Removable [i] := by
  refine .inl fun x hx f hg hfl => ?_
  cases List.mem_singleton.1 hx
  rw [he] at hg
  cases hg
  rw [hf] at hfl
  cases hfl

/-- The skips leave an entry of none of a pair where it is. -/
theorem Run.skip_single {r : Run} {i : Fin 32} {e : Entry} (ring : CmdRing)
    (he : r.st.entries.get i = some e) (hk : e.kind.ofPair = false) : (r.skip ring i).Single i := by
  obtain ⟨e', he', hs⟩ := r.skip_since ring i he
  refine ⟨e', he', ?_⟩
  rcases hs with rfl | ⟨c, rfl⟩ <;> exact hk

namespace Run.Closed

variable {J : Run → Prop} (h : Run.Closed J)
include h

/-- The removal of a single entry after changes outside the table. -/
theorem removeAfter {r r' : Run} {i : Fin 32} (hr : J r') (hi : r.Single i) (hs : r.Same r' .table) :
    J (r'.removeEntries [i]) := h.remove hr (hi.same hs).removable

theorem cutOutcome {r : Run} (hr : J r) (w1 : Word) (q : Request) {i : Fin 32} (e : Entry)
    (hi : r.Single i) : J (cutOutcome w1 q i e r) := by
  have hgone : J ((r.changeBoard e.board (BoardHw.afterCut
      (spanMask (e.span.getD ⟨0, 0⟩) (cutEndDone w1)))).removeEntries [i]) :=
    h.removeAfter (h.changeBoard hr _ _) hi ((Still.same_table r).changeBoard (.refl _ _) _ _)
  unfold Machine.cutOutcome
  simp only
  refine h.quiet (drainTest_quiet _ _) ?_
  split
  · exact h.quiet (setNest_quiet _ _ _) hgone
  · exact hgone

/-- The cup is set and the board changed; the entry goes, and the nest is counted down and tested for drain. -/
theorem settleSingle {r : Run} (hr : J r) {i : Fin 32} (hi : r.Single i) (c : Option (Fin 4)) (cup : Cup)
    (b : BoardRef) (f : BoardHw → BoardHw) (n : Nest) :
    J (((r.putCup c cup).changeBoard b f).removeEntries [i]) ∧
      J ((((r.putCup c cup).changeBoard b f).removeEntries [i]).drainTest n) ∧
      J (((((r.putCup c cup).changeBoard b f).removeEntries [i]).boardEnded n).drainTest n) := by
  have still := Still.same_table r
  have hgone : J (((r.putCup c cup).changeBoard b f).removeEntries [i]) :=
    h.removeAfter (h.changeBoard (h.quiet (putCup_quiet _ _ _) hr) _ _) hi
      (still.changeBoard (still.quiet (putCup_quiet _ _ _) (.refl _ _)) _ _)
  exact ⟨hgone, h.quiet (drainTest_quiet _ _) hgone,
    h.quiet (drainTest_quiet _ _) (h.quiet (boardEnded_quiet _ _) hgone)⟩

theorem pickOutcome {r : Run} (hr : J r) (w1 : Word) (q : Request) {i : Fin 32} (e : Entry)
    (hi : r.Single i) : J (pickOutcome w1 q i e r) := by
  unfold Machine.pickOutcome
  simp only
  split
  · exact (h.settleSingle hr hi _ _ _ _ _).2.1
  · exact (h.settleSingle hr hi _ _ _ _ _).2.1
  · exact (h.settleSingle hr hi _ _ _ _ _).2.1
  · exact (h.settleSingle hr hi _ _ _ _ _).2.2

theorem discardOutcome {r : Run} (hr : J r) (w1 : Word) (q : Request) {i : Fin 32} (e : Entry)
    (hi : r.Single i) : J (discardOutcome w1 q i e r) := by
  unfold Machine.discardOutcome
  simp only
  split
  · exact (h.settleSingle hr hi _ _ _ _ _).2.1
  · exact (h.settleSingle hr hi _ _ _ _ _).2.1
  · exact (h.settleSingle hr hi _ _ _ _ _).2.2
  · exact (h.settleSingle hr hi _ _ _ _ _).2.2

/-- A resolved pair, from the removal of its two entries (R126, R127). -/
theorem resolvePair {r : Run} (hr : J r) (i j : Fin 32) (b : BoardRef) (cup : Option (Fin 4))
    (d : Destination) (result : Result) (o : Observation)
    (hrem : ∀ r', r.Same r' .table → J r' → J (r'.removeEntries [i, j])) :
    J (r.resolvePair i j b cup d result o) := by
  have still := Still.same_table r
  unfold Run.resolvePair
  simp only
  have hgone : J ((((r.putCup cup ((r.st.pairEnd d result o).cup b)).changeBoard b
      ((r.st.pairEnd d result o).board d)).endSlots (r.st.pairEnd d result o) d o).removeEntries [i, j]) := by
    refine hrem _ ?_ ?_
    · exact still.endSlots (still.changeBoard (still.quiet (putCup_quiet _ _ _) (.refl _ _)) _ _) _ _ _
    · exact h.endSlots (h.changeBoard (h.quiet (putCup_quiet _ _ _) hr) _ _) _ _ _
  refine h.quiet (image_quiet _ _) (h.quiet (drainTest_quiet _ _) (h.pairEnded ?_ _))
  split
  · exact h.quiet (boardEnded_quiet _ _) hgone
  · exact hgone

theorem pairOutcome {r : Run} (hr : J r) (payload : StoredPayload) (q : Request) {ring : CmdRing}
    {i : Fin 32} {e : Entry} (hf : Fits r ring i e) (hk : e.kind.ofPair = true) :
    J (pairOutcome payload q i e (r.skip ring i)) := by
  have hs := h.skip hr hf
  unfold Machine.pairOutcome
  split
  · split
    · next j f d hp hd =>
      have hrem : ∀ r', (r.skip ring i).Same r' .table → J r' → J (r'.removeEntries [i, j]) :=
        fun r' ht k => h.removePair hr hf hk hp ht k
      split
      · exact h.resolvePair hs _ _ _ _ _ _ _ hrem
      · exact h.resolvePair hs _ _ _ _ _ _ _ hrem
      · exact hs
    · exact hs
  · next ho => exact h.store payload _ hr hf hk ho
  · next c hc => exact absurd hf.inFlight (by simp [Entry.inFlight, hc])

/-- A report keeps what its judgement's application keeps; the registers that the judgement looked at stand. -/
theorem serveReport {α : Type} {judge : Word → State → Verdict × α}
    {apply : Tag → Request → Word → α → Run → Run} {r : Run} (hr : J r) (t : Tag) (q : Request)
    (ha : ∀ w (r r' : Run), J r' → r'.st.calm = r.st.calm → J (apply t q w (judge w r.st).2 r')) :
    J (serveReport judge apply t q r).2 :=
  h.reading hr _ _ fun ws r' k _ => h.writing_apply k _ _ fun r'' k' c => ha (wordAt ws 0) r' r'' k' c

/-- What the outcome of a kind of report keeps, after the skips. -/
def KeepsOutcome (J : Run → Prop) (k : ReportKind) (outcome : Word → Request → Fin 32 → Entry → Run → Run) :
    Prop :=
  ∀ w q (r : Run) i e, J r → Fits r q.reportRing.answers i e → e.kind.answeredBy = k →
    J (outcome w q i e (r.skip q.reportRing.answers i))

theorem serveSolicited {k : ReportKind} {outcome : Word → Request → Fin 32 → Entry → Run → Run} {r : Run}
    (hr : J r) (t : Tag) (q : Request) (ho : KeepsOutcome J k outcome) :
    J (serveSolicited k outcome t q r).2 := by
  refine h.serveReport hr t q fun w r r' k' c => ?_
  have hm := r.st.matchReport_meets k q w
  simp only
  have he (i : Fin 32) := State.entries_get_of_calm c i
  cases hmatch : r.st.matchReport k q w with
  | noEntry => exact h.quiet (dispute_quiet _ _ _ _ _) k'
  | late i =>
    rw [hmatch] at hm
    obtain ⟨e, hie, hf⟩ := hm
    rw [← he] at hie
    simp only [applyMatch, hie]
    exact h.quiet (drainTest_quiet _ _)
      (h.remove (h.quiet (dispute_quiet _ _ _ _ _) k') (State.removable_of_expired hie hf))
  | misfit i cause =>
    rw [hmatch] at hm
    obtain ⟨e, hie, hf⟩ := hm
    rw [← he] at hie
    exact h.expire _ (h.quiet (dispute_quiet _ _ _ _ _) k') (.inr ⟨e, hie, hf⟩)
  | fits i =>
    rw [hmatch] at hm
    obtain ⟨e, hie, hf, hring, hk, haw, -⟩ := hm
    rw [← he] at hie
    simp only [applyMatch, hie]
    exact ho w q r' i e k' ⟨hie, hf, hring, haw⟩ hk

theorem single_keepsOutcome {k : ReportKind} {outcome : Word → Request → Fin 32 → Entry → Run → Run}
    (hk : ∀ e : EntryKind, e.answeredBy = k → e.ofPair = false)
    (ho : ∀ w q (r : Run) i e, J r → r.Single i → J (outcome w q i e r)) : KeepsOutcome J k outcome :=
  fun w q _ i e hr hf he => ho w q _ i e (h.skip hr hf) (Run.skip_single _ hf.entry (hk _ he))

theorem cutEnd_keepsOutcome : KeepsOutcome J .cutEnd Machine.cutOutcome :=
  h.single_keepsOutcome (fun e => by cases e <;> decide) fun w q _ _ e hr hi => h.cutOutcome hr w q e hi

theorem pickEnd_keepsOutcome : KeepsOutcome J .pickEnd Machine.pickOutcome :=
  h.single_keepsOutcome (fun e => by cases e <;> decide) fun w q _ _ e hr hi => h.pickOutcome hr w q e hi

theorem discardEnd_keepsOutcome : KeepsOutcome J .discardEnd Machine.discardOutcome :=
  h.single_keepsOutcome (fun e => by cases e <;> decide) fun w q _ _ e hr hi => h.discardOutcome hr w q e hi

theorem placeEnd_keepsOutcome : KeepsOutcome J .placeEnd
    fun w1 q i e r => Machine.pairOutcome (.placeEnd (reportResult w1)) q i e r :=
  fun _ q _ _ e hr hf hk => h.pairOutcome hr _ q hf (by cases hx : e.kind <;> simp_all [EntryKind.answeredBy, EntryKind.ofPair])

theorem presentEnd_keepsOutcome : KeepsOutcome J .presentEnd
    fun w1 q i e r => Machine.pairOutcome (.presentEnd (presentEndObs w1)) q i e r :=
  fun _ q _ _ e hr hf hk => h.pairOutcome hr _ q hf (by cases hx : e.kind <;> simp_all [EntryKind.answeredBy, EntryKind.ofPair])

/-! ### Station reports -/

theorem applyStation {r : Run} (hr : J r) {act : Fin 8 → Word → Run → Run} (t : Tag) (q : Request)
    (w1 : Word) (v : Verdict) (ha : ∀ i w (r : Run), J r → J (act i w r)) :
    J (applyStation act t q w1 v r) := by
  unfold Machine.applyStation
  split
  · exact h.quiet (dispute_quiet _ _ _ _ _) hr
  · split
    · exact hr
    · exact ha _ _ _ hr

theorem arrivedAct {r : Run} (hr : J r) (i : Fin 8) (w1 : Word) : J (arrivedAct i w1 r) := by
  have hset := h.quiet (image_quiet _ (.station i))
    (h.moves (.station r i (r.st.takeLabel i (arrivedLabel w1)).1) hr)
  unfold Machine.arrivedAct
  simp only
  split
  · exact h.quiet (raise_quiet _ (f := .stationChange) trivial) hset
  · exact hset

theorem removedAct {r : Run} (hr : J r) (i : Fin 8) (w1 : Word) : J (removedAct i w1 r) :=
  h.quiet (raise_quiet _ (f := .stationChange) trivial) (h.moves (.station r i _) hr)

/-! ### Service commands -/

theorem grantService {α : Type} {apply : α → Run → Run} {r : Run} (hr : J r) (q : Request) (x : α)
    (ha : ∀ r' : Run, J r' → r'.st.calm = r.st.calm → J (apply x r')) :
    J (grantService apply q x r).2 :=
  h.writing_apply hr _ _ fun r' k c => h.quiet (advance_quiet _ _) (ha r' k c)

/-- A service command whose judgement reads the state alone keeps what its effects keep. -/
theorem serveJudging {α : Type} {judge : Word → State → Judged α} {apply : α → Run → Run} {r : Run}
    (hr : J r) (t : Tag) (q : Request)
    (ha : ∀ w s x (r : Run), judge w s = .pass x → r.st.calm = s.calm → J r → J (apply x r)) :
    J (Machine.servePost .service (judging judge) (Machine.grantService apply) t q r).2 :=
  h.servePost hr t q (fun _ _ k => k) fun w r x k hx =>
    h.grantService k q x fun r' k' c => ha w r.st x r' hx c k'

theorem judgeResolve {r : Run} (hr : J r) (w : Word) : J (judgeResolve w r).2 := by
  unfold Machine.judgeResolve
  split
  · exact hr
  · split
    · exact hr
    · simp only
      split
      · split
        · refine h.fetch hr _ _ fun l r' k => ?_
          split
          · split <;> exact k
          · exact k
        · exact hr
      · exact hr

theorem settle {r : Run} (hr : J r) (b : BoardRef) (x : Resolution) : J (r.settle b x) := by
  have hdrop := h.quiet (dropReferences_quiet r b none) hr
  unfold Run.settle
  cases x with
  | held c => exact h.quiet (giveCup_quiet _ _ _ _) hr
  | stacked i slot _ => exact h.quiet (boardEnded_quiet _ _) (h.touchLanes (h.setSlots hdrop _ _))
  | scrapped => exact h.quiet (boardEnded_quiet _ _) hdrop
  | lost => exact h.quiet (boardEnded_quiet _ _) hdrop
  | derived _ _ => exact hdrop

theorem applyResolve {r : Run} (hr : J r) (p : BoardRef × Resolution) : J (applyResolve p r) :=
  h.quiet (image_quiet _ _) (h.quiet (drainTest_quiet _ _) (h.settle
    (h.remove (h.changeBoard hr _ _) (.inr (.inl ⟨p.1, rfl⟩))) _ _))

theorem applyForget {r : Run} (hr : J r) {i : Fin 32}
    (hi : ∀ e, r.st.entries.get i = some e → e.inFlight = false) : J (applyForget i r) := by
  unfold Machine.applyForget
  split
  · exact hr
  · next e he =>
    exact h.quiet (drainTest_quiet _ _) (h.remove hr (State.removable_of_expired he (hi e he)))

theorem applyCupClear {r : Run} (hr : J r) (c : Fin 4) : J (applyCupClear c r) := by
  unfold Machine.applyCupClear
  split
  · exact h.quiet (setCup_quiet _ _ _) hr
  · exact hr

theorem applyCellClear {r : Run} (hr : J r) : J (applyCellClear () r) := by
  unfold Machine.applyCellClear
  simp only
  have hboards := kept_foldl J
    (fun r b k => h.changeBoard k b (BoardHw.lostTrack .cleared)) r.st.boardsInFlight hr
  generalize r.st.boardsInFlight.foldl _ r = r₁ at hboards ⊢
  have hgone := h.remove hboards (.inr (.inr rfl))
  generalize r₁.removeEntries r₁.st.order = r₂ at hgone ⊢
  have himages := kept_foldl J (fun r i k => h.quiet (image_quiet r (.entry i)) k) (List.finRange 32) hgone
  generalize (List.finRange 32).foldl _ r₂ = r₃ at himages ⊢
  have hcups := kept_foldl J
    (fun r c k => h.quiet (setCup_quiet r c (r.st.cups.get c).cleared) k) (List.finRange 4) himages
  generalize (List.finRange 4).foldl _ r₃ = r₄ at hcups ⊢
  have hstations := kept_foldl J (fun r i k => h.clearStation k i) (List.finRange 8) hcups
  generalize (List.finRange 8).foldl _ r₄ = r₅ at hstations ⊢
  have hlanes := kept_foldl J (fun r l k => h.setPending k l 0) (List.finRange 16) hstations
  generalize (List.finRange 16).foldl _ r₅ = r₆ at hlanes ⊢
  have hdrained := h.quiet (drainTest_quiet _ .b) (h.quiet (drainTest_quiet _ .a) (h.touchLanes hlanes))
  split
  · exact hdrained
  · exact h.quiet (raise_quiet _ (f := .uncertain) trivial) hdrained

/-- A TRIAL service command changes nothing but its cursor (R159). -/
theorem trialService {α : Type} {judge : Word → Run → Judged α × Run} {r : Run} (hr : J r) (t : Tag)
    (q : Request) (hj : ∀ w (r : Run), J r → J (judge w r).2) : J (trialService judge t q r).2 :=
  h.serveTrialPost hr t q hj fun _ _ k => h.grantTrial k _ _ _ _

theorem trialJudging {α : Type} (judge : Word → State → Judged α) {r : Run} (hr : J r) (t : Tag)
    (q : Request) : J (Machine.trialService (judging judge) t q r).2 :=
  h.trialService hr t q fun _ _ k => k

theorem serveTrialService {r : Run} (hr : J r) (t : Tag) (q : Request) :
    J (serveTrialService t q r).2 := by
  unfold Machine.serveTrialService
  split
  · exact hr
  · exact h.trialJudging _ hr t q
  · exact h.trialJudging _ hr t q
  · exact h.trialJudging _ hr t q
  · exact h.trialJudging _ hr t q
  · exact h.trialJudging _ hr t q
  · exact h.trialJudging _ hr t q
  · exact h.trialJudging _ hr t q
  · exact h.trialJudging _ hr t q
  · exact h.trialService hr t q fun w _ k => h.judgeResolve k w
  · exact h.trialJudging _ hr t q
  · exact h.trialJudging _ hr t q
  · exact h.trialJudging _ hr t q

/-! ### Board edits and completions -/

theorem serveEdit {r : Run} (hr : J r) (b : BoardRef) (t : Tag) (q : Request) :
    J (serveEdit b t q r).2 := by
  unfold Machine.serveEdit
  split
  · exact h.quiet (refusal_quiet _ _) hr
  · exact h.writing_apply hr _ _ fun _ k _ => h.replaceWord1 k b _

theorem completeLoad {r : Run} (hr : J r) (n : Nest) (result : LoadEnd) (count : Nat) :
    J (r.completeLoad n result count) := by
  have hready := h.quiet (raise_quiet _ (f := .nestReady n) trivial) (h.quiet (image_quiet _ (.nest n))
    (h.quiet (setNest_quiet _ n ((r.st.nest n).afterLoad result count)) (h.quiet (freeWalker_quiet r) hr)))
  unfold Run.completeLoad
  simp only
  split
  · exact h.quiet (raise_quiet _ (f := .nestComplete n) trivial) hready
  · exact hready

theorem completeSync {r : Run} (hr : J r) (n : Nest) (clean : Bool) : J (r.completeSync n clean) :=
  h.quiet (raise_quiet _ (f := .nestSynced n) trivial) (h.quiet (image_quiet _ _)
    (h.quiet (setNest_quiet _ _ _) (h.quiet (freeWalker_quiet r) hr)))

theorem completeRelease {r : Run} (hr : J r) (n : Nest) : J (r.completeRelease n) :=
  h.quiet (raise_quiet _ (f := .nestSynced n) trivial) (h.quiet (image_quiet _ _)
    (h.quiet (setNest_quiet _ _ _) (h.quiet (freeWalker_quiet r) hr)))

end Run.Closed

end Sys2Proof.Machine
end

section
/-! PROOF. What a command can do, said once. -/

namespace Sys2Proof.Machine

/-- What a command can do: nothing, where it is not due; what goes on in the part without the Engine; a request
of the Engine, of which is known that it keeps every property that is `Closed`; or the release of a capture or
the clear of flags, which are no such request. -/
inductive Done (c : Instr) (s : State) : State → Prop
  | idle : Done c s s
  | reset (hc : c = .resetN) : Done c s s.afterReset
  | timebase : Done c s s.tick.takeNext
  | cycle (y : Cycle) (h : s.masters.get y.tag ≠ .waiting) : Done c s (s.takeCycle y)
  | port (visits : Nat) (hard : Bool) : Done c s (s.portCycle false visits hard)
  | startJob : Done c s s.startJob
  | endLoadJob : Done c s s.endLoadJob
  | endSyncJob : Done c s s.endSyncJob
  | endReleaseJob : Done c s s.endReleaseJob
  | held (answers : List MemAnswer) (tag : Tag) (q : Request) (ack : Ack) (r : Run)
      (hq : s.heldInHand = some (tag, q))
      (kept : ∀ J, Run.Closed J → J (Run.start s answers) → J r) :
      Done c s (r.conclude.finishHeld tag ack)
  | internal (p : Fin 18) (r : Run) (hp : s.engine = .serving p) (hi : asFin 16 p.val = none)
      (kept : ∀ J, Run.Closed J → J (Run.start s []) → J r) : Done c s r.conclude.finishInternal
  | released (tag : Tag) (q : Request) (src : Source) (hc : c = .captureRelease)
      (hq : s.heldInHand = some (tag, q)) (hs : q.cls = .captureRelease src)
      (hheld : (s.captureOf src).isSome) :
      Done c s (((Run.start s []).releaseCapture src).queueImages.finishHeld tag .done)
  | cleared (tag : Tag) (q : Request) (hq : s.heldInHand = some (tag, q))
      (hset : s.flags &&& clearable q.data ≠ 0) :
      Done c s ((((Run.start s []).modify fun s =>
        { s with flags := s.flags &&& ~~~clearable q.data }).image .status).queueImages.finishHeld tag .done)

/-- A run has nothing left to do at its end but to queue its images. -/
theorem Run.conclude_image {r : Run} (hl : r.lanes = false) (he : r.empties = []) (hv : r.events = [])
    (id : ImageId) : (r.image id).conclude = (r.image id).queueImages :=
  Run.conclude_idle (by simp [hl]) (by simp [he]) (by simp [hv])

theorem State.heldInHand_some {s : State} {tag : Tag} {q : Request} (h : s.heldInHand = some (tag, q)) :
    ∃ p, s.engine = .serving p ∧ asFin 16 p.val = some tag ∧ s.requests.get tag = some q := by
  unfold State.heldInHand at h
  cases he : s.engine with
  | idle => simp [he] at h
  | finishing w => simp [he] at h
  | serving p =>
    simp only [he, Option.bind_eq_some_iff, Option.map_eq_some_iff, Prod.mk.injEq] at h
    obtain ⟨t, ht, r, hr, rfl, rfl⟩ := h
    exact ⟨p, rfl, ht, hr⟩

/-! ### The rows of the Engine -/

theorem heldStep_done {c : Instr} {isDue : Request → Bool} {serve : Tag → Request → Run → Ack × Run}
    {answers : List MemAnswer} {s t : State}
    (hk : ∀ J, Run.Closed J → ∀ tag q (r : Run), J r → J (serve tag q r).2)
    (h : heldStep isDue serve answers s = .next t) : Done c s t := by
  unfold heldStep at h
  split at h
  · cases h; exact .idle
  · next tag q hq =>
    split at h
    · cases h
      exact .held answers tag q _ _ hq fun J hJ hs => hk J hJ tag q _ hs
    · cases h; exact .idle

theorem internalStep_done {c : Instr} {p : Fin 18} {serve : Run → Option Run} {s t : State}
    (hi : asFin 16 p.val = none)
    (hk : ∀ J, Run.Closed J → ∀ r r' : Run, J r → serve r = some r' → J r')
    (h : internalStep p serve s = .next t) : Done c s t := by
  unfold internalStep at h
  split at h
  · next hp =>
    split at h
    · cases h; exact .idle
    · next r hr =>
      cases h
      exact .internal p _ (by simpa [State.serves] using hp) hi
        fun J hJ hs => hk J hJ _ _ hs hr
  · cases h; exact .idle

theorem arrive_done {c : Instr} {y : Cycle} {s t : State} (h : arrive y s = .next t) : Done c s t := by
  by_cases hw : s.masters.get y.tag = .waiting
  · rw [arrive_waiting hw] at h; cases h
  · rw [arrive_taken hw] at h; cases h; exact .cycle y hw

/-- A post of a physical kind, with its judgement and its effects. -/
theorem post_done {α : Type} {c : Instr} {isDue : Request → Bool} {ring : CmdRing}
    {judge : Word → Run → Judged α × Run} {grant : Request → α → Run → Ack × Run}
    {answers : List MemAnswer} {s t : State}
    (hj : ∀ J, Run.Closed J → ∀ w (r : Run), J r → J (judge w r).2)
    (hg : ∀ J, Run.Closed J → ∀ q w (r : Run) x, J (judge w r).2 → (judge w r).1 = .pass x →
      J (grant q x (judge w r).2).2)
    (h : heldStep isDue (servePost ring judge grant) answers s = .next t) : Done c s t :=
  heldStep_done (fun J hJ tag q _ hr => hJ.servePost hr tag q (hj J hJ) (hg J hJ q)) h

/-- A service command whose judgement reads the state alone. -/
theorem service_done {α : Type} {c : Instr} {kind : ServiceKind} {judge : Word → State → Judged α}
    {apply : α → Run → Run} {answers : List MemAnswer} {s t : State}
    (ha : ∀ J, Run.Closed J → ∀ w s x (r : Run), judge w s = .pass x → r.st.calm = s.calm → J r → J (apply x r))
    (h : serviceStep kind (judging judge) apply answers s = .next t) : Done c s t :=
  heldStep_done (fun J hJ tag q _ hr => hJ.serveJudging hr tag q (ha J hJ)) h

/-- A solicited report. -/
theorem solicited_done {c : Instr} {isDue : Request → Bool} {k : ReportKind}
    {outcome : Word → Request → Fin 32 → Entry → Run → Run} {answers : List MemAnswer} {s t : State}
    (ho : ∀ J, Run.Closed J → Run.Closed.KeepsOutcome J k outcome)
    (h : heldStep isDue (serveSolicited k outcome) answers s = .next t) : Done c s t :=
  heldStep_done (fun J hJ tag q _ hr => hJ.serveSolicited hr tag q (ho J hJ)) h

/-- The entry of a FORGET that passes is not in flight (R165). -/
theorem judgeForget_pass {w : Word} {s : State} {i : Fin 32} (h : judgeForget w s = .pass i) :
    ∃ e, s.entries.get i = some e ∧ e.inFlight = false := by
  unfold judgeForget at h
  split at h
  · cases h
  · split at h
    · next j _ hf =>
      cases h
      cases he : s.entries.get i with
      | none => simp [he] at hf
      | some e => exact ⟨e, rfl, by simpa [he] using hf⟩
    · cases h

theorem State.dueEntry_some {s : State} {i : Fin 32} {e : Entry} (h : s.dueEntry = some (i, e)) :
    s.due.head? = some i ∧ s.entries.get i = some e := by
  unfold State.dueEntry at h
  simp only [Option.bind_eq_some_iff, Option.map_eq_some_iff, Prod.mk.injEq] at h
  obtain ⟨j, hj, f, hf, rfl, rfl⟩ := h
  exact ⟨hj, hf⟩

theorem execExpiry_done {c : Instr} {s t : State} (h : execExpiry s = .next t) : Done c s t := by
  refine internalStep_done (by decide) (fun J hJ r r' hr hs => ?_) h
  split at hs
  · next i e hd =>
    obtain ⟨hdue, he⟩ := State.dueEntry_some hd
    split at hs
    · cases hs
    · next hk =>
      cases hs
      have := hJ.expire .expired hr (.inl (List.mem_of_mem_head? hdue))
      rwa [Run.expire_of_single he (by simpa using hk)] at this
  · cases hs

theorem execPairExpiry_done {c : Instr} {s t : State} (h : execPairExpiry s = .next t) : Done c s t := by
  refine internalStep_done (by decide) (fun J hJ r r' hr hs => ?_) h
  split at hs
  · next i e hd =>
    obtain ⟨hdue, he⟩ := State.dueEntry_some hd
    split at hs
    · next hk =>
      cases hs
      have := hJ.expire .expired hr (.inl (List.mem_of_mem_head? hdue))
      rwa [Run.expire_of_pair he hk] at this
    · cases hs
  · cases hs

theorem execLoadCompletion_done {c : Instr} {s t : State} (h : execLoadCompletion s = .next t) :
    Done c s t := by
  refine internalStep_done (by decide) (fun J hJ r r' hr hs => ?_) h
  split at hs
  · cases hs; exact hJ.completeLoad hr _ _ _
  · cases hs

theorem execSyncCompletion_done {c : Instr} {s t : State} (h : execSyncCompletion s = .next t) :
    Done c s t := by
  refine internalStep_done (by decide) (fun J hJ r r' hr hs => ?_) h
  split at hs
  · cases hs; exact hJ.completeSync hr _ _
  · cases hs

theorem execReleaseCompletion_done {c : Instr} {s t : State} (h : execReleaseCompletion s = .next t) :
    Done c s t := by
  refine internalStep_done (by decide) (fun J hJ r r' hr hs => ?_) h
  split at hs
  · cases hs; exact hJ.completeRelease hr _
  · cases hs

theorem execFlagClear_done {c : Instr} {s t : State} (h : execFlagClear s = .next t) : Done c s t := by
  unfold execFlagClear heldStep at h
  split at h
  · cases h; exact .idle
  · next tag q hq =>
    split at h
    · unfold serveFlagClear at h
      simp only at h
      split at h
      · cases h
        exact .held [] tag q _ _ hq fun J hJ hs => hs
      · next hset =>
        cases h
        rw [Run.conclude_image rfl rfl rfl]
        exact .cleared tag q hq hset
    · cases h; exact .idle

theorem RequestClass.released_some {cls : RequestClass} {src : Source} (h : cls.released = some src) :
    cls = .captureRelease src := by
  cases cls <;> simp_all [RequestClass.released]

theorem execCaptureRelease_done {s t : State} (h : execCaptureRelease s = .next t) :
    Done .captureRelease s t := by
  unfold execCaptureRelease heldStep at h
  split at h
  · cases h; exact .idle
  · next tag q hq =>
    split at h
    · next hd =>
      obtain ⟨src, hsrc⟩ := Option.isSome_iff_exists.1 hd
      simp only [hsrc, Option.getD_some] at h
      unfold serveRelease at h
      split at h
      · split at h
        · cases h
          exact .held [] tag q _ _ hq fun J hJ hs => hs
        · next x hx =>
          cases h
          unfold Run.releaseCapture
          rw [Run.conclude_image (by simp; rfl) (by simp; rfl) (by simp; rfl)]
          exact .released tag q src rfl hq (RequestClass.released_some hsrc) (by
            rw [show s.captureOf src = some x from hx]; rfl)
      · cases h
        exact .held [] tag q _ _ hq fun J hJ hs => hJ.quiet (Run.refusal_quiet _ _) hs
    · cases h; exact .idle

/-! ### Every row -/

/-- Every command does one of the things of `Done`. -/
theorem exec_done {c : Instr} {s t : State} (h : exec c s = .next t) : Done c s t := by
  cases c with
  | resetN => cases h; exact .reset rfl
  | timebase => cases h; exact .timebase
  | misalignedCycle y => exact arrive_done h
  | passRead tag addr size => exact arrive_done h
  | boardTableRead tag addr size => exact arrive_done h
  | passWrite tag addr size data => exact arrive_done h
  | guardRefusal y => exact arrive_done h
  | pathRefusal tag addr size data => exact arrive_done h
  | heldWrite tag addr size data => exact arrive_done h
  | portCycle visits hard => cases h; exact .port visits hard
  | rootRecordLoad answers => exact heldStep_done (fun J hJ tag q _ hr => hJ.serveLoad hr tag q) h
  | cut answers =>
    exact post_done (fun J hJ w _ hr => hJ.judgeCut hr w)
      (fun J hJ q w r p hr hp => hJ.grantCut hr q (judgeCut_free hp)) h
  | pick answers =>
    exact post_done (fun J hJ w _ hr => hJ.judgePick hr w)
      (fun J hJ q w r p hr hp => hJ.grantPick hr q (judgePick_free hp)) h
  | place answers =>
    refine post_done (fun J hJ w _ hr => hJ.judgePlace hr w) (fun J hJ q w r p hr hp => ?_) h
    obtain ⟨hn, hi, hj⟩ := judgePlace_free hp
    exact hJ.grantPlace hr q hn hi hj
  | discard answers =>
    exact post_done (fun J hJ w _ hr => hJ.judgeDiscard hr w)
      (fun J hJ q w r p hr hp => hJ.grantDiscard hr q (judgeDiscard_free hp)) h
  | trialCommand answers => exact heldStep_done (fun J hJ tag q _ hr => hJ.serveTrial hr tag q) h
  | nestStop answers =>
    exact service_done (fun J hJ _ _ n r _ _ hr => hJ.quiet (r.stopNest_quiet n) hr) h
  | nestResume answers =>
    exact service_done (fun J hJ _ _ n r _ _ hr => hJ.quiet (r.resumeNest_quiet n) hr) h
  | nestSync answers =>
    exact service_done (fun J hJ _ _ n r _ _ hr => hJ.quiet (r.queueJob_quiet (.sync n)) hr) h
  | nestRelease answers =>
    exact service_done (fun J hJ _ _ n r _ _ hr => hJ.quiet (r.releaseNest_quiet n) hr) h
  | laneStop answers =>
    exact service_done (fun J hJ _ _ x r _ _ hr => hJ.moves (.stop r x.1 x.2) hr) h
  | laneResume answers =>
    exact service_done (fun J hJ _ _ i r _ _ hr => hJ.moves (.resume r i) hr) h
  | stationReset answers =>
    exact service_done (fun J hJ _ _ i r _ _ hr => hJ.touchLanes (hJ.moves (.station r i _) hr)) h
  | slotSet answers => exact service_done (fun J hJ _ _ x r _ _ hr => hJ.markSlot hr _ _ _) h
  | resolve answers =>
    exact post_done (fun J hJ w _ hr => hJ.judgeResolve hr w)
      (fun J hJ q w r p hr _ => hJ.grantService hr q p fun r' k _ => hJ.applyResolve k p) h
  | forget answers =>
    refine service_done (fun J hJ w s i r hp hc hr => hJ.applyForget hr fun e he => ?_) h
    obtain ⟨e', he', hf⟩ := judgeForget_pass hp
    rw [State.entries_get_of_calm hc, he'] at he
    cases he
    exact hf
  | cupClear answers => exact service_done (fun J hJ _ _ c _ _ _ hr => hJ.applyCupClear hr c) h
  | cellClear answers => exact service_done (fun J hJ _ _ _ _ _ _ hr => hJ.applyCellClear hr) h
  | trialServiceCommand answers =>
    exact heldStep_done (fun J hJ tag q _ hr => hJ.serveTrialService hr tag q) h
  | cutEnd answers => exact solicited_done (fun J hJ => hJ.cutEnd_keepsOutcome) h
  | pickEnd answers => exact solicited_done (fun J hJ => hJ.pickEnd_keepsOutcome) h
  | discardEnd answers => exact solicited_done (fun J hJ => hJ.discardEnd_keepsOutcome) h
  | placeEnd answers => exact solicited_done (fun J hJ => hJ.placeEnd_keepsOutcome) h
  | presentEnd answers => exact solicited_done (fun J hJ => hJ.presentEnd_keepsOutcome) h
  | arrived answers =>
    exact heldStep_done (fun J hJ tag q _ hr => hJ.serveReport hr tag q fun w _ _ k _ =>
      hJ.applyStation k tag q w _ fun i w _ k => hJ.arrivedAct k i w) h
  | removed answers =>
    exact heldStep_done (fun J hJ tag q _ hr => hJ.serveReport hr tag q fun w _ _ k _ =>
      hJ.applyStation k tag q w _ fun i w _ k => hJ.removedAct k i w) h
  | expiry => exact execExpiry_done h
  | pairExpiry => exact execPairExpiry_done h
  | captureRelease => exact execCaptureRelease_done h
  | flagClear => exact execFlagClear_done h
  | boardEdit answers => exact heldStep_done (fun J hJ tag q _ hr => hJ.serveEdit hr _ tag q) h
  | walkerJobStart => cases h; exact .startJob
  | loadJobEnd => cases h; exact .endLoadJob
  | syncJobEnd => cases h; exact .endSyncJob
  | releaseJobEnd => cases h; exact .endReleaseJob
  | loadCompletion => exact execLoadCompletion_done h
  | syncCompletion => exact execSyncCompletion_done h
  | releaseCompletion => exact execReleaseCompletion_done h
  | badKindPost answers => exact heldStep_done (fun J hJ tag q _ hr => hJ.serveBadKind hr tag q) h
  | reportKindMismatch answers =>
    exact heldStep_done (fun J hJ tag q _ hr => hJ.serveReport hr tag q fun _ _ _ k _ =>
      hJ.quiet (Run.dispute_quiet _ _ _ _ _) k) h

end Sys2Proof.Machine
end

section
/-! PROOF. Conditions that every step keeps by way of `State.Keeps`: canonical memory, mirrored CAPTURE flags, a
silent part in OPEN_PATH mode, GUARDED mode and HELD captures. With them the reset and what can stop the
model. -/

namespace Sys2Proof.Machine

open Sys2Proof.Claims

/-! ### Closed properties from fewer changes -/

namespace Run.Closed

/-- A steady property is closed if it bears the single changes of the table: an entry opens, expires, becomes
free, or is rewritten as one in flight. -/
theorem of_single {J : Run → Prop} (h : Steady J)
    (opened : ∀ (r : Run) i (e : Entry) limit, J r → r.st.entries.get i = none → e.inFlight = true →
      J (r.openEntry i e limit))
    (expired : ∀ (r : Run) i e cause, J r → (r.st.entries.get i).isSome → J (r.markExpired i e cause))
    (freed : ∀ (r : Run) i, J r → J (r.freeEntry i))
    (rewritten : ∀ (r : Run) i (e : Entry), J r → (r.st.entries.get i).isSome → e.inFlight = true →
      J (r.setEntry i (some e))) : Closed J := by
  have open_of {e : Entry} (he : e.state = .isOpen) : e.inFlight = true := by simp [Entry.inFlight, he]
  have hexpire : ∀ (r : Run) i cause, J r → J (r.expire i cause) := by
    intro r i cause hr
    cases he : r.st.entries.get i with
    | none => rw [expire_of_free he]; exact hr
    | some e =>
      refine h.expire he ?_
      have hi := expired r i e cause hr (by simp [he])
      unfold markWhole
      split
      · cases hp : r.st.partnerOf e with
        | none => exact hi
        | some jf =>
          obtain ⟨j, f⟩ := jf
          refine expired _ j f cause hi ?_
          obtain ⟨f', hf', -⟩ := markExpired_since cause he (State.partnerOf_some hp).2
          rw [hf']; rfl
      · exact hi
  have hskip : ∀ (r : Run) ring i, J r → J (r.skip ring i) := fun r ring i hr =>
    kept_foldl J (fun r j k => hexpire r j .skipped k) _ hr
  have hremove : ∀ (r : Run) ids, J r → J (r.removeEntries ids) := fun r ids hr =>
    kept_foldl J (fun r n k => h.quiet (reclaim_quiet r n) k) _ (kept_foldl J (fun r i k => freed r i k) ids hr)
  refine { toSteady := h, opens := ?_, opensPair := ?_, expire := ?_, remove := ?_, skip := ?_, store := ?_,
           removePair := ?_ }
  · exact fun {r i e} limit hr hi he _ _ => opened r i e limit hr hi (open_of he)
  · intro r i j place present limit hr hij hi hj hp
    refine opened _ j present limit (opened r i place limit hr hi (open_of hp.placeState)) ?_
      (open_of hp.presentState)
    simp [openEntry, setEntry, Table.get_set_ne _ _ (Ne.symm hij), hj]
  · exact fun {r i} cause hr _ => hexpire r i cause hr
  · exact fun {r ids} hr _ => hremove r ids hr
  · exact fun {r i _ ring} hr _ => hskip r ring i hr
  · intro r i e ring payload slot hr hf hk ho
    obtain ⟨e', he', -⟩ := r.skip_since ring i hf.entry
    have hi := rewritten (r.skip ring i) i
      { e with state := .half, stored := some ⟨payload, slot, (r.skip ring i).st.time⟩ } (hskip r ring i hr)
      (by simp [he']) rfl
    unfold storeReport
    simp only
    split
    · exact hi
    · next j f hp =>
      refine rewritten _ j _ hi ?_ rfl
      have hf' := (State.partnerOf_some hp).2
      simp only [setEntry, image_st, modify_st]
      rw [Table.get_set]
      split <;> simp [hf']
  · exact fun {r r' i j e f ring} _ _ _ _ _ hr' => hremove r' _ hr'

/-- A property that `State.Keeps` carries along is closed, if the step into GUARDED mode keeps it. -/
theorem of_keeps {J : Run → Prop} (hk : ∀ {r r' : Run}, r.st.Keeps r'.st → J r → J r')
    (he : ∀ r : Run, J r → J (r.modify fun s => { s with mode := .guarded })) : Closed J := by
  refine of_single ⟨⟨fun q => hk q.keeps, fun l => hk l.only.keeps, fun m => hk m.only.keeps⟩,
    fun r => hk r.cycle_keeps, he⟩ ?_ ?_ ?_ ?_
  · exact fun r i e limit hr _ _ => hk (r.openEntry_keeps i e limit) hr
  · exact fun r i e cause hr _ => hk (r.markExpired_keeps i e cause) hr
  · exact fun r i hr => hk (r.freeEntry_keeps i) hr
  · exact fun r i e hr _ _ => hk (r.setEntry_keeps i (some e)) hr

end Run.Closed

/-! ### Conditions kept by every step -/

/-- A condition that does not look at the queue of commands is kept by every step, if it is kept by all that a
command can do. -/
theorem keptByStep_of_done {P : State → Prop} (hp : ∀ s rest, P s → P { s with pending := rest })
    (hd : ∀ c s t, Done c s t → P s → P t) : KeptByStep P := by
  intro s t hs h
  rcases step_cases h with rfl | ⟨c, rest, -, hc⟩
  · exact hs
  · exact hd c _ t (exec_done hc) (hp s rest hs)

/-- The state in which a released capture's held write has ended. -/
def State.afterRelease (s : State) (src : Source) (tag : Tag) : State :=
  ((Run.start s []).releaseCapture src).queueImages.finishHeld tag .done

/-- What a command does to a condition that `State.Keeps` carries along: it keeps it, if the step into GUARDED
mode, a reset and the clear of flags do, unless it releases a capture. -/
theorem Done.kept_or_releases {P : State → Prop} (hk : ∀ {s t : State}, s.Keeps t → P s → P t)
    (he : ∀ s, P s → P { s with mode := .guarded }) {c : Instr} {s t : State} (h : Done c s t) (hs : P s)
    (hreset : c = .resetN → P s.afterReset)
    (hclear : ∀ w, P { s with flags := s.flags &&& ~~~clearable w }) :
    P t ∨ ∃ tag q src, c = .captureRelease ∧ s.heldInHand = some (tag, q) ∧
      q.cls = .captureRelease src ∧ (s.captureOf src).isSome ∧ t = s.afterRelease src tag := by
  have closed : Run.Closed fun r => P r.st := .of_keeps (fun k h => hk k h) fun r h => he r.st h
  cases h with
  | released tag q src hc hq hcls hheld => exact .inr ⟨tag, q, src, hc, hq, hcls, hheld, rfl⟩
  | idle => exact .inl hs
  | reset hc => exact .inl (hreset hc)
  | timebase => exact .inl (hk (State.takeNext_keeps _) (hk s.tick_keeps hs))
  | cycle y hw => exact .inl (hk (s.takeCycle_keeps y) hs)
  | port v hard => exact .inl (hk (s.portCycle_keeps _ _ _) hs)
  | startJob => exact .inl (hk s.startJob_keeps hs)
  | endLoadJob => exact .inl (hk s.endLoadJob_keeps hs)
  | endSyncJob => exact .inl (hk s.endSyncJob_keeps hs)
  | endReleaseJob => exact .inl (hk s.endReleaseJob_keeps hs)
  | held answers tag q ack r hq kept => exact .inl (hk (r.conclude.finishHeld_keeps tag ack) (closed.conclude (kept _ closed hs)))
  | internal p r hp hi kept => exact .inl (hk r.conclude.finishInternal_keeps (closed.conclude (kept _ closed hs)))
  | cleared tag q hq hset =>
    refine .inl (hk (Run.finishHeld_keeps _ tag .done) (hk (Run.queued_keeps _) ?_))
    rw [Run.image_st]
    exact hclear q.data

/-- A command keeps such a condition, if a release does so too. -/
theorem Done.kept {P : State → Prop} (hk : ∀ {s t : State}, s.Keeps t → P s → P t)
    (he : ∀ s, P s → P { s with mode := .guarded }) {c : Instr} {s t : State} (h : Done c s t) (hs : P s)
    (hreset : c = .resetN → P s.afterReset)
    (hrel : ∀ src, (s.captureOf src).isSome → P ((Run.start s []).releaseCapture src).st)
    (hclear : ∀ w, P { s with flags := s.flags &&& ~~~clearable w }) : P t := by
  rcases h.kept_or_releases hk he hs hreset hclear with ht | ⟨tag, q, src, -, -, -, hheld, rfl⟩
  · exact ht
  · exact hk (Run.finishHeld_keeps _ tag .done) (hk (Run.queued_keeps _) (hrel src hheld))

/-- Settles O53: every change of memory is a write to canonical memory. -/
theorem memoryStaysCanonical : Obligations.MemoryStaysCanonical :=
  keptByStep_of_done (fun _ _ h => h) fun _ _ _ hd hs =>
    hd.kept (fun k h => k.mem h) (fun _ h => h) hs (fun _ => hs)
      (fun src _ => by
        show MemoryCanonical ((Run.start _ []).releaseCapture src).st
        simpa [Run.releaseCapture, Run.start, MemoryCanonical] using hs)
      (fun _ => hs)

/-! ### The CAPTURE flags -/

theorem State.afterReset_flag (s : State) (f : Flag) : s.afterReset.flag f = false := by
  simp [State.flag, State.afterReset, State.reset]

theorem State.afterReset_captureOf (s : State) (src : Source) : s.afterReset.captureOf src = none :=
  Table.get_replicate _ _

/-- The state in which a capture has been released (R176, R178). -/
theorem Run.releaseCapture_st (r : Run) (src : Source) :
    (r.releaseCapture src).st = { r.st with
      captures := r.st.captures.set src.idx none
      flags := r.st.flags &&& ~~~(Flag.capture src).bits } := by
  simp [Run.releaseCapture]

/-- Whether a flag stands once some have been cleared. -/
theorem getLsbD_cleared (x m : BitVec 24) {n : Nat} (hn : n < 24) :
    (x &&& ~~~m).getLsbD n = (x.getLsbD n && !m.getLsbD n) := by
  simp [hn]

theorem Flag.bits_getLsbD (f g : Flag) : f.bits.getLsbD g.number = decide (f.number = g.number) := by
  simp [Flag.bits, BitVec.getLsbD_twoPow, f.number_lt]

/-- A flag clear names no CAPTURE flag (R179). -/
theorem clearable_getLsbD_capture (w : Word) (src : Source) :
    (clearable w).getLsbD (Flag.capture src).number = false := by
  have hmask : (0xFFFFF0#24 : BitVec 24).getLsbD (Flag.capture src).number = false := by
    cases src <;> decide
  simp [clearable, BitVec.getLsbD_and, hmask]

theorem FlagsMirrorCaptures.released {s : State} (h : FlagsMirrorCaptures s) (src : Source) :
    FlagsMirrorCaptures ((Run.start s []).releaseCapture src).st := by
  intro x
  rw [Run.releaseCapture_st]
  simp only [State.flag, State.captureOf, Run.start]
  rw [getLsbD_cleared _ _ (Flag.number_lt _), Flag.bits_getLsbD]
  by_cases hx : x = src
  · subst hx; simp
  · have hi : x.idx ≠ src.idx := fun e => hx (Source.idx_inj e)
    have hn : (Flag.capture src).number ≠ (Flag.capture x).number := fun e => hi (Fin.ext e.symm)
    rw [Table.get_set_ne _ _ hi]
    have hs := h x
    simp only [State.flag, State.captureOf] at hs
    simpa [hn] using hs

theorem FlagsMirrorCaptures.cleared {s : State} (h : FlagsMirrorCaptures s) (w : Word) :
    FlagsMirrorCaptures { s with flags := s.flags &&& ~~~clearable w } := by
  intro src
  have hs := h src
  simp only [State.flag, State.captureOf] at hs ⊢
  rw [getLsbD_cleared _ _ (Flag.number_lt _), clearable_getLsbD_capture]
  simpa using hs

theorem State.afterReset_mirrors (s : State) : FlagsMirrorCaptures s.afterReset := fun src => by
  rw [s.afterReset_flag, s.afterReset_captureOf]; rfl

/-- Settles O54. -/
theorem captureFlagsMirrorTheCaptures : Obligations.CaptureFlagsMirrorTheCaptures :=
  keptByStep_of_done (fun _ _ h => h) fun _ s _ hd hs =>
    hd.kept (fun k h => k.mirror h) (fun _ h => h) hs (fun _ => s.afterReset_mirrors)
      (fun src _ => hs.released src) hs.cleared

/-! ### The silence of OPEN_PATH mode -/

theorem State.afterReset_silent (s : State) : OpenPathSilent s.afterReset :=
  fun _ => ⟨rfl, rfl, s.afterReset_captureOf⟩

/-- Settles O55: a release needs a capture, of which a silent part has none, and a clear of flags leaves a part
without flags. -/
theorem openPathStaysSilent : Obligations.OpenPathStaysSilent := by
  refine keptByStep_of_done (fun _ _ h => h) fun _ s _ hd hs =>
    hd.kept (fun k h => k.silent h) (fun _ _ ho => nomatch ho) hs (fun _ => s.afterReset_silent) ?_ ?_
  · intro src hheld ho
    rw [Run.releaseCapture_st] at ho
    rw [(hs ho).2.2 src] at hheld
    cases hheld
  · intro w ho
    obtain ⟨hi, hf, hc⟩ := hs ho
    exact ⟨hi, by simp [hf], hc⟩

/-! ### GUARDED mode and HELD captures -/

theorem guarded_stays {c : Instr} {s t : State} (h : Done c s t) (hc : c ≠ .resetN)
    (hs : s.mode = .guarded) : t.mode = .guarded :=
  h.kept (P := fun u => u.mode = .guarded) (fun k h => k.mode.trans h) (fun _ _ => rfl) hs
    (fun e => absurd e hc) (fun src _ => by rw [Run.releaseCapture_st]; exact hs) fun _ => hs

/-- The captures after a release: its source's is EMPTY, and the others stand. -/
theorem State.captureOf_afterRelease (s : State) (src x : Source) (tag : Tag) :
    (s.afterRelease src tag).captureOf x = if x = src then none else s.captureOf x := by
  have hqueue : (Run.queueImages ((Run.start s []).releaseCapture src)).st.captures =
      s.captures.set src.idx none := by
    show (Run.queued _).captures = _
    rw [Run.queued_eq, Run.releaseCapture_st]
    rfl
  have hcap : (s.afterRelease src tag).captures = s.captures.set src.idx none := by
    unfold State.afterRelease Run.finishHeld
    simp only
    split
    · simp [hqueue]
    · exact hqueue
  simp only [State.captureOf, hcap]
  rw [Table.get_set]
  by_cases h : x = src
  · simp [h]
  · rw [if_neg fun e => h (Source.idx_inj e), if_neg h]

/-- Settles O59. -/
theorem guardedModeAndHeldCapturesStay : Obligations.GuardedModeAndHeldCapturesStay := by
  intro c s t hc h
  have hd := exec_done h
  refine ⟨guarded_stays hd hc, fun src held hs hne => ?_⟩
  obtain ht | ⟨tag, q, x, rfl, hq, hcls, -, rfl⟩ := hd.kept_or_releases
    (P := fun u => u.captureOf src = some held) (fun k h => k.held src held h) (fun _ h => h) hs
    (fun e => absurd e hc) fun _ => hs
  · exact absurd ht hne
  · rw [State.captureOf_afterRelease] at hne ⊢
    by_cases hx : src = x
    · subst hx
      exact ⟨rfl, tag, q, hq, hcls, by simp⟩
    · simp [hx, hs] at hne

/-! ### The state after reset -/

/-- Settles O60: reset meets each condition, its tables being empty. -/
theorem resetMeetsWhatStepsKeep : Obligations.ResetMeetsWhatStepsKeep := by
  refine ⟨Memory.wf_nil, State.reset.afterReset_mirrors, State.reset.afterReset_silent, ?_, ⟨?_, ?_, ?_⟩,
    ?_, ?_⟩
  · intro i
    have hl : State.reset.lanes.get i = .reset := Table.get_replicate _ i
    simp [hl, Lane.reset]
  · refine ⟨List.nodup_nil, List.nodup_nil, fun i => ?_, fun i h => nomatch h⟩
    have he : State.reset.entries.get i = none := Table.get_replicate _ i
    rw [he]
    simp [State.reset]
  · exact fun i h => nomatch h
  · intro i e he
    rw [show State.reset.entries.get i = none from Table.get_replicate _ i] at he
    cases he
  · refine ⟨List.nodup_nil, fun i => ?_⟩
    rw [show State.reset.cache.get i = none from Table.get_replicate _ i]
    simp [State.reset]
  · refine ⟨List.nodup_nil, fun tag => ?_⟩
    have hplaces : State.reset.placesOf tag = [false, false, false, false] := by
      simp [State.placesOf, State.reset]
    rw [hplaces]
    exact ⟨by decide, fun h => absurd h (by decide)⟩

/-- Settles O4. -/
theorem resetEndsEveryCycle : Obligations.ResetEndsEveryCycle := by
  intro s
  have masters (tag : Tag) : s.afterReset.masters.get tag = .idle ∧ s.afterReset.pass.get tag = none ∧
      s.afterReset.requests.get tag = none :=
    ⟨Table.get_replicate _ tag, Table.get_replicate _ tag, Table.get_replicate _ tag⟩
  have nobody : s.afterReset.nextPass = none := by
    simp [State.nextPass, State.afterReset, State.reset]
  exact ⟨s.afterReset, exec_resetN s, rfl, rfl, masters, rfl, rfl, rfl, rfl, rfl, nobody,
    (by decide : Fin.ofNat 16 (15 + 1) = 0), fun i => Table.get_replicate _ i, rfl, rfl, fun i => Table.get_replicate _ i, rfl, rfl, rfl,
    fun c => Table.get_replicate _ c, rfl, s.afterReset_captureOf, rfl⟩

/-! ### What can stop the model -/

/-- A row of the master-side bus stops exactly on a tag that still waits (R1; notes/assumptions/7.md). -/
theorem arrive_stops (y : Cycle) (s : State) :
    (s.masters.get y.tag = .waiting → arrive y s = .fault (.tagOutstanding y.tag)) ∧
      (s.masters.get y.tag ≠ .waiting → ∃ t, arrive y s = .next t) :=
  ⟨arrive_waiting, fun h => ⟨_, arrive_taken h⟩⟩

/-- A row that brings no cycle answers a next state. -/
theorem exec_next_of_no_cycle {c : Instr} (h : cycleTag c = none) (s : State) : ∃ t, exec c s = .next t := by
  cases c with
  | misalignedCycle | guardRefusal | passRead | boardTableRead | passWrite | pathRefusal | heldWrite => cases h
  | resetN | timebase | portCycle | walkerJobStart | loadJobEnd | syncJobEnd | releaseJobEnd => exact ⟨_, rfl⟩
  | expiry | pairExpiry | loadCompletion | syncCompletion | releaseCompletion =>
    simp only [exec, execExpiry, execPairExpiry, execLoadCompletion, execSyncCompletion, execReleaseCompletion]
    exact internalStep_next _ _ _
  | _ => exact heldStep_next _ _ _ _

/-- Settles O2, row by row. -/
theorem onlyAnOutstandingTagStops : Obligations.OnlyAnOutstandingTagStops := by
  intro c s
  have bus {y : Cycle} (hx : exec c s = arrive y s) (ht : cycleTag c = some y.tag) :
      (∀ tag, cycleTag c = some tag → s.masters.get tag = .waiting →
        exec c s = .fault (.tagOutstanding tag)) ∧
      ((∀ tag, cycleTag c = some tag → s.masters.get tag ≠ .waiting) → ∃ t, exec c s = .next t) := by
    rw [hx, ht]
    refine ⟨fun tag h hw => ?_, fun h => (arrive_stops y s).2 (h y.tag rfl)⟩
    cases h
    exact (arrive_stops y s).1 hw
  cases hc : cycleTag c with
  | none => exact ⟨fun tag h => (nomatch h), fun _ => exec_next_of_no_cycle hc s⟩
  | some tag =>
    rw [← hc]
    cases c with
    | misalignedCycle y => exact bus (y := y) rfl rfl
    | guardRefusal y => exact bus (y := y) rfl rfl
    | passRead t a z => exact bus (y := ⟨t, a, z, .read⟩) rfl rfl
    | boardTableRead t a z => exact bus (y := ⟨t, a, z, .read⟩) rfl rfl
    | passWrite t a z d => exact bus (y := ⟨t, a, z, .write d⟩) rfl rfl
    | pathRefusal t a z d => exact bus (y := ⟨t, a, z, .write d⟩) rfl rfl
    | heldWrite t a z d => exact bus (y := ⟨t, a, z, .write d⟩) rfl rfl
    | _ => cases hc

end Sys2Proof.Machine
end

section
/-! PROOF. The re-evaluation of the lanes (R141, R144, R146), and that every step leaves them settled. -/

namespace Sys2Proof.Machine

open Sys2Proof.Claims

/-! ### One lane -/

/-- What `LanesSettled` says of one lane. -/
def State.settles (s : State) (l : Lane) : Prop :=
  (l.state = .isOpen → s.someUsable l = true ∧ (l.stopsAtStationEnd = true → s.currentUsable l = true)) ∧
    (l.state = .exhausted → s.someUsable l = false ∧ l.stopsAtStationEnd = false)

theorem lanesSettled_iff {s : State} : LanesSettled s ↔ ∀ i, s.settles (s.lanes.get i) := Iff.rfl

/-- A lane whose current station is usable has a usable station. -/
theorem State.someUsable_of_currentUsable {s : State} {l : Lane} (h : s.currentUsable l = true) :
    s.someUsable l = true := by
  unfold State.currentUsable at h
  cases hi : l.stations[l.current]? with
  | none => simp [hi] at h
  | some i =>
    rw [hi] at h
    exact List.any_eq_true.2 ⟨i, List.mem_of_getElem? hi, h⟩

theorem State.someUsable_congr {s t : State} (h : t.stations = s.stations) (l : Lane) :
    t.someUsable l = s.someUsable l := by
  simp [State.someUsable, h]

theorem State.currentUsable_congr {s t : State} (h : t.stations = s.stations) (l : Lane) :
    t.currentUsable l = s.currentUsable l := by
  simp [State.currentUsable, h]

theorem State.settles_congr {s t : State} (h : t.stations = s.stations) (l : Lane) :
    t.settles l ↔ s.settles l := by
  simp [State.settles, State.someUsable_congr h, State.currentUsable_congr h]

theorem reevaluated_congr {s t : State} (h : t.stations = s.stations) (l : Lane) :
    reevaluated t l = reevaluated s l := by
  simp [reevaluated, State.someUsable_congr h, State.currentUsable_congr h]

@[simp] theorem noticed_state (l : Lane) : (noticed l).state = l.state := by
  unfold noticed
  split
  · rfl
  · split <;> rfl

/-- A lane that is not STOPPED gives no notice. -/
theorem noticed_of_running {l : Lane} (h : l.state ≠ .stopped) : noticed l = l := by
  unfold noticed
  split
  · rfl
  · simp [h]

/-- A re-evaluated lane is settled, unless it was EXHAUSTED with a stop at its station's end (R144). -/
theorem State.reevaluated_settles (s : State) {l : Lane}
    (h : l.state = .exhausted → l.stopsAtStationEnd = false) : s.settles (reevaluated s l) := by
  have still {l : Lane} (ho : l.state ≠ .isOpen) (he : l.state ≠ .exhausted) : s.settles l :=
    ⟨fun x => absurd x ho, fun x => absurd x he⟩
  unfold reevaluated
  cases hs : l.state with
  | closed | paused | stopped => exact still (by simp [hs]) (by simp [hs])
  | isOpen =>
    simp only
    split
    · exact still (by simp) (by simp)
    · next hc =>
      split
      · next hu => exact ⟨fun _ => ⟨hu, fun hx => by simpa [hx] using hc⟩, by simp [hs]⟩
      · next hu =>
        refine ⟨by simp, fun _ => ⟨by simpa [State.someUsable] using hu, ?_⟩⟩
        have hcurrent : s.currentUsable l = false := by
          cases hk : s.currentUsable l with
          | false => rfl
          | true => exact absurd (State.someUsable_of_currentUsable hk) hu
        simpa [hcurrent, Lane.stopsAtStationEnd] using hc
  | exhausted =>
    have hstop := h hs
    simp only
    split
    · next hu => exact ⟨fun _ => ⟨hu, fun hx => absurd (hstop.symm.trans hx) (by simp)⟩, by simp⟩
    · next hu => exact ⟨by simp [hs], fun _ => ⟨by simpa using hu, hstop⟩⟩

/-- A lane that follows a settled one is settled. -/
theorem State.settles_of_follows {s : State} {l old : Lane} (h : l.Follows old) (hs : s.settles old) :
    s.settles l := by
  obtain ⟨hopen, hexhausted⟩ := hs
  rcases h with h | ⟨hstate, hstations, hcurrent, hstop⟩
  · exact ⟨fun x => by simp [x] at h, fun x => by simp [x] at h⟩
  · have hsome : s.someUsable l = s.someUsable old := by simp [State.someUsable, hstations]
    have hcur : s.currentUsable l = s.currentUsable old := by simp [State.currentUsable, hstations, hcurrent]
    have hwaits : l.stopsAtStationEnd = true → old.stopsAtStationEnd = true := by
      rcases hstop with e | e <;> simp [Lane.stopsAtStationEnd, e]
    rw [State.settles, hsome, hcur, hstate]
    refine ⟨fun x => ⟨(hopen x).1, fun y => (hopen x).2 (hwaits y)⟩, fun x => ⟨(hexhausted x).1, ?_⟩⟩
    exact Bool.eq_false_iff.2 fun y => by simp [hwaits y] at hexhausted; exact absurd x hexhausted

/-! ### What re-evaluation does -/

namespace Run

@[simp] theorem setLane_lanesTable (r : Run) (i : Fin 16) (l : Lane) :
    (r.setLane i l).st.lanes = r.st.lanes.set i l := by
  unfold setLane
  split
  · next h => rw [← h, Table.set_get_self]
  · simp

/-- A lane that is announced takes its notice (R146). -/
theorem announce_lanesTable (r : Run) (i : Fin 16) (l : Lane) :
    (r.announce i l).st.lanes = r.st.lanes.set i (noticed l) := by
  have hn : noticed l = if l.announces = true then { l with stop := none } else l := by
    unfold noticed Lane.announces
    cases l.stop <;> simp
  unfold announce
  rw [hn]
  split
  · simp [((raise_same _ .laneStopped .map).1 : _ = _)]
  · simp

/-- The model's judgement of a lane is the claims' re-evaluation, but for the notice of a lane that stops: it
leaves the lane, or makes it OPEN, EXHAUSTED or STOPPED, and says whether it is EXHAUSTED (R144, R146). -/
theorem judgeLane_cases (s : State) (l : Lane) :
    ((s.judgeLane l).1 = l ∧ reevaluated s l = l) ∨
      ((s.judgeLane l).1.state ≠ l.state ∧ noticed (s.judgeLane l).1 = reevaluated s l ∧
        ((s.judgeLane l).2 = true ↔ (s.judgeLane l).1.state = .exhausted)) := by
  have stops : l.stopsAtStationEnd = l.stop.any fun q => q.condition == .atStationEnd := rfl
  unfold State.judgeLane reevaluated
  rw [← stops]
  cases hs : l.state with
  | closed | paused | stopped => exact .inl ⟨rfl, rfl⟩
  | isOpen =>
    simp only [Bool.and_eq_true, Bool.not_eq_true']
    split
    · exact .inr ⟨by simp, rfl, by simp⟩
    · cases hu : s.someUsable l
      · exact .inr ⟨by simp, noticed_of_running (by simp), by simp⟩
      · exact .inl ⟨rfl, rfl⟩
  | exhausted =>
    cases hu : s.someUsable l
    · exact .inl ⟨rfl, rfl⟩
    · exact .inr ⟨by simp, noticed_of_running (by simp), by simp⟩

@[simp] theorem raise_lanesTable (r : Run) (f : Flag) : (r.raise f).st.lanes = r.st.lanes :=
  (raise_same r f .map).1

@[simp] theorem raise_stations (r : Run) (f : Flag) : (r.raise f).st.stations = r.st.stations :=
  (raise_same r f .map).2.1

@[simp] theorem setLane_stations (r : Run) (i : Fin 16) (l : Lane) :
    (r.setLane i l).st.stations = r.st.stations := by
  unfold setLane
  split <;> simp

@[simp] theorem announce_stations (r : Run) (i : Fin 16) (l : Lane) :
    (r.announce i l).st.stations = r.st.stations := by
  unfold announce
  split <;> simp

theorem reevaluateLane_lanesTable (r : Run) (i : Fin 16) :
    (r.reevaluateLane i).st.lanes = r.st.lanes.set i (reevaluated r.st (r.st.lanes.get i)) := by
  unfold reevaluateLane
  rcases judgeLane_cases r.st (r.st.lanes.get i) with ⟨hj, he⟩ | ⟨hj, hn, hx⟩
  · rw [if_pos hj, he, Table.set_get_self]
  · rw [if_neg fun e => hj (congrArg Lane.state e), ← hn]
    split
    · next h => rw [noticed_of_running (by simp [hx.1 h])]; simp
    · exact announce_lanesTable _ _ _

@[simp] theorem reevaluateLane_stations (r : Run) (i : Fin 16) :
    (r.reevaluateLane i).st.stations = r.st.stations := by
  unfold reevaluateLane
  simp only
  split
  · rfl
  · split <;> simp

@[simp] theorem reevaluate_stations (r : Run) : r.reevaluate.st.stations = r.st.stations := by
  unfold reevaluate
  generalize List.finRange 16 = l
  induction l generalizing r with
  | nil => rfl
  | cons i l ih => exact (ih _).trans (r.reevaluateLane_stations i)

theorem foldl_reevaluateLane_get (l : List (Fin 16)) (r : Run) (k : Fin 16) (h : l.Nodup) :
    (l.foldl reevaluateLane r).st.lanes.get k =
      if k ∈ l then reevaluated r.st (r.st.lanes.get k) else r.st.lanes.get k := by
  induction l generalizing r with
  | nil => simp
  | cons i l ih =>
    obtain ⟨hi, hl⟩ := List.nodup_cons.1 h
    rw [List.foldl_cons, ih _ hl, reevaluated_congr (r.reevaluateLane_stations i),
      reevaluateLane_lanesTable, Table.get_set]
    by_cases hk : k = i
    · subst hk; simp [hi]
    · simp [hk]

/-- Every lane takes its re-evaluation (R144). -/
theorem reevaluate_get (r : Run) (k : Fin 16) :
    r.reevaluate.st.lanes.get k = reevaluated r.st (r.st.lanes.get k) := by
  rw [reevaluate, foldl_reevaluateLane_get _ _ _ (List.nodup_finRange 16), if_pos (List.mem_finRange k)]

/-! ### The lanes of a request -/

/-- The lanes during a request: no EXHAUSTED lane waits for its station's end, and all have settled unless
they are to be re-evaluated. -/
structure LanesReady (r : Run) : Prop where
  exhausted : ∀ i, (r.st.lanes.get i).state = .exhausted → (r.st.lanes.get i).stopsAtStationEnd = false
  settled   : r.lanes = false → LanesSettled r.st

theorem lanesReady_of_settled {r : Run} (h : LanesSettled r.st) : LanesReady r :=
  ⟨fun i hi => ((h i).2 hi).2, fun _ => h⟩

theorem LanesReady.of_same {r r' : Run} (h : LanesReady r) (hs : r.Same r' .map) : LanesReady r' := by
  obtain ⟨hl, hst, hr⟩ := hs
  refine ⟨by rw [hl]; exact h.exhausted, fun hx => ?_⟩
  intro i
  rw [hl]
  exact (State.settles_congr hst _).2 (h.settled (hr ▸ hx) i)

/-- The lanes are ready once they are to be re-evaluated. -/
theorem lanesReady_touchLanes {r : Run}
    (h : ∀ i, (r.st.lanes.get i).state = .exhausted → (r.st.lanes.get i).stopsAtStationEnd = false) :
    LanesReady r.touchLanes :=
  ⟨h, fun x => nomatch x⟩

theorem reevaluate_settled {r : Run} (h : LanesReady r) : LanesSettled r.reevaluate.st := by
  intro i
  rw [reevaluate_get]
  exact (State.settles_congr r.reevaluate_stations _).2 (r.st.reevaluated_settles (h.exhausted i))

theorem settleLanes_settled {r : Run} (h : LanesReady r) : LanesSettled r.settleLanes.st := by
  have hre := reevaluate_settled h
  unfold settleLanes
  generalize r.reevaluate = r' at hre ⊢
  split
  · exact hre
  · next hr => exact h.settled (by simpa using hr)

/-! ### Every request leaves the lanes settled -/

theorem LanesReady.setLane {r : Run} (h : LanesReady r) (i : Fin 16) {l : Lane}
    (hl : l.Follows (r.st.lanes.get i)) : LanesReady (r.setLane i l) := by
  have hlane : l.state = .exhausted → l.stopsAtStationEnd = false := by
    intro hx
    rcases hl with hs | ⟨hs, -, -, hq⟩
    · simp [hx] at hs
    · rcases hq with hq | hq
      · simpa [Lane.stopsAtStationEnd, hq] using h.exhausted i (hs ▸ hx)
      · simp [Lane.stopsAtStationEnd, hq]
  constructor
  · intro k
    rw [setLane_lanesTable, Table.get_set]
    split
    · exact hlane
    · exact h.exhausted k
  · intro hr k
    have hset := h.settled (by simpa using hr)
    rw [setLane_lanesTable, Table.get_set]
    refine (State.settles_congr (setLane_stations r i l) _).2 ?_
    split
    · exact State.settles_of_follows hl (hset i)
    · exact hset k

/-- A lane after a stop request is not EXHAUSTED with a stop at its station's end (R151). -/
theorem stopped_not_exhausted (s : State) (l : Lane) (q : StopRequest) :
    (s.stopped l q).state ≠ .exhausted := by
  unfold State.stopped
  cases hs : l.state with
  | isOpen => simp only; split <;> simp
  | closed | stopped | exhausted | paused => simp [hs]

theorem setSlots_lanesTable (r : Run) (i : Fin 8) (f : List SlotState → List SlotState) :
    (r.setSlots i f).st.lanes = r.st.lanes := by
  have hset (st : Station) : (r.setStation i st).st.lanes = r.st.lanes := by
    unfold setStation
    split <;> simp [Run.touchLanes]
  unfold setSlots
  simp only
  split <;> simp [hset]

theorem configureLanes_exhausted (ws : List Word) (l : List (Fin 16)) {r : Run}
    (h : ∀ i, (r.st.lanes.get i).state = .exhausted → (r.st.lanes.get i).stopsAtStationEnd = false) (k : Fin 16) :
    ((l.foldl (configureLane ws) r).st.lanes.get k).state = .exhausted →
      ((l.foldl (configureLane ws) r).st.lanes.get k).stopsAtStationEnd = false := by
  refine kept_foldl (fun r => ∀ k, (r.st.lanes.get k).state = .exhausted →
    (r.st.lanes.get k).stopsAtStationEnd = false) (fun r i hr k => ?_) l h k
  rw [configureLane, image_st, setLane_lanesTable, Table.get_set]
  split
  · exact fun _ => rfl
  · exact hr k

theorem LanesReady.moves {r r' : Run} (m : r.Moves r') (h : LanesReady r) : LanesReady r' := by
  cases m with
  | touch => exact lanesReady_touchLanes h.exhausted
  | station i st =>
    unfold setStation
    split
    · exact h
    · exact lanesReady_touchLanes (by simpa using h.exhausted)
  | lane i l hl => exact h.setLane i hl
  | select sel =>
    refine lanesReady_touchLanes fun k => ?_
    rw [setSlots_lanesTable, setLane_lanesTable, Table.get_set]
    split
    · exact h.exhausted _
    · exact h.exhausted k
  | stop i q =>
    refine lanesReady_touchLanes fun k => ?_
    rw [image_st]
    split
    · exact h.exhausted k
    · rw [announce_lanesTable, Table.get_set]
      split
      · intro hx
        exact absurd (noticed_state _ ▸ hx) (stopped_not_exhausted _ _ _)
      · exact h.exhausted k
  | resume i =>
    refine lanesReady_touchLanes fun k => ?_
    rw [image_st, setLane_lanesTable, Table.get_set]
    split
    · exact fun _ => rfl
    · exact h.exhausted k
  | configure ws => exact lanesReady_touchLanes (configureLanes_exhausted ws _ h.exhausted)
  | settle => exact lanesReady_of_settled (settleLanes_settled h)

/-- The lanes stay ready through every request. -/
theorem lanesReady_closed : Closed LanesReady := by
  refine .of_single ⟨⟨fun q h => h.of_same (q.same .map), fun l h => h.of_same (l.only.same .map (by decide)),
    fun m h => h.moves m⟩, fun r h => ?_, fun r h => h.of_same ⟨rfl, rfl, rfl⟩⟩ ?_ ?_ ?_ ?_
  · exact h.of_same ⟨State.lanes_of_calm r.cycle_calm, State.stations_of_calm r.cycle_calm, rfl⟩
  · exact fun r i e limit h _ _ => h.of_same ((r.openEntry_only i e limit).same .map (by decide))
  · exact fun r i e cause h _ => h.of_same ((r.markExpired_only i e cause).same .map (by decide))
  · exact fun r i h => h.of_same ((r.freeEntry_only i).same .map (by decide))
  · exact fun r i e h _ _ => h.of_same ((r.setEntry_only i (some e)).same .map (by decide))

theorem emptySlots_calm (r : Run) : r.emptySlots.st.calm = r.st.calm :=
  kept_foldl (fun r' => r'.st.calm = r.st.calm) (fun _ _ h => (write_calm _ _ _).trans h) _ rfl

/-- The lanes are settled at the end of a request that kept them ready. -/
theorem conclude_settled {r : Run} (h : LanesReady r) : LanesSettled r.conclude.st := by
  have hset := settleLanes_settled h
  have hend := ((handEvents_quiet r.settleLanes.emptySlots).trans (queueImages_quiet _)).same .map
  unfold conclude
  generalize r.settleLanes = r' at hset hend ⊢
  have hlanes := hend.1.trans (State.lanes_of_calm r'.emptySlots_calm)
  have hstations := hend.2.1.trans (State.stations_of_calm r'.emptySlots_calm)
  intro i
  rw [hlanes]
  exact (State.settles_congr hstations _).2 (hset i)

end Run

theorem LanesSettled.of_calm {s t : State} (h : LanesSettled s) (hc : t.calm = s.calm) : LanesSettled t := by
  intro i
  rw [State.lanes_of_calm hc]
  exact (State.settles_congr (State.stations_of_calm hc) _).2 (h i)

theorem LanesSettled.of_same {r r' : Run} (h : LanesSettled r.st) (hs : r.Same r' .map) :
    LanesSettled r'.st := by
  intro i
  rw [hs.1]
  exact (State.settles_congr hs.2.1 _).2 (h i)

/-- The acknowledge of a request leaves the registers that the Engine judges by. -/
theorem Run.finishHeld_calm (r : Run) (tag : Tag) (a : Ack) : (r.finishHeld tag a).calm = r.st.calm := by
  unfold Run.finishHeld
  simp only
  split
  · exact State.takeNext_calm _
  · rfl

theorem Run.finishInternal_calm (r : Run) : r.finishInternal.calm = r.st.calm := State.takeNext_calm _

/-- The release of a capture changes no part of the state. -/
theorem Run.release_same (r : Run) (src : Source) (k : Part) :
    r.Same (r.releaseCapture src).queueImages k :=
  (r.releaseCapture_same src k).trans ((queueImages_quiet _).same k)

/-- A clear of flags changes no part of the state. -/
theorem Run.clearFlags_same (r : Run) (w : Word) (k : Part) :
    r.Same ((r.modify fun s => { s with flags := s.flags &&& ~~~clearable w }).image .status).queueImages k := by
  refine Same.trans (Same.trans ?_ (image_same _ _ k)) ((queueImages_quiet _).same k)
  cases k <;> simp [Same]

theorem State.afterReset_settled (s : State) : LanesSettled s.afterReset := resetMeetsWhatStepsKeep.2.2.2.1

/-- Settles O56. -/
theorem lanesStaySettled : Obligations.LanesStaySettled := by
  refine keptByStep_of_done (fun _ _ h => h) fun c s t hd hs => ?_
  have start (answers : List MemAnswer) : LanesSettled (Run.start s answers).st := hs
  cases hd with
  | idle => exact hs
  | reset hc => exact s.afterReset_settled
  | timebase => exact hs.of_calm ((State.takeNext_calm _).trans (State.calm_of_steady s.tick_steady))
  | cycle y hw => exact hs.of_calm (s.takeCycle_calm y)
  | port v hard => exact hs.of_calm (s.portCycle_calm _ _ _)
  | startJob => exact hs.of_calm (State.calm_of_steady s.startJob_steady)
  | endLoadJob => exact hs.of_calm s.endLoadJob_calm
  | endSyncJob => exact hs.of_calm s.endSyncJob_calm
  | endReleaseJob => exact hs.of_calm s.endReleaseJob_calm
  | held answers tag q ack r hq kept =>
    have hr := kept _ Run.lanesReady_closed (Run.lanesReady_of_settled (start answers))
    exact (Run.conclude_settled hr).of_calm (Run.finishHeld_calm _ _ _)
  | internal p r hp hi kept =>
    have hr := kept _ Run.lanesReady_closed (Run.lanesReady_of_settled (start []))
    exact (Run.conclude_settled hr).of_calm r.conclude.finishInternal_calm
  | released tag q src hc hq hcls hheld =>
    exact ((start []).of_same (Run.release_same _ src .map)).of_calm (Run.finishHeld_calm _ _ _)
  | cleared tag q hq hset =>
    exact ((start []).of_same (Run.clearFlags_same _ q.data .map)).of_calm (Run.finishHeld_calm _ _ _)

end Sys2Proof.Machine
end

section
/-! PROOF. What goes on in the part without the Engine, as a sequence of small steps: `Beat` lists them, and a
predicate that each of them keeps holds through everything that goes on beside a request. -/

namespace Sys2Proof.Machine

/-! ### The small steps -/

/-- A LOAD job of a nest runs or waits. -/
def Loads (w : Walker) (jobs : List Job) (n : Nest) : Prop :=
  (∃ j d, w = .running j ∧ j.job = .load n d) ∨ ∃ d, Job.load n d ∈ jobs

/-- A state with the image queue, flags, captures, the port's and the lines' registers and cell memory blotted
out. -/
def State.muted (s : State) : State :=
  { s with
    images := [], flags := 0, captures := Table.replicate 4 none, portLast := .pass, passLast := 0
    published := ⟨0, 0, 0⟩, lastGuard := none, mem := [] }

theorem State.eq_of_muted {s t : State} (h : t.muted = s.muted) :
    t = { s with
      images := t.images, flags := t.flags, captures := t.captures, portLast := t.portLast
      passLast := t.passLast, published := t.published, lastGuard := t.lastGuard, mem := t.mem } := by
  have := congrArg (fun u : State => { u with
    images := t.images, flags := t.flags, captures := t.captures, portLast := t.portLast
    passLast := t.passLast, published := t.published, lastGuard := t.lastGuard, mem := t.mem }) h
  exact this

/-- One small step of what goes on in the part without the Engine. -/
inductive State.Beat : State → State → Prop
  | aside {s t : State} (h : t.muted = s.muted) : Beat s t
  | tick (s : State) : Beat s s.tick
  | takeNext (s : State) : Beat s s.takeNext
  | answer (s : State) (tag : Tag) (a : Ack) (d : Option Word) (h : s.masters.get tag ≠ .waiting) :
      Beat s { s with masters := s.masters.set tag (.answered a d) }
  | forward (s : State) (c : Cycle) (h : s.masters.get c.tag ≠ .waiting) :
      Beat s { s with masters := s.masters.set c.tag .waiting, pass := s.pass.set c.tag (some c) }
  | hold (s : State) (tag : Tag) (q : Request) (h : s.masters.get tag ≠ .waiting) :
      Beat s { s with masters := s.masters.set tag .waiting, requests := s.requests.set tag (some q) }
  | refuse (s : State) (w : Wait) (h : s.masters.get w.tag ≠ .waiting) :
      Beat s { s with masters := s.masters.set w.tag .waiting, waits := s.waits ++ [w] }
  | passed (s : State) (tag : Tag) (a : Ack) (d : Option Word) (h : (s.pass.get tag).isSome) :
      Beat s { s with pass := s.pass.set tag none, masters := s.masters.set tag (.answered a d) }
  | waits (s : State) (id : ImageId) : Beat s (s.completeWaits id)
  | engine (s : State) (id : ImageId) : Beat s (s.completeEngine id)
  | job (s : State) (w : Walker) (jobs : List Job) (h : ∀ n, Loads w jobs n → Loads s.walker s.jobs n) :
      Beat s { s with walker := w, jobs := jobs }
  | types (s : State) (n : Nest) (types : Table 64 TypeEntry) (h : Loads s.walker s.jobs n) :
      Beat s (s.withNest n { s.nest n with types := types })
  | mark (s : State) (i : Fin 64) (l l' : CacheLine) (h : s.cache.get i = some l)
      (hb : l'.board = l.board) (hw : l'.words = l.words) : Beat s (s.setLine i (some l'))
  | drop (s : State) (i : Fin 64) : Beat s (s.invalidate i)

/-- What goes on in the part without the Engine. -/
def State.Beats : State → State → Prop := Relation.ReflTransGen State.Beat

namespace State.Beats

theorem refl (s : State) : s.Beats s := Relation.ReflTransGen.refl

theorem of_beat {s t : State} (h : s.Beat t) : s.Beats t := Relation.ReflTransGen.single h

theorem of_aside {s t : State} (h : t.muted = s.muted) : s.Beats t := of_beat (.aside h)

theorem trans {s t u : State} (h : s.Beats t) (k : t.Beats u) : s.Beats u := Relation.ReflTransGen.trans h k

/-- A predicate that each small step keeps. -/
theorem kept {P : State → Prop} (hP : ∀ {s t : State}, s.Beat t → P s → P t) {s t : State} (h : s.Beats t)
    (hs : P s) : P t := by
  induction h with
  | refl => exact hs
  | tail _ hb ih => exact hP hb ih

end State.Beats

/-! ### What queues images alone -/

theorem Run.image_muted (r : Run) (id : ImageId) : (r.image id).st.muted = r.st.muted := by
  rw [Run.image_st]

theorem Run.raise_muted (r : Run) (f : Flag) : (r.raise f).st.muted = r.st.muted := by
  unfold Run.raise
  split
  · exact Run.image_muted _ _
  · rfl

theorem Run.queued_muted (r : Run) : r.queued.muted = r.st.muted := by
  rw [Run.queued_eq]
  rfl

theorem State.raise_muted (s : State) (f : Flag) : (s.raise f).muted = s.muted :=
  (Run.queued_muted _).trans (Run.raise_muted _ f)

theorem Run.refusal_muted (r : Run) (ev : Event) : (r.refusal ev).2.st.muted = r.st.muted := by
  unfold Run.refusal
  split
  · split
    · unfold Run.fillCapture
      rw [Run.image_muted, Run.raise_muted, Run.image_muted]
      rfl
    · rw [Run.image_muted, Run.raise_muted]
  · rfl

theorem Run.guardRefusal_muted (r : Run) (g : GuardRecord) : (r.guardRefusal g).st.muted = r.st.muted := by
  unfold Run.guardRefusal
  rw [Run.image_muted, Run.raise_muted]
  rfl

theorem State.publish_muted (s : State) (id : ImageId) : (s.publish id).muted = s.muted := by
  unfold State.publish
  split <;> rfl

/-! ### A cycle that arrives -/

theorem Table.set_set_same {n : Nat} {α : Type} (t : Table n α) (i : Fin n) (x y : α) :
    (t.set i x).set i y = t.set i y := by
  refine Table.ext_get fun j => ?_
  simp only [Table.get_set]
  split <;> rfl

/-- A cycle that is answered at once. -/
theorem State.answered_beats {s : State} {tag : Tag} (hw : s.masters.get tag ≠ .waiting) (a : Ack)
    (d : Option Word) :
    s.Beats (State.acknowledge { s with masters := s.masters.set tag .waiting } tag a d) := by
  unfold State.acknowledge
  simp only [Table.set_set_same]
  exact .of_beat (.answer s tag a d hw)

/-- A refused cycle waits for the images of its refusal. -/
theorem State.refused_beats {s : State} {c : Cycle} (hw : s.masters.get c.tag ≠ .waiting) {r : Run} (a : Ack)
    (hr : r.st.muted = State.muted { s with masters := s.masters.set c.tag .waiting }) :
    s.Beats (r.awaitImages c.tag a) := by
  have hq : State.muted r.queued = State.muted { s with masters := s.masters.set c.tag .waiting } :=
    (Run.queued_muted r).trans hr
  have hwaits := congrArg (fun u : State => u.waits) hr
  change r.st.waits = s.waits at hwaits
  refine .trans (.of_beat (.refuse s ⟨c.tag, a, r.images⟩ hw)) (.of_aside ?_)
  unfold Run.awaitImages
  rw [hwaits]
  exact congrArg (fun u : State => { u with waits := s.waits ++ [(⟨c.tag, a, r.images⟩ : Wait)] }) hq

theorem State.dispatch_beats {s : State} {c : Cycle} (hw : s.masters.get c.tag ≠ .waiting) (f : Fate) :
    s.Beats (State.dispatch { s with masters := s.masters.set c.tag .waiting } c f) := by
  cases f with
  | pass => exact .of_beat (.forward s c hw)
  | boardRead b word =>
    unfold State.dispatch State.readBoard
    simp only
    split
    · exact State.answered_beats hw _ _
    · exact .of_beat (.forward s c hw)
  | held cls => exact .trans (.of_beat (.hold s c.tag _ hw)) (.of_beat (.takeNext _))
  | refused cause => exact State.refused_beats hw _ (Run.refusal_muted (Run.start _ []) _)
  | guarded => exact State.refused_beats hw _ (Run.guardRefusal_muted (Run.start _ []) _)
  | plain a => exact State.answered_beats hw _ _

theorem State.takeCycle_beats {s : State} {c : Cycle} (hw : s.masters.get c.tag ≠ .waiting) :
    s.Beats (s.takeCycle c) := State.dispatch_beats hw _

/-! ### The walker -/

theorem State.setJob_beats {s : State} {j j' : RunningJob} (hj : s.walker = .running j) (h : j'.job = j.job) :
    s.Beats (s.setJob j') := by
  refine .of_beat (.job s _ s.jobs fun n hn => ?_)
  rcases hn with ⟨k, d, hk, hd⟩ | hn
  · cases hk
    exact .inl ⟨j, d, hj, h ▸ hd⟩
  · exact .inr hn

theorem State.invalidate_walker (s : State) (i : Fin 64) : (s.invalidate i).walker = s.walker := rfl

theorem State.visit_beats (s : State) : s.Beats s.visit := by
  unfold State.visit
  cases hw : s.walker with
  | idle => exact .refl s
  | waiting w => exact .refl s
  | running j =>
    simp only
    split
    · next i _ _ =>
      split
      · exact State.setJob_beats hw rfl
      · next l hl =>
        split
        · split
          · exact .trans (.of_beat (.mark s i l _ hl (by rfl) (by rfl))) (State.setJob_beats (j := j) hw rfl)
          · unfold State.visitClean
            split
            · exact .trans (.of_beat (.drop s i)) (State.setJob_beats (j := j) hw rfl)
            · exact State.setJob_beats hw rfl
            · exact State.setJob_beats hw rfl
        · exact State.setJob_beats hw rfl
    · exact .refl s

theorem State.scan_beats (s : State) (n : Nat) : s.Beats (s.scan n) := by
  induction n generalizing s with
  | zero => exact .refl s
  | succ n ih => exact s.visit_beats.trans (ih _)

theorem State.unmark_beats (s : State) (job : Job) (i : Fin 64) (failed : Bool) :
    s.Beats (s.unmark job i failed) ∧ (s.unmark job i failed).walker = s.walker := by
  unfold State.unmark
  split
  · exact ⟨.refl s, rfl⟩
  · next l hl =>
    split
    · split
      · exact ⟨.of_beat (.drop s i), rfl⟩
      · exact ⟨.of_beat (.mark s i l _ hl (by rfl) (by rfl)), rfl⟩
      · exact ⟨.of_beat (.mark s i l _ hl (by rfl) (by rfl)), rfl⟩
    · exact ⟨.refl s, rfl⟩

theorem State.endWriteBack_beats {s : State} {j : RunningJob} (hj : s.walker = .running j) (failed : Bool) :
    s.Beats (s.endWriteBack j failed) := by
  unfold State.endWriteBack
  simp only
  split
  · exact State.setJob_beats hj rfl
  · next i _ =>
    obtain ⟨hb, hw⟩ := s.unmark_beats j.job i failed
    exact hb.trans (State.setJob_beats (hw.trans hj) rfl)

theorem RunningJob.nextPosition_job (j : RunningJob) (d : Descriptor) (left : Bool) :
    (j.nextPosition d left).job = j.job := by
  unfold RunningJob.nextPosition
  simp only
  split <;> rfl

theorem State.takeRecord_beats {s : State} {j : RunningJob} (hj : s.walker = .running j) (n : Nest)
    (d : Descriptor) (w : BoardWords) : s.Beats (s.takeRecord j n d w) := by
  unfold State.takeRecord
  split
  · simp only
    split
    · exact State.setJob_beats hj (RunningJob.nextPosition_job _ _ _)
    · exact State.setJob_beats hj rfl
  · exact State.setJob_beats hj rfl

theorem State.takeType_beats {s : State} {j : RunningJob} (hj : s.walker = .running j) {n : Nest}
    {d : Descriptor} (hd : j.job = .load n d) (k : Nat) (w : Word) : s.Beats (s.takeType j n k w) := by
  refine .trans (.of_beat (.types s n _ (.inl ⟨j, d, hj, hd⟩))) (State.setJob_beats (j := j) ?_ rfl)
  cases n <;> exact hj

theorem State.loadCycle_beats {s : State} {j : RunningJob} (hj : s.walker = .running j) {n : Nest}
    {d : Descriptor} (hd : j.job = .load n d) (hard : Bool) : s.Beats (s.loadCycle j n d hard) := by
  unfold State.loadCycle
  simp only
  split
  · split
    · exact State.setJob_beats hj rfl
    · exact State.takeType_beats hj hd _ _
  · split
    · exact State.setJob_beats hj rfl
    · split
      · exact State.setJob_beats hj rfl
      · exact State.takeRecord_beats hj _ _ _
  · split
    · exact State.setJob_beats hj rfl
    · split
      · exact .trans (.of_aside (by rfl)) (State.setJob_beats (j := j) hj rfl)
      · exact .trans (.of_aside (by rfl)) (State.setJob_beats (j := j) hj (RunningJob.nextPosition_job _ _ _))
  all_goals exact .refl s

theorem State.flushCycle_beats {s : State} {j : RunningJob} (hj : s.walker = .running j) (hard : Bool) :
    s.Beats (s.flushCycle j hard) := by
  unfold State.flushCycle
  split
  · split
    · exact State.endWriteBack_beats hj _
    · simp only
      split
      · exact .trans (.of_aside (by rfl)) (State.setJob_beats (j := j) hj rfl)
      · refine .trans (.of_aside ?_) (State.endWriteBack_beats ?_ _)
        · rfl
        · exact hj
  all_goals exact .refl s

theorem State.grantWalker_beats (s : State) (hard : Bool) : s.Beats (s.grantWalker hard) := by
  unfold State.grantWalker
  cases hw : s.walker with
  | idle => exact .refl s
  | waiting w => exact .refl s
  | running j =>
    have h : s.Beats (match j.job with
      | .load n d => s.loadCycle j n d hard
      | .sync _ | .release _ => s.flushCycle j hard) := by
      split
      · next hd => exact State.loadCycle_beats hw hd _
      · exact State.flushCycle_beats hw _
      · exact State.flushCycle_beats hw _
    simp only
    split
    · exact h.trans (.of_aside (State.raise_muted _ _))
    · exact h

theorem State.startJob_beats (s : State) : s.Beats s.startJob := by
  unfold State.startJob
  split
  · next job rest hw hj =>
    refine .of_beat (.job s _ rest fun n hn => ?_)
    rw [hw, hj]
    rcases hn with ⟨k, d, hk, hd⟩ | ⟨d, hd⟩
    · cases hk
      exact .inr ⟨d, by rw [show job = .load n d from hd]; exact List.mem_cons_self⟩
    · exact .inr ⟨d, List.mem_cons_of_mem _ hd⟩
  · exact .refl s

/-- The walker lets its job go. -/
theorem State.release_beats (s : State) {w : Walker} (h : ∀ j, w ≠ .running j) :
    s.Beats { s with walker := w } := by
  refine .of_beat (.job s w s.jobs fun n hn => ?_)
  rcases hn with ⟨k, d, hk, -⟩ | hn
  · exact absurd hk (h k)
  · exact .inr hn

theorem State.endLoadJob_beats (s : State) : s.Beats s.endLoadJob := by
  unfold State.endLoadJob
  split
  · split
    · split
      · exact s.release_beats (by simp)
      · exact (s.release_beats (by simp)).trans (.of_beat (.takeNext _))
    · exact .refl s
  · exact .refl s
  · exact .refl s

theorem State.endSyncJob_beats (s : State) : s.Beats s.endSyncJob := by
  have h := s.scan_beats 64
  unfold State.endSyncJob
  generalize s.scan 64 = u at h
  split
  · split
    · split
      · exact h.trans ((u.release_beats (by simp)).trans (.of_beat (.takeNext _)))
      · exact .refl s
    · exact .refl s
    · exact .refl s
  · exact .refl s
  · exact .refl s

theorem State.endReleaseJob_beats (s : State) : s.Beats s.endReleaseJob := by
  have h := s.scan_beats 64
  unfold State.endReleaseJob
  generalize s.scan 64 = u at h
  split
  · split
    · split
      · exact h.trans ((u.release_beats (by simp)).trans (.of_beat (.takeNext _)))
      · exact .refl s
    · exact .refl s
    · exact .refl s
  · exact .refl s
  · exact .refl s

theorem State.endJob_beats (s : State) : s.Beats s.endJob :=
  s.endLoadJob_beats.trans ((State.endSyncJob_beats _).trans (State.endReleaseJob_beats _))

/-! ### The port -/

theorem State.grantPass_beats (s : State) (hard : Bool) : s.Beats (s.grantPass hard) := by
  unfold State.grantPass
  split
  · exact .refl s
  · next tag _ =>
    split
    · exact .refl s
    · next c hc =>
      have h (a : Ack) (d : Option Word) := State.Beats.of_beat (.passed s tag a d (by simp [hc]))
      simp only
      split
      · exact (h _ _).trans (.of_aside (by rfl))
      · exact (h _ _).trans (.of_aside (by rfl))

theorem State.grantImage_beats (s : State) (hard : Bool) : s.Beats (s.grantImage hard) := by
  unfold State.grantImage
  split
  · exact .refl s
  · next id rest _ =>
    have h : ∀ u : State, u.muted = s.muted →
        s.Beats (((u.publish id).completeWaits id).completeEngine id) := fun u hu =>
      .trans (.of_aside ((State.publish_muted _ _).trans hu))
        (.trans (.of_beat (.waits _ id)) (.of_beat (.engine _ id)))
    simp only
    split
    · refine (h _ ?_).trans (.of_aside (State.raise_muted _ .memory))
      rfl
    · exact h _ rfl

theorem State.grant_beats (s : State) (hard : Bool) (src : Option PortSource) :
    s.Beats (s.grant hard src) := by
  unfold State.grant
  split
  · exact .refl s
  · exact s.grantPass_beats hard
  · exact .refl s
  · exact .trans (.of_aside (by rfl)) (State.grantWalker_beats { s with portLast := .walker } hard)
  · exact s.grantImage_beats hard

theorem State.portCycle_beats (s : State) (engine : Bool) (visits : Nat) (hard : Bool) :
    s.Beats (s.portCycle engine visits hard) :=
  (s.scan_beats visits).trans (State.grant_beats _ _ _)

/-! ### Beside the Engine -/

theorem State.meanwhile_beats (e : EngineCycle) (s : State) (m : Meanwhile) :
    s.Beats (s.meanwhile e m) := by
  cases m with
  | timebase => exact .of_beat (.tick s)
  | arrival c =>
    show s.Beats (if s.masters.get c.tag = .waiting then s else s.takeCycle c)
    split
    · exact .refl s
    · next h => exact State.takeCycle_beats h
  | portCycle visits hard =>
    cases e with
    | quiet => exact s.portCycle_beats false visits hard
    | presented => exact s.portCycle_beats true visits hard
    | inFlight => exact s.scan_beats visits
  | jobStart => exact s.startJob_beats
  | jobEnd => exact s.endJob_beats

/-- What each small step keeps holds while the Engine waits for one of its cycles. -/
theorem Patient.of_beat {P : State → Prop} (h : ∀ {s t : State}, s.Beat t → P s → P t) : Patient P where
  meanwhile e s m := State.Beats.kept h (s.meanwhile_beats e m)
  grant s src := State.Beats.kept h (s.grant_beats false src)
  portLast _ _ := h (.aside rfl)

theorem State.await_beats (s : State) (a : MemAnswer) : s.Beats (s.await a) :=
  (Patient.of_beat (P := s.Beats) fun b h => h.trans (.of_beat b)).await (.refl s) a

end Sys2Proof.Machine
end

section
/-! PROOF. The recency order of the Board Cache and the list of the Open Command Table stay listed (R42, R106,
R110). -/

namespace Sys2Proof.Machine

open Sys2Proof.Claims

/-! ### What the small steps leave of the cache and the table -/

/-- The waits that an image write completes are acknowledged, and nothing else changes. -/
theorem State.completeWaits_eq (s : State) (id : ImageId) :
    s.completeWaits id = { s with
      waits := (s.waits.map fun w => w.without id).filter fun w => !w.images.isEmpty
      masters := (s.completeWaits id).masters } := by
  have h : ∀ (l : List Wait) (u : State), l.foldl (fun s w => s.acknowledge w.tag w.ack none) u =
      { u with masters := (l.foldl (fun s w => s.acknowledge w.tag w.ack none) u).masters } := by
    intro l
    induction l with
    | nil => exact fun _ => rfl
    | cons w l ih => exact fun u => ih _
  unfold State.completeWaits
  simp only
  exact h _ _

/-- The Engine's taking of the next request changes the Engine alone. -/
theorem State.takeNext_eq (s : State) :
    s.takeNext = { s with engine := s.takeNext.engine, lastServed := s.takeNext.lastServed } := by
  unfold State.takeNext
  split
  · split <;> rfl
  · rfl
  · rfl

/-- An image write that the Engine waits for changes the masters and the Engine alone. -/
theorem State.completeEngine_eq (s : State) (id : ImageId) :
    s.completeEngine id = { s with
      masters := (s.completeEngine id).masters, engine := (s.completeEngine id).engine
      lastServed := (s.completeEngine id).lastServed } := by
  unfold State.completeEngine
  split
  · rfl
  · rfl
  · simp only
    split
    · rw [State.takeNext_eq]; rfl
    · rfl

/-- A small step leaves the table; the due marks change by a pulse of time alone. -/
theorem State.Beat.table {s t : State} (h : s.Beat t) :
    t.entries = s.entries ∧ t.order = s.order ∧ (t.due = s.due ∨ t = s.tick) := by
  cases h with
  | aside h => rw [State.eq_of_muted h]; exact ⟨rfl, rfl, .inl rfl⟩
  | tick => exact ⟨by rw [State.tick_eq], by rw [State.tick_eq], .inr rfl⟩
  | takeNext => rw [State.takeNext_eq]; exact ⟨rfl, rfl, .inl rfl⟩
  | waits id => rw [State.completeWaits_eq]; exact ⟨rfl, rfl, .inl rfl⟩
  | engine id => rw [State.completeEngine_eq]; exact ⟨rfl, rfl, .inl rfl⟩
  | types n => cases n <;> exact ⟨rfl, rfl, .inl rfl⟩
  | _ => exact ⟨rfl, rfl, .inl rfl⟩

/-- A small step leaves the cache and its order, marks an entry anew, or makes one invalid. -/
theorem State.Beat.cache {s t : State} (h : s.Beat t) :
    (t.cache = s.cache ∧ t.recency = s.recency) ∨
      (∃ i l l', s.cache.get i = some l ∧ l'.board = l.board ∧ l'.words = l.words ∧ t = s.setLine i (some l')) ∨
      ∃ i, t = s.invalidate i := by
  cases h with
  | aside h => rw [State.eq_of_muted h]; exact .inl ⟨rfl, rfl⟩
  | tick => rw [State.tick_eq]; exact .inl ⟨rfl, rfl⟩
  | takeNext => rw [State.takeNext_eq]; exact .inl ⟨rfl, rfl⟩
  | waits id => rw [State.completeWaits_eq]; exact .inl ⟨rfl, rfl⟩
  | engine id => rw [State.completeEngine_eq]; exact .inl ⟨rfl, rfl⟩
  | types n => cases n <;> exact .inl ⟨rfl, rfl⟩
  | mark i l l' hl hb hw => exact .inr (.inl ⟨i, l, l', hl, hb, hw, rfl⟩)
  | drop i => exact .inr (.inr ⟨i, rfl⟩)
  | _ => exact .inl ⟨rfl, rfl⟩

/-! ### Conditions on one part of the state -/

/-- A condition on the registers away from the path of the cycles is kept by every step, if the small steps
beside the Engine keep it and it is closed under what a request does. -/
theorem keptByStep_of_closed {P : State → Prop} (k : Part)
    (hsame : ∀ {r r' : Run}, r.Same r' k → P r.st → P r'.st)
    (hframe : ∀ s masters requests engine pending, P s →
      P { s with masters := masters, requests := requests, engine := engine, pending := pending })
    (hreset : ∀ s : State, P s.afterReset) (hbeat : ∀ {s t : State}, s.Beat t → P s → P t)
    (hclosed : Run.Closed fun r => P r.st) : KeptByStep P := by
  have finish (r : Run) (tag : Tag) (a : Ack) (hr : P r.st) : P (r.finishHeld tag a) := by
    unfold Run.finishHeld
    simp only
    split
    · exact hbeat (.takeNext _) (hframe r.st _ _ _ _ hr)
    · exact hframe r.st _ _ _ _ hr
  refine keptByStep_of_done (fun s rest hs => hframe s _ _ _ rest hs) fun c s t hd hs => ?_
  have beats {u : State} (h : s.Beats u) : P u := h.kept hbeat hs
  cases hd with
  | idle => exact hs
  | reset hc => exact hreset s
  | timebase => exact hbeat (.takeNext _) (hbeat (.tick s) hs)
  | cycle y hw => exact beats (State.takeCycle_beats hw)
  | port v hard => exact beats (s.portCycle_beats _ _ _)
  | startJob => exact beats s.startJob_beats
  | endLoadJob => exact beats s.endLoadJob_beats
  | endSyncJob => exact beats s.endSyncJob_beats
  | endReleaseJob => exact beats s.endReleaseJob_beats
  | held answers tag q ack r hq kept => exact finish _ tag ack (hclosed.conclude (kept _ hclosed hs))
  | internal p r hp hi kept =>
    exact hbeat (.takeNext _) (hframe _ _ _ .idle _ (hclosed.conclude (kept _ hclosed hs)))
  | released tag q src hc hq hcls hheld =>
    exact finish _ tag .done (hsame (Run.release_same (Run.start s []) src k) hs)
  | cleared tag q hq hset =>
    exact finish _ tag .done (hsame (Run.clearFlags_same (Run.start s []) q.data k) hs)

/-! ### The recency order -/

theorem RecencyListed.touch {s : State} (h : RecencyListed s) {i : Fin 64} (hi : (s.cache.get i).isSome) :
    RecencyListed (s.touch i) := by
  obtain ⟨hn, hm⟩ := h
  refine ⟨List.nodup_cons.2 ⟨hn.not_mem_erase, hn.erase i⟩, fun j => ?_⟩
  show j ∈ i :: s.recency.erase i ↔ (s.cache.get j).isSome
  rw [List.mem_cons, hn.mem_erase_iff, hm]
  by_cases hj : j = i
  · simp [hj, hi]
  · simp [hj]

theorem RecencyListed.setLine_touch {s : State} (h : RecencyListed s) (i : Fin 64) (l : CacheLine) :
    RecencyListed ((s.setLine i (some l)).touch i) := by
  obtain ⟨hn, hm⟩ := h
  refine ⟨List.nodup_cons.2 ⟨hn.not_mem_erase, hn.erase i⟩, fun j => ?_⟩
  show j ∈ i :: s.recency.erase i ↔ ((s.cache.set i (some l)).get j).isSome
  rw [List.mem_cons, hn.mem_erase_iff, hm, Table.get_set]
  by_cases hj : j = i <;> simp [hj]

theorem RecencyListed.rewrite {s : State} (h : RecencyListed s) {i : Fin 64} (hi : (s.cache.get i).isSome)
    (l : CacheLine) : RecencyListed (s.setLine i (some l)) := by
  refine ⟨h.1, fun j => ?_⟩
  show j ∈ s.recency ↔ ((s.cache.set i (some l)).get j).isSome
  rw [h.2, Table.get_set]
  by_cases hj : j = i
  · simp [hj, hi]
  · simp [hj]

theorem RecencyListed.invalidate {s : State} (h : RecencyListed s) (i : Fin 64) :
    RecencyListed (s.invalidate i) := by
  obtain ⟨hn, hm⟩ := h
  refine ⟨hn.erase i, fun j => ?_⟩
  show j ∈ s.recency.erase i ↔ ((s.cache.set i none).get j).isSome
  rw [hn.mem_erase_iff, hm, Table.get_set]
  by_cases hj : j = i <;> simp [hj]

theorem RecencyListed.of_same {s t : State} (h : RecencyListed s) (hc : t.cache = s.cache)
    (hr : t.recency = s.recency) : RecencyListed t := by
  unfold RecencyListed
  rw [hc, hr]
  exact h

theorem RecencyListed.beat {s t : State} (b : s.Beat t) (h : RecencyListed s) : RecencyListed t := by
  rcases b.cache with ⟨hc, hr⟩ | ⟨i, l, l', hl, -, -, rfl⟩ | ⟨i, rfl⟩
  · exact h.of_same hc hr
  · exact h.rewrite (by simp [hl]) l'
  · exact h.invalidate i

theorem RecencyListed.lines {r r' : Run} (l : r.Lines r') (h : RecencyListed r.st) :
    RecencyListed r'.st := by
  cases l with
  | touch i hi => exact h.touch hi
  | put i l => exact h.setLine_touch i l
  | rewrite i l hi => exact h.rewrite hi l
  | drop i => exact h.invalidate i

theorem recencyListed_closed : Run.Closed fun r => RecencyListed r.st := by
  have same {r r' : Run} (hs : r.Same r' .cache) (h : RecencyListed r.st) : RecencyListed r'.st :=
    h.of_same hs.1 hs.2
  refine .of_single ⟨⟨fun q => same (q.same .cache), RecencyListed.lines,
    fun m => same (m.only.same .cache (by decide))⟩,
    fun r h => State.Beats.kept RecencyListed.beat (r.st.await_beats _) h, fun r => same ⟨rfl, rfl⟩⟩ ?_ ?_ ?_ ?_
  · exact fun r i e limit h _ _ => same ((r.openEntry_only i e limit).same .cache (by decide)) h
  · exact fun r i e cause h _ => same ((r.markExpired_only i e cause).same .cache (by decide)) h
  · exact fun r i h => same ((r.freeEntry_only i).same .cache (by decide)) h
  · exact fun r i e h _ _ => same ((r.setEntry_only i (some e)).same .cache (by decide)) h

theorem recencyStaysListed : KeptByStep RecencyListed :=
  keptByStep_of_closed .cache (fun hs h => h.of_same hs.1 hs.2) (fun _ _ _ _ _ h => h)
    (fun _ => resetMeetsWhatStepsKeep.2.2.2.2.2.1) RecencyListed.beat recencyListed_closed

end Sys2Proof.Machine
end

section
/-! PROOF. The list of the Open Command Table and its due marks (R106, R110). -/

namespace Sys2Proof.Machine

open Sys2Proof.Claims

/-! ### What the single changes make of the table -/

namespace Run

@[simp] theorem setEntry_entries (r : Run) (i : Fin 32) (e : Option Entry) :
    (r.setEntry i e).st.entries = r.st.entries.set i e := by simp [setEntry]

@[simp] theorem setEntry_order (r : Run) (i : Fin 32) (e : Option Entry) :
    (r.setEntry i e).st.order = r.st.order := by simp [setEntry]

@[simp] theorem setEntry_due (r : Run) (i : Fin 32) (e : Option Entry) :
    (r.setEntry i e).st.due = r.st.due := by simp [setEntry]

@[simp] theorem openEntry_entries (r : Run) (i : Fin 32) (e : Entry) (limit : Nat) :
    (r.openEntry i e limit).st.entries =
      r.st.entries.set i (some { e with expiry := expiryTime e.admitted limit }) := by simp [openEntry]

@[simp] theorem openEntry_order (r : Run) (i : Fin 32) (e : Entry) (limit : Nat) :
    (r.openEntry i e limit).st.order = r.st.order ++ [i] := by simp [openEntry]

theorem openEntry_due (r : Run) (i : Fin 32) (e : Entry) (limit : Nat) :
    (r.openEntry i e limit).st.due =
      if dueAtOpening e.admitted r.st.time limit then r.st.due ++ [i] else r.st.due := by simp [openEntry]

/-- What the removal of an entry in use makes of the table (R121). -/
theorem freeEntry_table {r : Run} {i : Fin 32} {e : Entry} (h : r.st.entries.get i = some e) :
    (r.freeEntry i).st.entries = r.st.entries.set i none ∧ (r.freeEntry i).st.order = r.st.order.erase i ∧
      (r.freeEntry i).st.due = r.st.due.erase i := by
  simp only [freeEntry, h]
  split <;> simp

theorem freeEntry_of_free {r : Run} {i : Fin 32} (h : r.st.entries.get i = none) : r.freeEntry i = r := by
  simp [freeEntry, h]

end Run

/-! ### The list -/

namespace TableListed

variable {s : State} (h : TableListed s)
include h

/-- A free entry is neither listed nor due. -/
theorem not_mem_of_free {i : Fin 32} (hi : s.entries.get i = none) : i ∉ s.order ∧ i ∉ s.due := by
  obtain ⟨-, -, hlist, hdue⟩ := h
  have ho : i ∉ s.order := fun hm => by simpa [hi] using (hlist i).1 hm
  exact ⟨ho, fun hm => ho (hdue i hm)⟩

/-- An entry in use joins the list at its tail, with or without its due mark. -/
theorem opened {t : State} {i : Fin 32} {e : Entry} (hi : s.entries.get i = none)
    (he : t.entries = s.entries.set i (some e)) (ho : t.order = s.order ++ [i])
    (hd : t.due = s.due ++ [i] ∨ t.due = s.due) : TableListed t := by
  obtain ⟨hio, hid⟩ := h.not_mem_of_free hi
  obtain ⟨hon, hdn, hlist, hdue⟩ := h
  have append {l : List (Fin 32)} (hn : l.Nodup) (hm : i ∉ l) : (l ++ [i]).Nodup :=
    List.nodup_append.2 ⟨hn, by simp, fun a ha b hb e => hm (by simp at hb; rwa [e, hb] at ha)⟩
  refine ⟨ho ▸ append hon hio, ?_, fun j => ?_, fun j hj => ?_⟩
  · rcases hd with e | e <;> rw [e]
    · exact append hdn hid
    · exact hdn
  · rw [ho, he, Table.get_set, List.mem_append, hlist]
    by_cases hj : j = i <;> simp [hj]
  · rw [ho, List.mem_append]
    rcases hd with e | e <;> rw [e] at hj
    · rcases List.mem_append.1 hj with hj | hj
      · exact .inl (hdue j hj)
      · exact .inr hj
    · exact .inl (hdue j hj)

/-- An entry in use is rewritten, and its due mark stands or goes. -/
theorem rewritten {t : State} {i : Fin 32} {e : Entry} (hi : (s.entries.get i).isSome)
    (he : t.entries = s.entries.set i (some e)) (ho : t.order = s.order)
    (hd : t.due = s.due.erase i ∨ t.due = s.due) : TableListed t := by
  obtain ⟨hon, hdn, hlist, hdue⟩ := h
  refine ⟨ho ▸ hon, ?_, fun j => ?_, fun j hj => ?_⟩
  · rcases hd with e | e <;> rw [e]
    · exact hdn.erase i
    · exact hdn
  · rw [ho, he, Table.get_set, hlist]
    by_cases hj : j = i
    · simp [hj, hi]
    · simp [hj]
  · rw [ho]
    rcases hd with e | e <;> rw [e] at hj
    · exact hdue j (List.mem_of_mem_erase hj)
    · exact hdue j hj

/-- An entry becomes free and leaves the list. -/
theorem freed {t : State} {i : Fin 32} (he : t.entries = s.entries.set i none)
    (ho : t.order = s.order.erase i) (hd : t.due = s.due.erase i) : TableListed t := by
  obtain ⟨hon, hdn, hlist, hdue⟩ := h
  refine ⟨ho ▸ hon.erase i, hd ▸ hdn.erase i, fun j => ?_, fun j hj => ?_⟩
  · rw [ho, he, Table.get_set, hon.mem_erase_iff, hlist]
    by_cases hj : j = i <;> simp [hj]
  · rw [hd, hdn.mem_erase_iff] at hj
    rw [ho, hon.mem_erase_iff]
    exact ⟨hj.1, hdue j hj.2⟩

end TableListed

theorem TableListed.of_same {s t : State} (h : TableListed s) (he : t.entries = s.entries)
    (ho : t.order = s.order) (hd : t.due = s.due) : TableListed t := by
  unfold TableListed
  rw [he, ho, hd]
  exact h

theorem State.mem_newlyDue {s : State} {now : Time} {i : Fin 32} :
    i ∈ s.newlyDue now ↔ i ∈ s.order ∧ i ∉ s.due ∧ ∃ e, s.entries.get i = some e ∧ e.becomesDue now = true := by
  simp [State.newlyDue, Option.any_eq_true]

/-- A pulse marks entries of the list that are not due yet (R110). -/
theorem TableListed.tick {s : State} (h : TableListed s) : TableListed s.tick := by
  obtain ⟨hon, hdn, hlist, hdue⟩ := h
  rw [State.tick_eq]
  refine ⟨hon, ?_, hlist, fun i hi => ?_⟩
  · refine List.nodup_append.2 ⟨hdn, hon.filter _, fun i hi j hj e => ?_⟩
    exact (State.mem_newlyDue.1 hj).2.1 (e ▸ hi)
  · rcases List.mem_append.1 hi with hi | hi
    · exact hdue i hi
    · exact (State.mem_newlyDue.1 hi).1

theorem TableListed.beat {s t : State} (b : s.Beat t) (h : TableListed s) : TableListed t := by
  obtain ⟨he, ho, hd | rfl⟩ := b.table
  · exact h.of_same he ho hd
  · exact h.tick

/-- A condition on the table that the Engine's own changes of it keep, and what goes on beside it. -/
theorem steady_of_table {P : State → Prop}
    (hsame : ∀ {s t : State}, t.entries = s.entries → t.order = s.order → t.due = s.due → P s → P t)
    (hbeat : ∀ {s t : State}, s.Beat t → P s → P t) : Run.Steady fun r => P r.st := by
  have same {r r' : Run} (hs : r.Same r' .table) (h : P r.st) : P r'.st := hsame hs.1 hs.2.1 hs.2.2 h
  exact ⟨⟨fun q => same (q.same .table), fun l => same (l.only.same .table (by decide)),
    fun m => same (m.only.same .table (by decide))⟩,
    fun r h => State.Beats.kept hbeat (r.st.await_beats _) h, fun r h => hsame (s := r.st) rfl rfl rfl h⟩

namespace TableListed

variable {r : Run} (h : TableListed r.st)
include h

theorem openEntry {i : Fin 32} (hi : r.st.entries.get i = none) (e : Entry) (limit : Nat) :
    TableListed (r.openEntry i e limit).st := by
  refine h.opened hi (r.openEntry_entries i e limit) (r.openEntry_order i e limit) ?_
  rw [r.openEntry_due]
  split
  · exact .inl rfl
  · exact .inr rfl

theorem markExpired {i : Fin 32} (hi : (r.st.entries.get i).isSome) (e : Entry) (cause : ExpiryCause) :
    TableListed (r.markExpired i e cause).st :=
  h.rewritten hi (by simp; rfl) (by simp) (.inl (by simp))

theorem freeEntry (i : Fin 32) : TableListed (r.freeEntry i).st := by
  cases hi : r.st.entries.get i with
  | none => rw [Run.freeEntry_of_free hi]; exact h
  | some e =>
    obtain ⟨he, ho, hd⟩ := Run.freeEntry_table hi
    exact h.freed he ho hd

theorem setEntry {i : Fin 32} (hi : (r.st.entries.get i).isSome) (e : Entry) :
    TableListed (r.setEntry i (some e)).st :=
  h.rewritten hi (by simp; rfl) (by simp) (.inr (by simp))

end TableListed

theorem tableListed_closed : Run.Closed fun r => TableListed r.st :=
  .of_single (steady_of_table (fun he ho hd h => h.of_same he ho hd) TableListed.beat)
    (fun _ _ e limit h hi _ => h.openEntry hi e limit) (fun _ _ e cause h hi => h.markExpired hi e cause)
    (fun _ i h => h.freeEntry i) fun _ _ e h hi _ => h.setEntry hi e

theorem tableStaysListed : KeptByStep TableListed :=
  keptByStep_of_closed .table (fun hs h => h.of_same hs.1 hs.2.1 hs.2.2) (fun _ _ _ _ _ h => h)
    (fun _ => resetMeetsWhatStepsKeep.2.2.2.2.1.1) TableListed.beat tableListed_closed

/-! ### The due marks -/

/-- The table is listed, and only entries in flight are due. -/
def TableDue (s : State) : Prop := TableListed s ∧ DueInFlight s

theorem DueInFlight.of_same {s t : State} (h : DueInFlight s) (he : t.entries = s.entries)
    (hd : t.due = s.due) : DueInFlight t := by
  unfold DueInFlight
  rw [he, hd]
  exact h

theorem Entry.inFlight_of_becomesDue {e : Entry} {now : Time} (h : e.becomesDue now = true) :
    e.inFlight = true := by
  unfold Entry.becomesDue at h
  unfold Entry.inFlight
  cases hs : e.state <;> simp_all

theorem DueInFlight.tick {s : State} (h : DueInFlight s) : DueInFlight s.tick := by
  rw [State.tick_eq]
  intro i hi
  rcases List.mem_append.1 hi with hi | hi
  · exact h i hi
  · obtain ⟨-, -, e, he, hd⟩ := State.mem_newlyDue.1 hi
    exact ⟨e, he, Entry.inFlight_of_becomesDue hd⟩

theorem DueInFlight.beat {s t : State} (b : s.Beat t) (h : DueInFlight s) : DueInFlight t := by
  obtain ⟨he, -, hd | rfl⟩ := b.table
  · exact h.of_same he hd
  · exact h.tick

/-- An entry in flight takes the place of whatever entry there was. -/
theorem DueInFlight.set {s t : State} (h : DueInFlight s) {i : Fin 32} {e : Entry} (hf : e.inFlight = true)
    (he : t.entries = s.entries.set i (some e)) (hd : t.due = s.due ++ [i] ∨ t.due = s.due) :
    DueInFlight t := by
  intro j hj
  rw [he, Table.get_set]
  by_cases hij : j = i
  · exact ⟨e, if_pos hij, hf⟩
  · rw [if_neg hij]
    refine h j ?_
    rcases hd with e | e <;> rw [e] at hj
    · simpa [hij] using hj
    · exact hj

/-- An entry loses its due mark and is replaced. -/
theorem DueInFlight.unmarked {s t : State} (h : DueInFlight s) (hn : s.due.Nodup) {i : Fin 32}
    {x : Option Entry} (he : t.entries = s.entries.set i x) (hd : t.due = s.due.erase i) :
    DueInFlight t := by
  intro j hj
  rw [hd, hn.mem_erase_iff] at hj
  rw [he, Table.get_set, if_neg hj.1]
  exact h j hj.2

theorem TableDue.of_same {s t : State} (h : TableDue s) (he : t.entries = s.entries)
    (ho : t.order = s.order) (hd : t.due = s.due) : TableDue t :=
  ⟨h.1.of_same he ho hd, h.2.of_same he hd⟩

theorem TableDue.beat {s t : State} (b : s.Beat t) (h : TableDue s) : TableDue t :=
  ⟨h.1.beat b, h.2.beat b⟩

namespace TableDue

variable {r : Run} (h : TableDue r.st)
include h

theorem openEntry {i : Fin 32} (hi : r.st.entries.get i = none) {e : Entry} (hf : e.inFlight = true)
    (limit : Nat) : TableDue (r.openEntry i e limit).st := by
  refine ⟨h.1.openEntry hi e limit, h.2.set (by exact hf) (r.openEntry_entries i e limit) ?_⟩
  rw [r.openEntry_due]
  split
  · exact .inl rfl
  · exact .inr rfl

theorem markExpired {i : Fin 32} (hi : (r.st.entries.get i).isSome) (e : Entry) (cause : ExpiryCause) :
    TableDue (r.markExpired i e cause).st :=
  ⟨h.1.markExpired hi e cause, h.2.unmarked h.1.2.1 (by simp; rfl) (by simp)⟩

theorem freeEntry (i : Fin 32) : TableDue (r.freeEntry i).st := by
  cases hi : r.st.entries.get i with
  | none => rw [Run.freeEntry_of_free hi]; exact h
  | some e =>
    obtain ⟨he, -, hd⟩ := Run.freeEntry_table hi
    exact ⟨h.1.freeEntry i, h.2.unmarked h.1.2.1 he hd⟩

theorem setEntry {i : Fin 32} (hi : (r.st.entries.get i).isSome) {e : Entry} (hf : e.inFlight = true) :
    TableDue (r.setEntry i (some e)).st :=
  ⟨h.1.setEntry hi e, h.2.set hf (by simp; rfl) (.inr (by simp))⟩

end TableDue

theorem tableDue_closed : Run.Closed fun r => TableDue r.st :=
  .of_single (steady_of_table (fun he ho hd h => h.of_same he ho hd) TableDue.beat)
    (fun _ _ _ limit h hi hf => h.openEntry hi hf limit) (fun _ _ e cause h hi => h.markExpired hi e cause)
    (fun _ i h => h.freeEntry i) fun _ _ _ h hi hf => h.setEntry hi hf

theorem dueStaysInFlight : KeptByStep TableDue :=
  keptByStep_of_closed .table (fun hs h => h.of_same hs.1 hs.2.1 hs.2.2) (fun _ _ _ _ _ h => h)
    (fun _ => ⟨resetMeetsWhatStepsKeep.2.2.2.2.1.1, resetMeetsWhatStepsKeep.2.2.2.2.1.2.1⟩) TableDue.beat
    tableDue_closed

end Sys2Proof.Machine
end

section
/-! PROOF. Pairs in flight stay linked (R85, R105): what a request makes of the table leaves or takes a pair
whole. -/

namespace Sys2Proof.Machine

open Sys2Proof.Claims

/-- An entry of a pair and the one that it names. -/
structure Entry.Pairs (i : Fin 32) (e : Entry) (j : Fin 32) (f : Entry) : Prop where
  names   : e.partner = some j
  named   : f.partner = some i
  kind    : f.kind = if e.kind = .place then .present else .place
  state   : f.state = e.state
  board   : f.board = e.board
  dest    : f.dest = e.dest
  hasDest : e.dest.isSome = true
  cup     : e.cup.isSome = true ↔ e.kind = .place

/-- What `PairsLinked` says of one entry. -/
def State.Linked (s : State) (i : Fin 32) (e : Entry) : Prop :=
  e.ring = e.kind.ring ∧
    (e.inFlight = true → e.kind.ofPair = true → ∃ j f, s.entries.get j = some f ∧ e.Pairs i j f)

theorem EntryKind.ofPair_iff {k : EntryKind} : k.ofPair = true ↔ k = .place ∨ k = .present := by
  cases k <;> simp [EntryKind.ofPair]

theorem pairsLinked_iff {s : State} :
    PairsLinked s ↔ ∀ i e, s.entries.get i = some e → s.Linked i e := by
  refine forall_congr' fun i => forall_congr' fun e => imp_congr_right fun _ => and_congr_right fun _ => ?_
  rw [EntryKind.ofPair_iff]
  refine imp_congr_right fun _ => imp_congr_right fun _ => ⟨?_, ?_⟩
  · rintro ⟨j, f, hp, hf, hn, hk, hs, hb, hd, hds, hc⟩
    exact ⟨j, f, hf, hp, hn, hk, hs, hb, hd, hds, hc⟩
  · rintro ⟨j, f, hf, hp, hn, hk, hs, hb, hd, hds, hc⟩
    exact ⟨j, f, hp, hf, hn, hk, hs, hb, hd, hds, hc⟩

namespace Entry.Pairs

variable {i j : Fin 32} {e f : Entry} (h : e.Pairs i j f)
include h

theorem ofPair : f.kind.ofPair = true := by
  rw [h.kind]
  split <;> rfl

theorem inFlight (hf : e.inFlight = true) : f.inFlight = true := by
  unfold Entry.inFlight at hf ⊢
  rw [h.state]
  exact hf

theorem kind_ne : f.kind ≠ e.kind := by
  rw [h.kind]
  cases e.kind <;> simp

theorem ring_ne (he : e.kind.ofPair = true) : f.kind.ring ≠ e.kind.ring := by
  rw [h.kind]
  rcases EntryKind.ofPair_iff.1 he with e' | e' <;> simp [e', EntryKind.ring]

end Entry.Pairs

/-- No entry of a pair in flight names one that is free, or none of a pair. -/
theorem State.not_named {s : State} {i : Fin 32} (hi : ∀ f, s.entries.get i = some f → f.inFlight = true → f.kind.ofPair = false)
    {k j : Fin 32} {e f : Entry} (hj : s.entries.get j = some f) (hf : e.inFlight = true)
    (hp : e.Pairs k j f) : j ≠ i := by
  rintro rfl
  have := hi f hj (hp.inFlight hf)
  rw [hp.ofPair] at this
  cases this

/-- The entries that name one of two that are linked are the two themselves. -/
theorem State.not_named_pair {s : State} {i j : Fin 32} {e f : Entry} (he : s.entries.get i = some e)
    (hf : s.entries.get j = some f) (hpair : e.Pairs i j f) {k l : Fin 32} {x y : Entry}
    (hk : k ∉ [i, j]) (hl : s.entries.get l = some y) (hxy : x.Pairs k l y) : l ∉ [i, j] := by
  intro hm
  simp only [List.mem_cons, List.not_mem_nil, or_false, not_or] at hm hk
  have hnamed := hxy.named
  rcases hm with rfl | rfl
  · rw [he] at hl; cases hl
    rw [hpair.names] at hnamed
    cases hnamed
    exact hk.2 rfl
  · rw [hf] at hl; cases hl
    rw [hpair.named] at hnamed
    cases hnamed
    exact hk.1 rfl

namespace PairsLinked

variable {s : State} (h : PairsLinked s)
include h

theorem ring {i : Fin 32} {e : Entry} (he : s.entries.get i = some e) : e.ring = e.kind.ring :=
  (pairsLinked_iff.1 h i e he).1

theorem partner {i : Fin 32} {e : Entry} (he : s.entries.get i = some e) (hf : e.inFlight = true)
    (hk : e.kind.ofPair = true) : ∃ j f, s.entries.get j = some f ∧ e.Pairs i j f :=
  (pairsLinked_iff.1 h i e he).2 hf hk

/-- A change of some entries keeps the pairs linked, if it reaches both entries of a pair or none, and those
that it leaves in flight are linked. -/
theorem update {t : State} (changed : List (Fin 32))
    (hkeep : ∀ k, k ∉ changed → t.entries.get k = s.entries.get k)
    (hwhole : ∀ k e j f, k ∉ changed → s.entries.get k = some e → s.entries.get j = some f →
      e.inFlight = true → e.kind.ofPair = true → e.Pairs k j f → j ∉ changed)
    (hnew : ∀ k ∈ changed, ∀ e, t.entries.get k = some e → t.Linked k e) : PairsLinked t := by
  refine pairsLinked_iff.2 fun k e he => ?_
  by_cases hk : k ∈ changed
  · exact hnew k hk e he
  · have hs := (hkeep k hk).symm.trans he
    refine ⟨h.ring hs, fun hf hp => ?_⟩
    obtain ⟨j, f, hj, hpair⟩ := h.partner hs hf hp
    exact ⟨j, f, (hkeep j (hwhole k e j f hk hs hj hf hp hpair)).trans hj, hpair⟩

end PairsLinked

theorem PairsLinked.of_entries {s t : State} (h : PairsLinked s) (he : t.entries = s.entries) :
    PairsLinked t := by
  unfold PairsLinked
  rw [he]
  exact h

theorem PairsLinked.beat {s t : State} (b : s.Beat t) (h : PairsLinked s) : PairsLinked t :=
  h.of_entries b.table.1

/-- An entry that is not in flight is linked if it stands for its ring. -/
theorem State.linked_of_ended (s : State) {i : Fin 32} {e : Entry} (hr : e.ring = e.kind.ring)
    (hf : e.inFlight = false) : s.Linked i e :=
  ⟨hr, fun hx => by simp [hf] at hx⟩

/-! ### Opening -/

namespace Run

theorem pairsLinked_openEntry {r : Run} (h : PairsLinked r.st) {i : Fin 32} {e : Entry}
    (hi : r.st.entries.get i = none) (hk : e.kind.ofPair = false) (hr : e.ring = e.kind.ring) (limit : Nat) :
    PairsLinked (r.openEntry i e limit).st := by
  refine h.update [i] (fun k hk => ?_) (fun k x j y _ _ hj hf _ hp => ?_) fun k hk' x hx => ?_
  · simp only [List.mem_singleton] at hk
    rw [openEntry_entries, Table.get_set_ne _ _ hk]
  · simp only [List.mem_singleton]
    exact State.not_named (by simp [hi]) hj hf hp
  · simp only [List.mem_singleton] at hk'
    subst hk'
    rw [openEntry_entries, Table.get_set_self] at hx
    cases hx
    exact ⟨hr, fun _ hp => by simp [hk] at hp⟩

theorem pairsLinked_openPair {r : Run} (h : PairsLinked r.st) {i j : Fin 32} {place present : Entry}
    (hij : i ≠ j) (hi : r.st.entries.get i = none) (hj : r.st.entries.get j = none)
    (hp : OpensPair i j place present) (limit : Nat) :
    PairsLinked ((r.openEntry i place limit).openEntry j present limit).st := by
  have hget (k : Fin 32) : ((r.openEntry i place limit).openEntry j present limit).st.entries.get k =
      if k = j then some { present with expiry := expiryTime present.admitted limit }
      else if k = i then some { place with expiry := expiryTime place.admitted limit }
      else r.st.entries.get k := by
    simp only [openEntry_entries, Table.get_set]
  refine h.update [i, j] (fun k hk => ?_) (fun k x l y _ _ hl hf _ hpair => ?_) fun k hk x hx => ?_
  · simp only [List.mem_cons, List.not_mem_nil, or_false, not_or] at hk
    rw [hget, if_neg hk.2, if_neg hk.1]
  · have hli := State.not_named (i := i) (by simp [hi]) hl hf hpair
    have hlj := State.not_named (i := j) (by simp [hj]) hl hf hpair
    simp [hli, hlj]
  · simp only [List.mem_cons, List.not_mem_nil, or_false] at hk
    rw [hget] at hx
    rcases hk with rfl | rfl
    · rw [if_neg hij, if_pos rfl] at hx
      cases hx
      refine ⟨by simp [hp.placeRing, hp.placeKind, EntryKind.ring], fun _ _ => ⟨j, _, (hget j).trans (if_pos rfl), ?_⟩⟩
      exact { names := hp.placePartner, named := hp.presentPartner
              kind := by simp [hp.placeKind, hp.presentKind]
              state := hp.presentState.trans hp.placeState.symm
              board := hp.board, dest := hp.dest, hasDest := hp.placeDest
              cup := by simp [hp.placeKind, hp.placeCup] }
    · rw [if_pos rfl] at hx
      cases hx
      refine ⟨by simp [hp.presentRing, hp.presentKind, EntryKind.ring], fun _ _ =>
        ⟨i, _, (hget i).trans (by rw [if_neg hij, if_pos rfl]), ?_⟩⟩
      exact { names := hp.presentPartner, named := hp.placePartner
              kind := by simp [hp.placeKind, hp.presentKind]
              state := hp.placeState.trans hp.presentState.symm
              board := hp.board.symm, dest := hp.dest.symm, hasDest := hp.dest ▸ hp.placeDest
              cup := by simp [hp.presentKind, hp.presentCup] }

/-! ### Expiry -/

/-- What an expiry makes of the entries: one that is not of a pair becomes EXPIRED alone, one of a pair with
the other (R111, R112). -/
theorem expire_entries {r : Run} (h : PairsLinked r.st) {i : Fin 32} {e : Entry}
    (he : r.st.entries.get i = some e) (hf : e.inFlight = true) (cause : ExpiryCause) :
    (e.kind.ofPair = false ∧
      (r.expire i cause).st.entries = r.st.entries.set i (some { e with state := .expired cause })) ∨
    ∃ j f, r.st.entries.get j = some f ∧ e.kind.ofPair = true ∧ e.Pairs i j f ∧
      (r.expire i cause).st.entries = (r.st.entries.set i (some { e with state := .expired cause })).set j
        (some { f with state := .expired cause }) := by
  rw [(expire_same_table he cause).1]
  unfold markWhole
  cases hk : e.kind.ofPair with
  | false => exact .inl ⟨rfl, by simp⟩
  | true =>
    obtain ⟨j, f, hj, hpair⟩ := h.partner he hf hk
    refine .inr ⟨j, f, hj, rfl, hpair, ?_⟩
    simp [State.partnerOf_eq hpair.names hj]

theorem pairsLinked_expire {r : Run} (h : PairsLinked r.st) {i : Fin 32} {e : Entry}
    (he : r.st.entries.get i = some e) (hf : e.inFlight = true) (cause : ExpiryCause) :
    PairsLinked (r.expire i cause).st := by
  have ended (k : Fin 32) {x : Entry} (hx : r.st.entries.get k = some x) :
      (r.expire i cause).st.Linked k { x with state := .expired cause } := by
    have hring := h.ring hx
    exact State.linked_of_ended _ hring rfl
  rcases expire_entries h he hf cause with ⟨hk, hset⟩ | ⟨j, f, hj, -, hpair, hset⟩
  · refine h.update [i] (fun k hk => ?_) (fun k x l y _ _ hl hx _ hp => ?_) fun k hk' x hx => ?_
    · simp only [List.mem_singleton] at hk
      rw [hset, Table.get_set_ne _ _ hk]
    · simp only [List.mem_singleton]
      exact State.not_named (by rw [he]; intro f e' _; cases e'; exact hk) hl hx hp
    · simp only [List.mem_singleton] at hk'
      subst hk'
      rw [hset, Table.get_set_self] at hx
      cases hx
      exact ended k he
  · refine h.update [i, j] (fun k hk => ?_) (fun k x l y hk _ hl _ _ hp =>
      State.not_named_pair he hj hpair hk hl hp) fun k hk x hx => ?_
    · simp only [List.mem_cons, List.not_mem_nil, or_false, not_or] at hk
      rw [hset, Table.get_set_ne _ _ hk.2, Table.get_set_ne _ _ hk.1]
    · rw [hset, Table.get_set, Table.get_set] at hx
      simp only [List.mem_cons, List.not_mem_nil, or_false] at hk
      split at hx
      · next e' => subst e'; cases hx; exact ended k hj
      · next e' =>
        obtain rfl := hk.resolve_right e'
        rw [if_pos rfl] at hx
        cases hx
        exact ended k he

/-- An expiry leaves the other entries of the ring: the other of a pair is of another ring (R77, R105). -/
theorem expire_same_ring {r : Run} (h : PairsLinked r.st) {i : Fin 32} {e : Entry}
    (he : r.st.entries.get i = some e) (hf : e.inFlight = true) (cause : ExpiryCause) {k : Fin 32} {x : Entry}
    (hk : k ≠ i) (hx : r.st.entries.get k = some x) (hr : x.ring = e.ring) :
    (r.expire i cause).st.entries.get k = some x := by
  rcases expire_entries h he hf cause with ⟨-, hset⟩ | ⟨j, f, hj, hp, hpair, hset⟩
  · rw [hset, Table.get_set_ne _ _ hk, hx]
  · have hkj : k ≠ j := by
      rintro rfl
      rw [hj] at hx
      cases hx
      refine hpair.ring_ne hp ?_
      rw [← h.ring hj, ← h.ring he, hr]
    rw [hset, Table.get_set_ne _ _ hkj, Table.get_set_ne _ _ hk, hx]

/-! ### Skips -/

/-- Entries of a ring, all in flight. -/
def FlyingOn (r : Run) (ring : CmdRing) (ids : List (Fin 32)) : Prop :=
  ∀ k ∈ ids, ∃ x, r.st.entries.get k = some x ∧ x.ring = ring ∧ x.inFlight = true

/-- A property that expiries keep is kept by a list of skips, and with it whatever else stands on the ring
(R120). -/
theorem foldl_expire {J : Run → Prop} (hpairs : ∀ r, J r → PairsLinked r.st)
    (hexpire : ∀ (r : Run) (i : Fin 32) (e : Entry) cause, J r → r.st.entries.get i = some e →
      e.inFlight = true → J (r.expire i cause))
    {ring : CmdRing} {ids : List (Fin 32)} (hn : ids.Nodup) {r : Run} (hr : J r) (hfly : FlyingOn r ring ids) :
    J (ids.foldl (fun r j => r.expire j .skipped) r) ∧
      ∀ k x, k ∉ ids → r.st.entries.get k = some x → x.ring = ring →
        (ids.foldl (fun r j => r.expire j .skipped) r).st.entries.get k = some x := by
  induction ids generalizing r with
  | nil => exact ⟨hr, fun k x _ hx _ => hx⟩
  | cons j ids ih =>
    obtain ⟨hj, hn⟩ := List.nodup_cons.1 hn
    obtain ⟨e, he, hring, hf⟩ := hfly j List.mem_cons_self
    have hstep {k : Fin 32} {x : Entry} (hk : k ≠ j) (hx : r.st.entries.get k = some x) (hx' : x.ring = ring) :
        (r.expire j .skipped).st.entries.get k = some x :=
      expire_same_ring (hpairs r hr) he hf .skipped hk hx (hx'.trans hring.symm)
    have hfly' : FlyingOn (r.expire j .skipped) ring ids := by
      intro k hk
      obtain ⟨x, hx, hx', hxf⟩ := hfly k (List.mem_cons_of_mem _ hk)
      exact ⟨x, hstep (fun e => hj (e ▸ hk)) hx hx', hx', hxf⟩
    obtain ⟨hJ, hkeep⟩ := ih hn (hexpire r j e .skipped hr he hf) hfly'
    refine ⟨hJ, fun k x hk hx hx' => ?_⟩
    rw [List.mem_cons, not_or] at hk
    exact hkeep k x hk.2 (hstep hk.1 hx hx') hx'

/-- The entries that a fitting report skips await their reports on its ring, and it is not among them
(R120). -/
theorem skipped_flyingOn (r : Run) (ring : CmdRing) (i : Fin 32) :
    FlyingOn r ring (r.st.skipped ring i) ∧ i ∉ r.st.skipped ring i := by
  constructor
  · intro k hk
    have := (List.mem_filter.1 hk).2
    cases hx : r.st.entries.get k with
    | none => simp [hx] at this
    | some x =>
      simp only [hx, Option.any_some, Bool.and_eq_true, beq_iff_eq] at this
      exact ⟨x, rfl, this.1, Entry.inFlight_of_awaits this.2⟩
  · intro hi
    have := List.mem_takeWhile_imp (List.mem_filter.1 hi).1
    simp at this

/-- A property that expiries keep is kept by the skips of a fitting report, which leave its own entry. -/
theorem skip_kept {J : Run → Prop} (hpairs : ∀ r, J r → PairsLinked r.st)
    (hexpire : ∀ (r : Run) (i : Fin 32) (e : Entry) cause, J r → r.st.entries.get i = some e →
      e.inFlight = true → J (r.expire i cause))
    {r : Run} (hr : J r) (hn : r.st.order.Nodup) {ring : CmdRing} {i : Fin 32} {e : Entry}
    (hfits : Fits r ring i e) : J (r.skip ring i) ∧ (r.skip ring i).st.entries.get i = some e := by
  obtain ⟨hfly, hi⟩ := skipped_flyingOn r ring i
  have hnodup : (r.st.skipped ring i).Nodup := (hn.sublist (List.takeWhile_sublist _)).filter _
  obtain ⟨hJ, hkeep⟩ := foldl_expire hpairs hexpire hnodup hr hfly
  exact ⟨hJ, hkeep i e hi hfits.entry hfits.ring⟩

/-! ### Removal -/

/-- The entries that are removed become free, and the others stand (R121). -/
theorem removeEntries_get (r : Run) (ids : List (Fin 32)) (k : Fin 32) :
    (r.removeEntries ids).st.entries.get k = if k ∈ ids then none else r.st.entries.get k := by
  have hfold : ∀ (l : List (Fin 32)) (r : Run),
      (l.foldl freeEntry r).st.entries.get k = if k ∈ l then none else r.st.entries.get k := by
    intro l
    induction l with
    | nil => simp
    | cons i l ih =>
      intro r
      rw [List.foldl_cons, ih]
      simp only [List.mem_cons]
      cases hi : r.st.entries.get i with
      | none =>
        rw [freeEntry_of_free hi]
        by_cases hk : k = i
        · subst hk; simp [hi]
        · simp [hk]
      | some e =>
        rw [(freeEntry_table hi).1, Table.get_set]
        by_cases hk : k = i <;> simp [hk]
  have hsame := ((Quiet.foldl (fun r n => r.reclaim_quiet n) (r.st.claimedBy ids) (ids.foldl freeEntry r)).same
    .table).1
  unfold removeEntries
  simp only
  rw [hsame, hfold]

/-- Entries are removed with the whole of their pairs. -/
theorem pairsLinked_remove {r : Run} (h : PairsLinked r.st) {ids : List (Fin 32)}
    (hwhole : ∀ k e j f, k ∉ ids → r.st.entries.get k = some e → r.st.entries.get j = some f →
      e.inFlight = true → e.kind.ofPair = true → e.Pairs k j f → j ∉ ids) :
    PairsLinked (r.removeEntries ids).st := by
  refine h.update ids (fun k hk => by rw [removeEntries_get, if_neg hk]) hwhole fun k hk x hx => ?_
  rw [removeEntries_get, if_pos hk] at hx
  cases hx

theorem State.mem_entriesOf {s : State} {b : BoardRef} {i : Fin 32} :
    i ∈ s.entriesOf b ↔ i ∈ s.order ∧ ∃ e, s.entries.get i = some e ∧ e.board = b := by
  simp [State.entriesOf, Option.any_eq_true]

/-- What a request may remove takes pairs whole (R80, R121, R164, R168). -/
theorem pairsLinked_removable {r : Run} (h : PairsLinked r.st) (hlist : TableListed r.st)
    {ids : List (Fin 32)} (hids : r.st.Removable ids) : PairsLinked (r.removeEntries ids).st := by
  refine pairsLinked_remove h fun k e j f hk he hj hf hp hpair => ?_
  have listed {i : Fin 32} {x : Entry} (hx : r.st.entries.get i = some x) : i ∈ r.st.order :=
    (hlist.2.2.1 i).2 (by simp [hx])
  rcases hids with hsingle | ⟨b, rfl⟩ | rfl
  · intro hm
    have := hsingle j hm f hj (hpair.inFlight hf)
    rw [hpair.ofPair] at this
    cases this
  · intro hm
    obtain ⟨-, f', hf', hb⟩ := State.mem_entriesOf.1 hm
    rw [hj] at hf'
    cases hf'
    exact hk (State.mem_entriesOf.2 ⟨listed he, e, he, hpair.board.symm.trans hb⟩)
  · exact absurd (listed he) hk

/-! ### The halves of a pair -/

/-- The first report of a pair leaves it linked, both entries HALF (R125). -/
theorem pairsLinked_storeReport {r : Run} (h : PairsLinked r.st) {i : Fin 32} {e : Entry}
    (he : r.st.entries.get i = some e) (hf : e.inFlight = true) (hk : e.kind.ofPair = true)
    (payload : StoredPayload) (slot : Nat) : PairsLinked (r.storeReport i e payload slot).st := by
  obtain ⟨j, f, hj, hpair⟩ := h.partner he hf hk
  obtain ⟨i', e', hi', hback⟩ := h.partner hj (hpair.inFlight hf) hpair.ofPair
  have hi : i' = i := by
    have := hback.names.symm.trans hpair.named
    cases this
    rfl
  subst hi
  rw [he] at hi'
  cases hi'
  have hij : i' ≠ j := by
    rintro rfl
    rw [he] at hj
    cases hj
    exact hpair.kind_ne rfl
  let e₁ : Entry := { e with state := .half, stored := some ⟨payload, slot, r.st.time⟩ }
  let f₁ : Entry := { f with state := .half }
  have hset : (r.storeReport i' e payload slot).st.entries =
      (r.st.entries.set i' (some e₁)).set j (some f₁) := by
    simp [storeReport, State.partnerOf_eq hpair.names hj, e₁, f₁]
  have hgi : (r.storeReport i' e payload slot).st.entries.get i' = some e₁ := by
    rw [hset, Table.get_set_ne _ _ hij, Table.get_set_self]
  have hgj : (r.storeReport i' e payload slot).st.entries.get j = some f₁ := by
    rw [hset, Table.get_set_self]
  refine h.update [i', j] (fun k hk => ?_) (fun k x l y hk _ hl _ _ hp =>
    State.not_named_pair he hj hpair hk hl hp) fun k hk x hx => ?_
  · simp only [List.mem_cons, List.not_mem_nil, or_false, not_or] at hk
    rw [hset, Table.get_set_ne _ _ hk.2, Table.get_set_ne _ _ hk.1]
  · simp only [List.mem_cons, List.not_mem_nil, or_false] at hk
    rcases hk with rfl | rfl
    · rw [hgi] at hx
      cases hx
      have hring := h.ring he
      exact ⟨hring, fun _ _ => ⟨j, f₁, hgj, { hpair with state := rfl }⟩⟩
    · rw [hgj] at hx
      cases hx
      have hring := h.ring hj
      exact ⟨hring, fun _ _ => ⟨i', e₁, hgi, { hback with state := rfl }⟩⟩

/-! ### Every request keeps the table in order -/

theorem tableInOrder_iff {s : State} : TableInOrder s ↔ TableDue s ∧ PairsLinked s :=
  and_assoc.symm

theorem tableInOrder_expire {r : Run} (h : TableInOrder r.st) {i : Fin 32} {e : Entry}
    (he : r.st.entries.get i = some e) (hf : e.inFlight = true) (cause : ExpiryCause) :
    TableInOrder (r.expire i cause).st := by
  obtain ⟨htable, hpairs⟩ := tableInOrder_iff.1 h
  exact tableInOrder_iff.2 ⟨tableDue_closed.expire cause htable (.inr ⟨e, he, hf⟩),
    pairsLinked_expire hpairs he hf cause⟩

theorem TableInOrder.skip {r : Run} (h : TableInOrder r.st) {ring : CmdRing} {i : Fin 32} {e : Entry}
    (hfits : Fits r ring i e) :
    TableInOrder (r.skip ring i).st ∧ (r.skip ring i).st.entries.get i = some e :=
  skip_kept (J := fun r => TableInOrder r.st) (fun _ h => h.2.2)
    (fun _ _ _ cause h he hf => tableInOrder_expire h he hf cause) h h.1.1 hfits

theorem tableInOrder_steady : Steady fun r => TableInOrder r.st :=
  steady_of_table (fun he ho hd h =>
      ⟨h.1.of_same he ho hd, h.2.1.of_same he hd, h.2.2.of_entries he⟩)
    fun b h => ⟨h.1.beat b, h.2.1.beat b, h.2.2.beat b⟩

theorem tableInOrder_closed : Closed fun r => TableInOrder r.st := by
  refine { toSteady := tableInOrder_steady, opens := ?_, opensPair := ?_, expire := ?_, remove := ?_, skip := ?_,
           store := ?_, removePair := ?_ }
  · intro r i e limit h hi hs hk hring
    obtain ⟨htable, hpairs⟩ := tableInOrder_iff.1 h
    exact tableInOrder_iff.2 ⟨tableDue_closed.opens limit htable hi hs hk hring,
      pairsLinked_openEntry hpairs hi hk hring limit⟩
  · intro r i j place present limit h hij hi hj hp
    obtain ⟨htable, hpairs⟩ := tableInOrder_iff.1 h
    exact tableInOrder_iff.2 ⟨tableDue_closed.opensPair limit htable hij hi hj hp,
      pairsLinked_openPair hpairs hij hi hj hp limit⟩
  · intro r i cause h hi
    obtain ⟨e, he, hf⟩ := hi.elim (h.2.1 i) id
    exact tableInOrder_expire h he hf cause
  · intro r ids h hids
    obtain ⟨htable, hpairs⟩ := tableInOrder_iff.1 h
    exact tableInOrder_iff.2 ⟨tableDue_closed.remove htable hids,
      pairsLinked_removable hpairs htable.1 hids⟩
  · exact fun h hfits => (TableInOrder.skip h hfits).1
  · intro r i e ring payload slot h hfits hk ho
    obtain ⟨hs, he⟩ := TableInOrder.skip h hfits
    exact tableInOrder_iff.2 ⟨tableDue_closed.store payload slot (tableInOrder_iff.1 h).1 hfits hk ho,
      pairsLinked_storeReport hs.2.2 he hfits.inFlight hk payload slot⟩
  · intro r r' i j e f ring h hfits hk hpart hsame h'
    obtain ⟨hs, he⟩ := TableInOrder.skip h hfits
    obtain ⟨hnames, hj⟩ := State.partnerOf_some hpart
    obtain ⟨j', f', hj', hpair⟩ := hs.2.2.partner he hfits.inFlight hk
    obtain rfl : j' = j := by
      have := hpair.names.symm.trans hnames
      cases this
      rfl
    rw [hj] at hj'
    cases hj'
    rw [← hsame.1] at he hj
    obtain ⟨htable, hpairs⟩ := tableInOrder_iff.1 h'
    refine tableInOrder_iff.2 ⟨tableDue_closed.removePair (tableInOrder_iff.1 h).1 hfits hk hpart hsame htable, ?_⟩
    exact pairsLinked_remove hpairs fun k x l y hk _ hl _ _ hp => State.not_named_pair he hj hpair hk hl hp

end Run

theorem tableStaysInOrder : KeptByStep TableInOrder :=
  keptByStep_of_closed .table
    (fun hs h => ⟨h.1.of_same hs.1 hs.2.1 hs.2.2, h.2.1.of_same hs.1 hs.2.2, h.2.2.of_entries hs.1⟩)
    (fun _ _ _ _ _ h => h) (fun _ => resetMeetsWhatStepsKeep.2.2.2.2.1)
    (fun b h => ⟨h.1.beat b, h.2.1.beat b, h.2.2.beat b⟩) Run.tableInOrder_closed

/-- Settles O57. -/
theorem listsStayListed : Obligations.ListsStayListed :=
  ⟨tableStaysListed, dueStaysInFlight, tableStaysInOrder, recencyStaysListed⟩

end Sys2Proof.Machine
end

section
/-! PROOF. A tag has one cycle in the part at most, in one place (R1, R2). -/

namespace Sys2Proof.Machine

open Sys2Proof.Claims

/-! ### The places of a tag -/

/-- The Engine has ended a tag's request but for its images. -/
def State.finishes (s : State) (tag : Tag) : Bool :=
  match s.engine with
  | .finishing w => w.tag == tag
  | .idle => false
  | .serving _ => false

/-- Some refusal of the Classifier waits for its images under a tag. -/
def State.awaits (s : State) (tag : Tag) : Bool := s.waits.any fun w => w.tag == tag

theorem State.placesOf_eq (s : State) (tag : Tag) :
    s.placesOf tag = [(s.pass.get tag).isSome, (s.requests.get tag).isSome, s.awaits tag, s.finishes tag] :=
  rfl

theorem State.awaits_iff {s : State} {tag : Tag} : s.awaits tag = true ↔ tag ∈ s.waits.map fun w => w.tag := by
  simp [State.awaits]

/-- What `OneCyclePerTag` says of one tag. -/
def State.OneCycle (s : State) (tag : Tag) : Prop :=
  (s.placesOf tag).count true ≤ 1 ∧ (true ∈ s.placesOf tag → s.masters.get tag = .waiting)

theorem oneCyclePerTag_iff {s : State} :
    OneCyclePerTag s ↔ (s.waits.map fun w => w.tag).Nodup ∧ ∀ tag, s.OneCycle tag := Iff.rfl

theorem OneCyclePerTag.tag {s : State} (h : OneCyclePerTag s) (tag : Tag) : s.OneCycle tag := h.2 tag

/-- A tag in no place has no cycle. -/
theorem State.oneCycle_of_nowhere {s : State} {tag : Tag} (hp : s.pass.get tag = none)
    (hr : s.requests.get tag = none) (hw : s.awaits tag = false) (he : s.finishes tag = false) :
    s.OneCycle tag := by
  simp [State.OneCycle, State.placesOf_eq, hp, hr, hw, he]

/-- A tag in one place, whose master waits. -/
theorem State.oneCycle_of_place {s : State} {tag : Tag}
    (h : (s.requests.get tag = none ∧ s.awaits tag = false ∧ s.finishes tag = false) ∨
      (s.pass.get tag = none ∧ s.awaits tag = false ∧ s.finishes tag = false) ∨
      (s.pass.get tag = none ∧ s.requests.get tag = none ∧ s.finishes tag = false) ∨
      s.pass.get tag = none ∧ s.requests.get tag = none ∧ s.awaits tag = false)
    (hm : s.masters.get tag = .waiting) : s.OneCycle tag := by
  refine ⟨?_, fun _ => hm⟩
  rw [State.placesOf_eq]
  have one : ∀ b : Bool, (if b = true then 1 else 0) ≤ 1 := by decide
  rcases h with ⟨h₁, h₂, h₃⟩ | ⟨h₁, h₂, h₃⟩ | ⟨h₁, h₂, h₃⟩ | ⟨h₁, h₂, h₃⟩ <;>
    simpa [h₁, h₂, h₃, List.count_cons] using one _

/-- Fewer marks are no more to count. -/
theorem count_true_mono {l l' : List Bool} (h : List.Forall₂ (fun a b => a = true → b = true) l l') :
    l.count true ≤ l'.count true ∧ (true ∈ l → true ∈ l') := by
  induction h with
  | nil => exact ⟨le_rfl, id⟩
  | @cons a b l l' hab _ ih =>
    cases a with
    | false => exact ⟨by simpa using ih.1.trans (List.count_le_count_cons), fun hm => by simp at hm; simp [ih.2 hm]⟩
    | true => rw [hab rfl]; exact ⟨by simpa using ih.1, fun _ => by simp⟩

/-- A tag whose places have not grown, and whose master is as it was. -/
theorem State.OneCycle.mono {s t : State} {tag : Tag} (h : s.OneCycle tag)
    (hp : (t.pass.get tag).isSome = true → (s.pass.get tag).isSome = true)
    (hr : (t.requests.get tag).isSome = true → (s.requests.get tag).isSome = true)
    (hw : t.awaits tag = true → s.awaits tag = true) (he : t.finishes tag = true → s.finishes tag = true)
    (hm : t.masters.get tag = s.masters.get tag) : t.OneCycle tag := by
  obtain ⟨hcount, hmem⟩ := count_true_mono (.cons hp (.cons hr (.cons hw (.cons he .nil))))
  exact ⟨hcount.trans h.1, fun hx => hm.trans (h.2 (hmem hx))⟩

/-- A tag whose master does not wait is in no place. -/
theorem State.OneCycle.nowhere {s : State} {tag : Tag} (h : s.OneCycle tag)
    (hm : s.masters.get tag ≠ .waiting) :
    s.pass.get tag = none ∧ s.requests.get tag = none ∧ s.awaits tag = false ∧ s.finishes tag = false := by
  have hno : true ∉ s.placesOf tag := fun hx => hm (h.2 hx)
  simpa [State.placesOf_eq] using hno

/-- Of four marks of which one at most is set, a set one stands alone. -/
theorem one_mark : ∀ a b c d : Bool, [a, b, c, d].count true ≤ 1 →
    (a = true → b = false ∧ c = false ∧ d = false) ∧ (b = true → a = false ∧ c = false ∧ d = false) ∧
      (c = true → a = false ∧ b = false ∧ d = false) ∧ (d = true → a = false ∧ b = false ∧ c = false) := by
  decide

namespace State.OneCycle

variable {s : State} {tag : Tag} (h : s.OneCycle tag)
include h

theorem marks : [(s.pass.get tag).isSome, (s.requests.get tag).isSome, s.awaits tag,
    s.finishes tag].count true ≤ 1 := h.1

/-- A tag at the pass-through source is in no other place. -/
theorem of_pass (hp : (s.pass.get tag).isSome = true) :
    s.requests.get tag = none ∧ s.awaits tag = false ∧ s.finishes tag = false := by
  simpa using (one_mark _ _ _ _ h.marks).1 hp

/-- A tag at the arbiter is in no other place, and its master waits. -/
theorem of_request (hr : (s.requests.get tag).isSome = true) :
    s.pass.get tag = none ∧ s.awaits tag = false ∧ s.finishes tag = false ∧ s.masters.get tag = .waiting := by
  have hwait := h.2 (by simp [State.placesOf_eq, hr])
  simpa [hwait] using (one_mark _ _ _ _ h.marks).2.1 hr

/-- A tag whose refusal waits for images is in no other place. -/
theorem of_waits (hw : s.awaits tag = true) :
    s.pass.get tag = none ∧ s.requests.get tag = none ∧ s.finishes tag = false := by
  simpa using (one_mark _ _ _ _ h.marks).2.2.1 hw

/-- A tag whose request the Engine has ended is in no other place. -/
theorem of_finishes (he : s.finishes tag = true) :
    s.pass.get tag = none ∧ s.requests.get tag = none ∧ s.awaits tag = false := by
  simpa using (one_mark _ _ _ _ h.marks).2.2.2 he

end State.OneCycle

/-! ### The small steps -/

/-- A change of one tag's places and master leaves each tag one cycle, if it does so for that tag. -/
theorem OneCyclePerTag.update {s t : State} (h : OneCyclePerTag s) (tag : Tag)
    (hwaits : (t.waits.map fun w => w.tag).Nodup) (htag : t.OneCycle tag)
    (hothers : ∀ x, x ≠ tag → t.pass.get x = s.pass.get x ∧ t.requests.get x = s.requests.get x ∧
      t.awaits x = s.awaits x ∧ t.finishes x = s.finishes x ∧ t.masters.get x = s.masters.get x) :
    OneCyclePerTag t := by
  refine ⟨hwaits, fun x => ?_⟩
  by_cases hx : x = tag
  · exact hx ▸ htag
  · obtain ⟨hp, hr, hw, he, hm⟩ := hothers x hx
    exact (h.tag x).mono (by rw [hp]; exact id) (by rw [hr]; exact id) (by rw [hw]; exact id)
      (by rw [he]; exact id) hm

/-- A state with the same cycles under way. -/
theorem OneCyclePerTag.of_same {s t : State} (h : OneCyclePerTag s) (hm : t.masters = s.masters)
    (hw : t.waits = s.waits) (hp : t.pass = s.pass) (hr : t.requests = s.requests)
    (he : ∀ tag, t.finishes tag = true → s.finishes tag = true) : OneCyclePerTag t := by
  refine ⟨hw ▸ h.1, fun tag => (h.tag tag).mono (by rw [hp]; exact id) (by rw [hr]; exact id) ?_ (he tag)
    (by rw [hm])⟩
  rw [State.awaits, hw]
  exact id

/-- What waits is acknowledged: each tag takes its own answer, and the other masters stand. -/
theorem foldl_acknowledge_masters (l : List Wait) (s : State) (hn : (l.map fun w => w.tag).Nodup) :
    (∀ w ∈ l, (l.foldl (fun s w => s.acknowledge w.tag w.ack none) s).masters.get w.tag =
      .answered w.ack none) ∧
    ∀ tag, tag ∉ l.map (fun w => w.tag) →
      (l.foldl (fun s w => s.acknowledge w.tag w.ack none) s).masters.get tag = s.masters.get tag := by
  induction l generalizing s with
  | nil => exact ⟨fun w hw => (nomatch hw), fun _ _ => rfl⟩
  | cons x l ih =>
    obtain ⟨hx, hn⟩ := List.nodup_cons.1 hn
    obtain ⟨hin, hout⟩ := ih (s.acknowledge x.tag x.ack none) hn
    refine ⟨fun w hw => ?_, fun tag ht => ?_⟩
    · rcases List.mem_cons.1 hw with rfl | hw
      · exact (hout _ hx).trans (Table.get_set_self _ _ _)
      · exact hin w hw
    · rw [List.map_cons, List.mem_cons, not_or] at ht
      exact (hout tag ht.2).trans (Table.get_set_ne _ _ ht.1)

/-- The waits that an image write completes. -/
def State.completed (s : State) (id : ImageId) : List Wait :=
  (s.waits.map fun w => w.without id).filter fun w => w.images.isEmpty

theorem State.map_without_tag (s : State) (id : ImageId) :
    (s.waits.map fun w => w.without id).map (fun w => w.tag) = s.waits.map fun w => w.tag := by
  rw [List.map_map]; rfl

theorem State.mem_completed {s : State} {id : ImageId} {x : Wait} :
    x ∈ s.completed id ↔ ∃ w ∈ s.waits, w.images.erase id = [] ∧ x = w.without id := by
  simp only [State.completed, List.mem_filter, List.mem_map, List.isEmpty_iff]
  constructor
  · rintro ⟨⟨w, hw, rfl⟩, he⟩
    exact ⟨w, hw, he, rfl⟩
  · rintro ⟨w, hw, he, rfl⟩
    exact ⟨⟨w, hw, rfl⟩, he⟩

/-- What an image write does to the masters of the refusals that wait (R183). -/
theorem State.completeWaits_masters {s : State} (h : (s.waits.map fun w => w.tag).Nodup) (id : ImageId) :
    (∀ w ∈ s.waits, w.images.erase id = [] → (s.completeWaits id).masters.get w.tag = .answered w.ack none) ∧
      ∀ tag, (∀ w ∈ s.waits, w.images.erase id = [] → w.tag ≠ tag) →
        (s.completeWaits id).masters.get tag = s.masters.get tag := by
  have hn : ((s.completed id).map fun w => w.tag).Nodup := by
    refine List.Nodup.sublist (List.Sublist.map _ List.filter_sublist) ?_
    rw [State.map_without_tag]
    exact h
  obtain ⟨hin, hout⟩ := foldl_acknowledge_masters (s.completed id)
    { s with waits := (s.waits.map fun w => w.without id).filter fun w => !w.images.isEmpty } hn
  refine ⟨fun w hw he => hin (w.without id) (State.mem_completed.2 ⟨w, hw, he, rfl⟩), fun tag ht => hout tag fun hm => ?_⟩
  obtain ⟨x, hx, rfl⟩ := List.mem_map.1 hm
  obtain ⟨w, hw, he, rfl⟩ := State.mem_completed.1 hx
  exact ht w hw he rfl

theorem OneCyclePerTag.waits {s : State} (h : OneCyclePerTag s) (id : ImageId) :
    OneCyclePerTag (s.completeWaits id) := by
  have hn := h.1
  have hone := h.tag
  obtain ⟨hin, hout⟩ := State.completeWaits_masters hn id
  have hwaits : (s.completeWaits id).waits =
      (s.waits.map fun w => w.without id).filter fun w => !w.images.isEmpty := by
    rw [State.completeWaits_eq]
  have hsub : ((s.completeWaits id).waits.map fun w => w.tag).Sublist (s.waits.map fun w => w.tag) := by
    rw [hwaits, ← s.map_without_tag id]
    exact List.Sublist.map _ List.filter_sublist
  have hpass : (s.completeWaits id).pass = s.pass := by rw [State.completeWaits_eq]
  have hreq : (s.completeWaits id).requests = s.requests := by rw [State.completeWaits_eq]
  have hfin (tag : Tag) : (s.completeWaits id).finishes tag = s.finishes tag := by
    rw [State.completeWaits_eq]; rfl
  refine ⟨hn.sublist hsub, fun tag => ?_⟩
  by_cases hdone : ∃ w ∈ s.waits, w.images.erase id = [] ∧ w.tag = tag
  · obtain ⟨w, hw, he, rfl⟩ := hdone
    obtain ⟨hp, hr, hf⟩ := (hone w.tag).of_waits (State.awaits_iff.2 (List.mem_map_of_mem hw))
    refine State.oneCycle_of_nowhere (hpass ▸ hp) (hreq ▸ hr) ?_ ((hfin _).trans hf)
    refine Bool.eq_false_iff.2 fun ha => ?_
    obtain ⟨x, hx, htag⟩ := List.mem_map.1 (State.awaits_iff.1 ha)
    rw [hwaits, List.mem_filter, List.mem_map] at hx
    obtain ⟨⟨y, hy, rfl⟩, hleft⟩ := hx
    obtain rfl : y = w := List.inj_on_of_nodup_map hn hy hw htag
    simp [Wait.without, he] at hleft
  · refine (hone tag).mono (by rw [hpass]; exact fun h => h) (by rw [hreq]; exact fun h => h) (fun ha => ?_)
      (by rw [hfin]; exact fun h => h) (hout tag fun w hw he ht => hdone ⟨w, hw, he, ht⟩)
    exact State.awaits_iff.2 (hsub.subset (State.awaits_iff.1 ha))

theorem State.takeNext_finishes (s : State) (tag : Tag) (h : s.takeNext.finishes tag = true) :
    s.finishes tag = true := by
  unfold State.takeNext at h
  split at h
  · split at h
    · cases h
    · exact h
  · exact h
  · exact h

theorem OneCyclePerTag.takeNext {s : State} (h : OneCyclePerTag s) : OneCyclePerTag s.takeNext := by
  refine h.of_same ?_ ?_ ?_ ?_ s.takeNext_finishes <;> rw [State.takeNext_eq]

/-- The Engine's request is acknowledged, and the Engine is idle. -/
theorem OneCyclePerTag.acknowledged {s : State} (h : OneCyclePerTag s) {tag : Tag} (a : Ack)
    (hp : s.pass.get tag = none) (hw : s.awaits tag = false) :
    OneCyclePerTag { s.acknowledge tag a none with requests := s.requests.set tag none, engine := .idle } := by
  refine ⟨h.1, fun x => ?_⟩
  by_cases hx : x = tag
  · subst hx
    exact State.oneCycle_of_nowhere hp (Table.get_set_self _ _ _) hw rfl
  · refine (h.tag x).mono id ?_ id (fun hf => nomatch hf) (Table.get_set_ne _ _ hx)
    show ((s.requests.set tag none).get x).isSome = true → _
    rw [Table.get_set_ne _ _ hx]
    exact id

theorem OneCyclePerTag.engine {s : State} (h : OneCyclePerTag s) (id : ImageId) :
    OneCyclePerTag (s.completeEngine id) := by
  unfold State.completeEngine
  split
  · exact h
  · exact h
  · next w hw =>
    simp only
    split
    · obtain ⟨hp, hr, ha⟩ := (h.tag w.tag).of_finishes (by simp [State.finishes, hw])
      have hreq : s.requests.set w.tag none = s.requests := by rw [← hr, Table.set_get_self]
      have := (h.acknowledged w.ack hp ha).takeNext
      rwa [hreq] at this
    · exact h.of_same rfl rfl rfl rfl fun tag hf => by simpa [State.finishes, hw, Wait.without] using hf

theorem OneCyclePerTag.beat {s t : State} (b : s.Beat t) (h : OneCyclePerTag s) : OneCyclePerTag t := by
  cases b with
  | aside e =>
    rw [State.eq_of_muted e]
    exact h.of_same rfl rfl rfl rfl fun _ => id
  | tick =>
    rw [State.tick_eq]
    exact h.of_same rfl rfl rfl rfl fun _ => id
  | takeNext => exact h.takeNext
  | answer tag a d hm =>
    obtain ⟨hp, hr, hw, he⟩ := (h.tag tag).nowhere hm
    exact h.update tag h.1 (State.oneCycle_of_nowhere hp hr hw he)
      fun x hx => ⟨rfl, rfl, rfl, rfl, Table.get_set_ne _ _ hx⟩
  | forward c hm =>
    obtain ⟨-, hr, hw, he⟩ := (h.tag c.tag).nowhere hm
    refine h.update c.tag h.1 ?_ fun x hx =>
      ⟨Table.get_set_ne _ _ hx, rfl, rfl, rfl, Table.get_set_ne _ _ hx⟩
    exact State.oneCycle_of_place (.inl ⟨hr, hw, he⟩) (Table.get_set_self _ _ _)
  | hold tag q hm =>
    obtain ⟨hp, -, hw, he⟩ := (h.tag tag).nowhere hm
    refine h.update tag h.1 ?_ fun x hx =>
      ⟨rfl, Table.get_set_ne _ _ hx, rfl, rfl, Table.get_set_ne _ _ hx⟩
    exact State.oneCycle_of_place (.inr (.inl ⟨hp, hw, he⟩)) (Table.get_set_self _ _ _)
  | refuse w hm =>
    obtain ⟨hp, hr, hw, he⟩ := (h.tag w.tag).nowhere hm
    have hwaits : ((s.waits ++ [w]).map fun w => w.tag).Nodup := by
      rw [List.map_append, List.nodup_append]
      refine ⟨h.1, by simp, fun x hx y hy e => ?_⟩
      simp only [List.map_cons, List.map_nil, List.mem_singleton] at hy
      rw [← hy, ← e, State.awaits_iff.2 hx] at hw
      cases hw
    refine h.update w.tag hwaits ?_ fun x hx => ⟨rfl, rfl, ?_, rfl, Table.get_set_ne _ _ hx⟩
    · exact State.oneCycle_of_place (.inr (.inr (.inl ⟨hp, hr, he⟩))) (Table.get_set_self _ _ _)
    · simp [State.awaits, Ne.symm hx]
  | passed tag a d hp =>
    obtain ⟨hr, hw, he⟩ := (h.tag tag).of_pass hp
    exact h.update tag h.1 (State.oneCycle_of_nowhere (Table.get_set_self _ _ _) hr hw he)
      fun x hx => ⟨Table.get_set_ne _ _ hx, rfl, rfl, rfl, Table.get_set_ne _ _ hx⟩
  | waits id => exact h.waits id
  | engine id => exact h.engine id
  | job w jobs _ => exact h.of_same rfl rfl rfl rfl fun _ => id
  | types n ts _ => cases n <;> exact h.of_same rfl rfl rfl rfl fun _ => id
  | mark => exact h.of_same rfl rfl rfl rfl fun _ => id
  | drop => exact h.of_same rfl rfl rfl rfl fun _ => id

/-! ### A request of the Engine -/

/-- The Engine serves a position, each tag has one cycle, and a tag's cycle that it serves is at the arbiter. -/
structure OneServed (p : Fin 18) (s : State) : Prop where
  once   : OneCyclePerTag s
  serves : s.engine = .serving p
  held   : ∀ tag, asFin 16 p.val = some tag → (s.requests.get tag).isSome = true

/-- What goes on beside the Engine takes no request from the arbiter. -/
theorem State.Beat.requests {s t : State} (b : s.Beat t) (tag : Tag) (h : (s.requests.get tag).isSome = true) :
    (t.requests.get tag).isSome = true := by
  cases b with
  | aside e => rw [State.eq_of_muted e]; exact h
  | tick => rw [State.tick_eq]; exact h
  | takeNext => rw [State.takeNext_eq]; exact h
  | waits id => rw [State.completeWaits_eq]; exact h
  | engine id => rw [State.completeEngine_eq]; exact h
  | types n => cases n <;> exact h
  | hold x q hm =>
    show ((s.requests.set x (some q)).get tag).isSome = true
    rw [Table.get_set]
    split
    · rfl
    · exact h
  | _ => exact h

/-- What goes on beside the Engine leaves it what it serves. -/
theorem State.Beat.serving {s t : State} (b : s.Beat t) {p : Fin 18} (h : s.engine = .serving p) :
    t.engine = .serving p := by
  cases b with
  | aside e => rw [State.eq_of_muted e]; exact h
  | tick => rw [State.tick_eq]; exact h
  | takeNext => simp [State.takeNext, h]
  | waits id => rw [State.completeWaits_eq]; exact h
  | engine id => simp [State.completeEngine, h]
  | types n => cases n <;> exact h
  | _ => exact h

theorem OneServed.beat {p : Fin 18} {s t : State} (b : s.Beat t) (h : OneServed p s) : OneServed p t :=
  ⟨h.once.beat b, b.serving h.serves, fun tag ht => b.requests tag (h.held tag ht)⟩

theorem OneServed.of_same {p : Fin 18} {r r' : Run} (hs : r.Same r' .path) (h : OneServed p r.st) :
    OneServed p r'.st := by
  obtain ⟨hm, hw, hp, hr, he⟩ := hs
  refine ⟨h.once.of_same hm hw hp hr fun tag ht => ?_, he.trans h.serves, by rw [hr]; exact h.held⟩
  rwa [State.finishes, he] at ht

theorem oneServed_closed (p : Fin 18) : Run.Closed fun r => OneServed p r.st := by
  have same {r r' : Run} (hs : r.Same r' .path) (h : OneServed p r.st) : OneServed p r'.st := h.of_same hs
  refine .of_single ⟨⟨fun q => same (q.same .path), fun l => same (l.only.same .path (by decide)),
    fun m => same (m.only.same .path (by decide))⟩,
    fun r h => State.Beats.kept OneServed.beat (r.st.await_beats _) h,
    fun r => same ⟨rfl, rfl, rfl, rfl, rfl⟩⟩ ?_ ?_ ?_ ?_
  · exact fun r i e limit h _ _ => same ((r.openEntry_only i e limit).same .path (by decide)) h
  · exact fun r i e cause h _ => same ((r.markExpired_only i e cause).same .path (by decide)) h
  · exact fun r i h => same ((r.freeEntry_only i).same .path (by decide)) h
  · exact fun r i e h _ _ => same ((r.setEntry_only i (some e)).same .path (by decide)) h

/-- The Engine lets go of what it served. -/
theorem OneCyclePerTag.idle {s : State} (h : OneCyclePerTag s) : OneCyclePerTag { s with engine := .idle } :=
  h.of_same rfl rfl rfl rfl fun _ hf => nomatch hf

/-- A held write ends: its tag has no cycle then, or the one that waits for its images (R2, R183). -/
theorem OneServed.finishHeld {p : Fin 18} {r : Run} (h : OneServed p r.st) {tag : Tag}
    (ht : asFin 16 p.val = some tag) (a : Ack) : OneCyclePerTag (r.finishHeld tag a) := by
  obtain ⟨hp, hw, -, hm⟩ := (h.once.tag tag).of_request (h.held tag ht)
  unfold Run.finishHeld
  simp only
  split
  · exact (h.once.acknowledged a hp hw).takeNext
  · refine h.once.update tag h.once.1 ?_ fun x hx =>
      ⟨rfl, Table.get_set_ne _ _ hx, rfl, ?_, rfl⟩
    · exact State.oneCycle_of_place (.inr (.inr (.inr ⟨hp, Table.get_set_self _ _ _, hw⟩))) hm
    · simp [State.finishes, h.serves, Ne.symm hx]

/-- Settles O58. -/
theorem eachTagWaitsInOnePlace : Obligations.EachTagWaitsInOnePlace := by
  refine keptByStep_of_done (fun s rest hs => hs) fun c s t hd hs => ?_
  have beats {u : State} (h : s.Beats u) : OneCyclePerTag u := h.kept OneCyclePerTag.beat hs
  have served {tag : Tag} {q : Request} (hq : s.heldInHand = some (tag, q)) :
      ∃ p, asFin 16 p.val = some tag ∧ OneServed p s := by
    obtain ⟨p, hp, ht, hr⟩ := State.heldInHand_some hq
    refine ⟨p, ht, hs, hp, fun x hx => ?_⟩
    rw [ht] at hx
    cases hx
    simp [hr]
  cases hd with
  | idle => exact hs
  | reset hc => exact resetMeetsWhatStepsKeep.2.2.2.2.2.2
  | timebase => exact (hs.beat (.tick s)).takeNext
  | cycle y hw => exact beats (State.takeCycle_beats hw)
  | port v hard => exact beats (s.portCycle_beats _ _ _)
  | startJob => exact beats s.startJob_beats
  | endLoadJob => exact beats s.endLoadJob_beats
  | endSyncJob => exact beats s.endSyncJob_beats
  | endReleaseJob => exact beats s.endReleaseJob_beats
  | held answers tag q ack r hq kept =>
    obtain ⟨p, ht, hp⟩ := served hq
    exact ((oneServed_closed p).conclude (kept _ (oneServed_closed p) hp)).finishHeld ht ack
  | internal p r hp hi kept =>
    have hstart : OneServed p s := ⟨hs, hp, fun tag ht => by rw [hi] at ht; cases ht⟩
    exact ((oneServed_closed p).conclude (kept _ (oneServed_closed p) hstart)).once.idle.takeNext
  | released tag q src hc hq hcls hheld =>
    obtain ⟨p, ht, hp⟩ := served hq
    exact (OneServed.of_same (r := Run.start s []) (Run.release_same _ src .path) hp).finishHeld ht .done
  | cleared tag q hq hset =>
    obtain ⟨p, ht, hp⟩ := served hq
    exact (OneServed.of_same (r := Run.start s []) (Run.clearFlags_same _ q.data .path) hp).finishHeld ht .done

end Sys2Proof.Machine
end

section
/-! PROOF. Time, and the cycles on the master-side bus as they arrive (R1 to R17, R47, R48, R108, R110). -/

namespace Sys2Proof.Machine

open Sys2Proof.Claims

/-! ### Time -/

theorem Entry.becomesDue_iff {e : Entry} {now : Time} :
    e.becomesDue now = true ↔ e.expiry = some now ∧ (e.state = .isOpen ∨ e.state = .half) := by
  unfold Entry.becomesDue
  cases e.state <;> simp

theorem State.foldl_enqueue_mem (ids : List (Fin 32)) (s : State) {i : Fin 32} (hi : i ∈ ids)
    (hg : s.guarded = true) :
    .entry i ∈ (ids.foldl (fun s i => s.enqueue (.entry i)) s).images := by
  have hmap : ids.foldl (fun s i => s.enqueue (.entry i)) s = (ids.map .entry).foldl State.enqueue s := by
    rw [List.foldl_map]
  rw [hmap, State.mem_foldl_images]
  exact .inr ⟨hg, List.mem_map_of_mem hi⟩

/-- Settles O5. -/
theorem timebaseMakesEntriesDue : Obligations.TimebaseMakesEntriesDue := by
  intro s
  have hdue : s.tick.takeNext.due = s.due ++ s.newlyDue (s.time + 1) := by
    rw [State.takeNext_eq, State.tick_eq]
  refine ⟨s.tick.takeNext, rfl, ?_, fun i => ?_, ⟨s.newlyDue (s.time + 1), hdue, List.filter_sublist, ?_⟩, ?_⟩
  · rw [State.takeNext_eq, State.tick_eq]
  · rw [hdue, List.mem_append, State.mem_newlyDue]
    constructor
    · rintro (hi | ⟨ho, -, e, he, hd⟩)
      · exact .inl hi
      · obtain ⟨hx, hs⟩ := Entry.becomesDue_iff.1 hd
        exact .inr ⟨ho, e, he, hx, hs⟩
    · rintro (hi | ⟨ho, e, he, hx, hs⟩)
      · exact .inl hi
      · by_cases hi : i ∈ s.due
        · exact .inl hi
        · exact .inr ⟨ho, hi, e, he, Entry.becomesDue_iff.2 ⟨hx, hs⟩⟩
  · intro i hi hg
    rw [State.takeNext_eq]
    exact State.foldl_enqueue_mem _ _ hi (by simpa [State.guarded] using hg)
  · intro hbusy
    have htick : s.tick.engine = s.engine := by rw [State.tick_eq]
    have hlast : s.tick.lastServed = s.lastServed := by rw [State.tick_eq]
    unfold State.takeNext
    split
    · next hidle => exact absurd (htick.symm.trans hidle) hbusy
    · exact ⟨htick, hlast⟩
    · exact ⟨htick, hlast⟩

/-! ### The Classifier's decision -/

theorem RepRing.owner_ne (ring : RepRing) : ring.owner ≠ .none ∧ ring.owner ≠ .proc := by
  cases ring <;> decide

/-- The Classifier does not look at the masters. -/
theorem State.classify_arriving (s : State) (tag : Tag) (c : Cycle) : (arriving s tag).classify c = s.classify c :=
  rfl

theorem State.classify_guarded {s : State} (h : s.mode = .guarded) (c : Cycle) :
    s.classify c = s.classifyGuarded c := by
  simp [State.classify, State.guarded, h]

theorem State.classify_open {s : State} (h : s.mode = .openPath) (c : Cycle) :
    s.classify c = classifyOpen c := by
  simp [State.classify, State.guarded, h]

/-- An aligned write of a tag with a role, in GUARDED mode (R7 to R13). -/
theorem State.classify_write {s : State} (h : s.mode = .guarded) {tag : Tag} {addr : Addr} {size : Size}
    {data : Word} (hr : s.roleOf tag ≠ .none) (ha : Cycle.aligned ⟨tag, addr, size, .write data⟩ = true) :
    s.classify ⟨tag, addr, size, .write data⟩ =
      if s.roleOf tag = .proc then s.procWrite size data (s.regionOf addr)
      else otherWrite (s.roleOf tag) size data (s.regionOf addr) := by
  rw [State.classify_guarded h, State.classifyGuarded]
  simp [hr, ha]

/-- An aligned read of a tag with a role, in GUARDED mode (R6, R47). -/
theorem State.classify_read {s : State} (h : s.mode = .guarded) {tag : Tag} {addr : Addr} {size : Size}
    (hr : s.roleOf tag ≠ .none) (ha : Cycle.aligned ⟨tag, addr, size, .read⟩ = true) :
    s.classify ⟨tag, addr, size, .read⟩ =
      match s.regionOf addr with
      | .board b word => .boardRead b word
      | _ => .pass := by
  rw [State.classify_guarded h, State.classifyGuarded]
  simp [hr, ha]
  cases s.regionOf addr <;> rfl

theorem classify_of_guardRow {s : State} {c : Cycle} (h : GuardRow s c) (hg : s.mode = .guarded) :
    s.classify c = .guarded := by
  obtain ⟨tag, addr, size, op⟩ := c
  by_cases hr : s.roleOf tag = .none
  · simp [State.classify_guarded hg, State.classifyGuarded, hr]
  by_cases ha : Cycle.aligned ⟨tag, addr, size, op⟩ = true
  · obtain h | h | ⟨⟨d, rfl⟩, h⟩ := h
    · exact absurd h hr
    · simp [ha] at h
    · rw [State.classify_write hg hr ha]
      simp only at h
      cases hreg : s.regionOf addr with
      | command ring slot word =>
        rw [hreg] at h
        by_cases hp : s.roleOf tag = .proc
        · simp [hp, State.procWrite, h.resolve_right (by simp [hp])]
        · simp [hp, otherWrite]
      | report ring word =>
        rw [hreg] at h
        simp [h.1, h.2, otherWrite]
      | elsewhere => rw [hreg] at h; exact h.elim
      | _ => rw [hreg] at h; simp [h, otherWrite]
  · simp [State.classify_guarded hg, State.classifyGuarded, hr, ha]

theorem classify_of_writePasses {s : State} {tag : Tag} {addr : Addr} {size : Size} {data : Word}
    (h : WritePasses s tag addr size data) (hg : s.mode = .guarded)
    (ha : Cycle.aligned ⟨tag, addr, size, .write data⟩ = true) :
    s.classify ⟨tag, addr, size, .write data⟩ = .pass := by
  unfold WritePasses at h
  simp only at h
  have write (hr : s.roleOf tag ≠ .none) := State.classify_write hg hr ha
  cases hreg : s.regionOf addr with
  | elsewhere =>
    rw [hreg] at h write
    rw [write h]
    simp [State.procWrite, otherWrite]
  | rootBody =>
    rw [hreg] at h write
    rw [write (by simp [h])]
    simp [h, State.procWrite]
  | command ring slot word =>
    rw [hreg] at h write
    obtain ⟨hr, hring, hslot, hword⟩ := h
    rw [write (by simp [hr])]
    by_cases h0 : word = 0
    · simp [hr, State.procWrite, hring, h0, wide, hword h0, State.unlessNamed, hslot]
    · simp [hr, State.procWrite, hring, h0, State.unlessNamed, hslot]
  | report ring word =>
    rw [hreg] at h write
    obtain ⟨hr, hword⟩ := h
    obtain ⟨hnone, hproc⟩ := ring.owner_ne
    rw [write (by rcases hr with e | e <;> simp [e, hnone])]
    have hmark (f : Fate) (h0 : word = 0) : wide size (if ringMark data = markValid then f else .pass) = .pass := by
      simp [wide, hword h0]
    by_cases h0 : word = 0
    · rcases hr with e | e <;> simp [e, hproc, State.procWrite, otherWrite, h0, hmark]
    · rcases hr with e | e <;> simp [e, hproc, State.procWrite, otherWrite, h0]
  | _ => rw [hreg] at h; exact h.elim

theorem classify_of_pathRefused {s : State} {tag : Tag} {addr : Addr} {size : Size} {data : Word} {cause : Cause}
    (h : PathRefused s tag addr size data cause) (hg : s.mode = .guarded)
    (ha : Cycle.aligned ⟨tag, addr, size, .write data⟩ = true) :
    s.classify ⟨tag, addr, size, .write data⟩ = .refused cause := by
  unfold PathRefused at h
  simp only at h
  have write (hr : s.roleOf tag ≠ .none) := State.classify_write hg hr ha
  have narrow {f : Fate} (h : size ≠ .b8 ∧ cause = .narrowWrite) : wide size f = .refused cause := by
    simp [wide, h.1, h.2]
  cases hreg : s.regionOf addr with
  | loadWord | captureWord | flagClearWord =>
    rw [hreg] at h write
    rw [write (by simp [h.1]), if_pos h.1]
    exact narrow h.2
  | imageOther =>
    rw [hreg] at h write
    rw [write (by simp [h.1]), if_pos h.1, h.2]
    rfl
  | command ring slot word =>
    rw [hreg] at h write
    obtain ⟨hr, hring, hcase⟩ := h
    rw [write (by simp [hr]), if_pos hr]
    rcases hcase with ⟨h0, hn⟩ | ⟨h0, hslot, rfl⟩
    · simp only [State.procWrite, hring, if_false, h0, if_true]
      exact narrow hn
    · have hfate : s.unlessNamed ring slot = .refused .slotInUse := by simp [State.unlessNamed, hslot]
      by_cases hw : word = 0
      · simp [State.procWrite, hring, hw, wide, h0 hw, hfate]
      · simp [State.procWrite, hring, hw, hfate]
  | report ring word =>
    rw [hreg] at h write
    obtain ⟨hnone, hproc⟩ := ring.owner_ne
    rcases h with ⟨rfl, ⟨hr | hr, hn⟩ | ⟨hr, hsize, hmark, rfl⟩⟩
    · rw [write (by simp [hr]), if_pos hr]
      exact narrow hn
    · rw [write (by simp [hr, hnone]), if_neg (by simp [hr, hproc])]
      simp only [otherWrite, hr, if_true]
      exact narrow hn
    · rw [write (by simp [hr]), if_pos hr]
      simp [State.procWrite, wide, hsize, hmark]
  | board b word =>
    rw [hreg] at h write
    obtain ⟨hr, hcase⟩ := h
    rw [write (by simp [hr]), if_pos hr]
    rcases hcase with ⟨hw, hn⟩ | ⟨hw, rfl⟩
    · simp only [State.procWrite, hw, if_true]
      exact narrow hn
    · simp [State.procWrite, hw]
  | rootBody | elsewhere => rw [hreg] at h; exact h.elim

theorem classify_of_heldFor {s : State} {tag : Tag} {addr : Addr} {data : Word} {cls : RequestClass}
    (h : HeldFor s tag addr data cls) (ha : Cycle.aligned ⟨tag, addr, .b8, .write data⟩ = true) :
    s.classify ⟨tag, addr, .b8, .write data⟩ = .held cls := by
  unfold HeldFor at h
  cases hg : s.mode with
  | openPath =>
    rw [hg] at h
    obtain ⟨hroot, rfl⟩ := h
    simp [State.classify_open hg, classifyOpen, ha, hroot]
  | guarded =>
    simp only [hg] at h
    have write (hr : s.roleOf tag ≠ .none) := State.classify_write hg hr ha
    cases hreg : s.regionOf addr with
    | loadWord | captureWord | flagClearWord =>
      rw [hreg] at h write
      obtain ⟨hr, rfl⟩ := h
      rw [write (by simp [hr]), if_pos hr]
      rfl
    | command ring slot word =>
      rw [hreg] at h write
      obtain ⟨hr, hring, hword, hmark, rfl⟩ := h
      rw [write (by simp [hr]), if_pos hr]
      simp [State.procWrite, hring, hword, hmark, wide]
    | report ring word =>
      rw [hreg] at h write
      obtain ⟨hr, hword, hmark, rfl⟩ := h
      obtain ⟨hnone, hproc⟩ := ring.owner_ne
      rw [write (by simp [hr, hnone]), if_neg (by simp [hr, hproc])]
      simp [otherWrite, hr, hword, hmark, wide]
    | board b word =>
      rw [hreg] at h write
      obtain ⟨hr, hword, rfl⟩ := h
      rw [write (by simp [hr]), if_pos hr]
      simp [State.procWrite, hword, wide]
    | rootBody | imageOther | elsewhere => rw [hreg] at h; exact h.elim

/-! ### What becomes of a cycle -/

/-- A cycle that is taken goes the way that the Classifier decides (R4, R5). -/
theorem arrive_as {s : State} {c : Cycle} {f : Fate} (hm : s.masters.get c.tag ≠ .waiting)
    (hf : s.classify c = f) : arrive c s = .next ((arriving s c.tag).dispatch c f) := by
  rw [arrive_taken hm, ← hf]
  rfl

/-- A cycle that is answered at once leaves nothing but the answer. -/
theorem acknowledge_arriving (s : State) (tag : Tag) (a : Ack) (d : Option Word) :
    (arriving s tag).acknowledge tag a d = { s with masters := s.masters.set tag (.answered a d) } := by
  simp [State.acknowledge, arriving, Table.set_set_same]

/-- Settles O6. -/
theorem passedCycleWaitsAtThePort : Obligations.PassedCycleWaitsAtThePort := by
  intro s tag addr size hm
  refine ⟨fun ha hcase => ?_, fun data ha hcase => ?_, fun b word hg hr ha hreg => ⟨fun l hl => ?_, fun hl => ?_⟩⟩
  · refine arrive_as (f := .pass) hm ?_
    rcases hcase with hg | ⟨hg, hr, hreg⟩
    · simp [State.classify_open hg, classifyOpen, ha]
    · rw [State.classify_read hg hr ha]
      split
      · next b word hb => exact absurd hb (hreg b word)
      · rfl
  · refine arrive_as (f := .pass) hm ?_
    rcases hcase with ⟨hg, hroot⟩ | ⟨hg, hpass⟩
    · simp [State.classify_open hg, classifyOpen, ha, hroot]
    · exact classify_of_writePasses hpass hg ha
  all_goals
    have hf : s.classify ⟨tag, addr, size, .read⟩ = .boardRead b word := by
      rw [State.classify_read hg hr ha, hreg]
    refine (arrive_as hm hf).trans ?_
    have hcached : (arriving s tag).cached b = s.cached b := rfl
    simp only [State.dispatch, State.readBoard, hcached, hl]
  · rw [acknowledge_arriving]
  · rfl

/-! ### Refusals of the Classifier -/

theorem Run.image_images {r : Run} (hg : r.st.guarded = true) (id : ImageId) :
    (r.image id).images = if id ∈ r.images then r.images else r.images ++ [id] := by
  unfold Run.image
  by_cases h : id ∈ r.images <;> simp [hg, h]

/-- A raise collects no image beside the status block, which follows it. -/
theorem Run.raise_image_status {r : Run} (hg : r.st.guarded = true) (f : Flag) :
    ((r.raise f).image .status).images = (r.image .status).images := by
  unfold Run.raise
  split
  · have hg' : (r.modify fun s => { s with flags := s.flags ||| f.bits }).st.guarded = true := hg
    rw [Run.image_images (by rw [Run.image_st]; exact hg'), Run.image_images hg', Run.image_images hg]
    by_cases h : ImageId.status ∈ r.images <;> simp [h]
  · rfl

/-- A refused cycle's state: the run's, with its images queued and waited for. -/
theorem Run.awaitImages_eq (r : Run) (tag : Tag) (a : Ack) :
    r.awaitImages tag a = { r.st with
      images := r.queued.images, waits := r.st.waits ++ [⟨tag, a, r.images⟩] } := by
  rw [Run.awaitImages, Run.queued_eq]

/-- The queue of a run that starts and collects the status block alone. -/
theorem Run.queued_status {r : Run} {s : State} (hi : r.images = [.status]) (hq : r.st.images = s.images)
    (hg : r.st.guarded = s.guarded) : r.queued.images = (s.enqueue .status).images := by
  simp [Run.queued, hi, State.enqueue, hq, hg]
  split
  · rfl
  · exact hq

/-- A guard refusal (R14). -/
theorem refuseGuard_refused {s : State} (hg : s.mode = .guarded) (c : Cycle) :
    GuardRefused s ((arriving s c.tag).refuseGuard c) c.tag c.addr (cycleKind c) := by
  have hg' : (arriving s c.tag).guarded = true := by simp [arriving, State.guarded, hg]
  unfold GuardRefused State.refuseGuard Run.guardRefusal
  generalize hr : (Run.start (arriving s c.tag) []).modify
    (fun s => { s with lastGuard := some ⟨c.addr, c.tag, cycleKind c⟩ }) = r
  have hrg : r.st.guarded = true := by rw [← hr]; exact hg'
  have hi : ((r.raise .guard).image .status).images = [.status] := by
    rw [Run.raise_image_status hrg, Run.image_images hrg, ← hr]
    rfl
  have hst : ((r.raise .guard).image .status).st = { r.st with flags := r.st.flags ||| Flag.guard.bits } := by
    rw [Run.image_st, Run.raise_st hrg]
  rw [Run.awaitImages_eq, hi, Run.queued_status (s := s) hi (by rw [hst, ← hr]; rfl) (by rw [hst, ← hr]; rfl), hst,
    ← hr]
  rfl

/-- Settles O7. -/
theorem guardRefusalKeepsTheLastCycle : Obligations.GuardRefusalKeepsTheLastCycle := by
  intro s c hm
  refine ⟨fun ha hg => ?_, fun ha hg => ?_, fun hrow hg => ?_⟩
  · refine (arrive_as (f := .plain .hard) hm (by simp [State.classify_open hg, classifyOpen, ha])).trans ?_
    rw [State.dispatch, acknowledge_arriving]
  · exact ⟨_, arrive_as hm (classify_of_guardRow (.inr (.inl ha)) hg), refuseGuard_refused hg c⟩
  · exact ⟨_, arrive_as hm (classify_of_guardRow hrow hg), refuseGuard_refused hg c⟩

/-- A capture that is filled: its flag is raised, and its image and the status block are collected (R173). -/
theorem Run.fillCapture_st {r : Run} (hg : r.st.guarded = true) (ev : Event) :
    (r.fillCapture ev).st = { r.st with
      captures := r.st.captures.set ev.source.idx (some ⟨ev.cause, ev.sect, ev.cycle, ev.refs, r.st.time⟩)
      flags := r.st.flags ||| (Flag.capture ev.source).bits } := by
  unfold Run.fillCapture
  rw [Run.image_st, Run.raise_st (by rw [Run.image_st]; exact hg), Run.image_st]
  rfl

theorem Run.fillCapture_images {r : Run} (hg : r.st.guarded = true) (hi : r.images = []) (ev : Event) :
    (r.fillCapture ev).images = [.capture ev.source, .status] := by
  unfold Run.fillCapture
  simp only
  generalize hm : r.modify _ = r'
  have hg' : r'.st.guarded = true := by rw [← hm]; exact hg
  have hi' : r'.images = [] := by rw [← hm]; exact hi
  rw [Run.raise_image_status (by rw [Run.image_st]; exact hg'), Run.image_images (by rw [Run.image_st]; exact hg'),
    Run.image_images hg', hi']
  rfl

/-- A refusal under a HELD capture raises the source's HARD flag (R174). -/
theorem Run.hardRefusal_images {r : Run} (hg : r.st.guarded = true) (hi : r.images = []) (f : Flag) :
    ((r.raise f).image .status).images = [.status] := by
  rw [Run.raise_image_status hg, Run.image_images hg, hi]
  rfl

/-- The event of a refusal of the Classifier (R15). -/
def pathEvent (src : Source) (c : Cycle) (cause : Cause) : Event :=
  { source := src, cause := cause, cycle := some ⟨c.tag, cycleKind c, c.addr⟩ }

theorem refusePath_of_source {s : State} {c : Cycle} {src : Source} (hsrc : (s.roleOf c.tag).source = some src)
    (cause : Cause) :
    (arriving s c.tag).refusePath c cause =
      ((Run.start (arriving s c.tag) []).refusal (pathEvent src c cause)).2.awaitImages c.tag
        ((Run.start (arriving s c.tag) []).refusal (pathEvent src c cause)).1 := by
  have hsource : (arriving s c.tag).sourceOf c.tag = src := by
    show (s.roleOf c.tag).source.getD .proc = src
    rw [hsrc]
    rfl
  unfold State.refusePath
  rw [hsource]
  rfl

/-- A refusal under a source whose capture is EMPTY fills it (R15, R173). -/
theorem refusePath_captured {s : State} (hg : s.mode = .guarded) {c : Cycle} {src : Source} (cause : Cause)
    (hsrc : (s.roleOf c.tag).source = some src) (hnone : s.captureOf src = none) :
    ∃ images, (arriving s c.tag).refusePath c cause = { arriving s c.tag with
        captures := s.captures.set src.idx (some ⟨cause, none, some ⟨c.tag, cycleKind c, c.addr⟩, {}, s.time⟩)
        flags := s.flags ||| (Flag.capture src).bits
        images := images
        waits := s.waits ++ [⟨c.tag, .soft, [.capture src, .status]⟩] } ∧
      ∀ id, id ∈ images ↔ id ∈ s.images ∨ id = .capture src ∨ id = .status := by
  have hg' : (Run.start (arriving s c.tag) []).st.guarded = true := by
    simp [Run.start, arriving, State.guarded, hg]
  have hempty : (Run.start (arriving s c.tag) []).st.captureOf (pathEvent src c cause).source = none := hnone
  have hi := Run.fillCapture_images hg' rfl (pathEvent src c cause)
  have hst := Run.fillCapture_st hg' (pathEvent src c cause)
  rw [refusePath_of_source hsrc]
  simp only [Run.refusal, hg', if_true, hempty]
  rw [Run.awaitImages_eq, hi, hst]
  refine ⟨_, rfl, fun id => ?_⟩
  rw [Run.mem_queued (by rw [hst]; exact hg'), hi, hst]
  simp [Run.start, arriving, pathEvent]

/-- A refusal under a source whose capture is HELD is answered HARD (R174). -/
theorem refusePath_escalated {s : State} (hg : s.mode = .guarded) {c : Cycle} {src : Source} (cause : Cause)
    (hsrc : (s.roleOf c.tag).source = some src) {held : Capture} (hheld : s.captureOf src = some held) :
    (arriving s c.tag).refusePath c cause = { arriving s c.tag with
      flags := s.flags ||| (Flag.hard src).bits
      images := (s.enqueue .status).images
      waits := s.waits ++ [⟨c.tag, .hard, [.status]⟩] } := by
  have hg' : (Run.start (arriving s c.tag) []).st.guarded = true := by
    simp [Run.start, arriving, State.guarded, hg]
  have hfull : (Run.start (arriving s c.tag) []).st.captureOf (pathEvent src c cause).source = some held := hheld
  have hi := Run.hardRefusal_images hg' rfl (.hard src)
  have hst : (((Run.start (arriving s c.tag) []).raise (.hard src)).image .status).st =
      { arriving s c.tag with flags := s.flags ||| (Flag.hard src).bits } := by
    rw [Run.image_st, Run.raise_st hg']
    rfl
  rw [refusePath_of_source hsrc]
  simp only [Run.refusal, hg', if_true, hfull]
  show Run.awaitImages (((Run.start (arriving s c.tag) []).raise (.hard src)).image .status) c.tag .hard = _
  rw [Run.awaitImages_eq, hi, Run.queued_status (s := s) hi (by rw [hst]; rfl) (by rw [hst]; rfl), hst]
  rfl

/-- Settles O8. -/
theorem pathRefusalIsCapturedOrEscalated : Obligations.PathRefusalIsCapturedOrEscalated := by
  intro s tag addr size data hm ha
  refine ⟨fun hg hroot hsize => ?_, fun cause src hg href hsrc => ?_⟩
  · refine (arrive_as (f := .plain .soft) hm ?_).trans ?_
    · simp [State.classify_open hg, classifyOpen, ha, hroot, hsize]
    · rw [State.dispatch, acknowledge_arriving]
  · have hx : exec (.pathRefusal tag addr size data) s =
        .next ((arriving s tag).refusePath ⟨tag, addr, size, .write data⟩ cause) :=
      arrive_as hm (classify_of_pathRefused href hg ha)
    refine ⟨fun hnone => ?_, fun held hheld => ?_⟩
    · obtain ⟨images, he, himages⟩ := refusePath_captured hg (c := ⟨tag, addr, size, .write data⟩) cause hsrc hnone
      exact ⟨images, hx.trans (congrArg _ he), himages⟩
    · exact hx.trans (congrArg _ (refusePath_escalated hg (c := ⟨tag, addr, size, .write data⟩) cause hsrc hheld))

/-! ### A write that is held for the Engine -/

/-- The arbiter's rotation passes every position (R18). -/
theorem mem_rotation (last p : Fin 18) :
    p ∈ (List.range 18).map fun k => Fin.ofNat 18 (last.val + 1 + k) := by
  revert last p
  decide

theorem State.nextPosition_none {s : State} (h : s.nextPosition = none) (p : Fin 18) : s.requestWaits p = false := by
  simpa using List.find?_eq_none.1 h p (mem_rotation s.lastServed p)

/-- The arbiter takes the only request there is (R18). -/
theorem State.nextPosition_only {s : State} {p : Fin 18} (hp : s.requestWaits p = true)
    (honly : ∀ x, s.requestWaits x = true → x = p) : s.nextPosition = some p := by
  cases h : s.nextPosition with
  | none => rw [State.nextPosition_none h p] at hp; cases hp
  | some x => rw [honly x (List.find?_some h)]

theorem asFin_some {n k : Nat} {i : Fin n} : asFin n k = some i ↔ k = i.val := by
  unfold asFin
  constructor
  · intro h
    split at h
    · cases h; rfl
    · cases h
  · rintro rfl
    simp

/-- Settles O9. -/
theorem heldWriteWaitsForTheEngine : Obligations.HeldWriteWaitsForTheEngine := by
  intro s tag addr data cls hm ha hfor
  have hx := arrive_as hm (classify_of_heldFor hfor ha)
  let role := if s.guarded = true then some (s.roleOf tag) else none
  let u : State := { arriving s tag with requests := s.requests.set tag (some ⟨addr, data, role, cls⟩) }
  have hu : (arriving s tag).dispatch ⟨tag, addr, .b8, .write data⟩ (.held cls) = u.takeNext := rfl
  refine ⟨u.takeNext, role, hu ▸ hx, State.takeNext_eq u, fun hg => ?_, fun hg => ?_, fun hbusy => ?_,
    fun hidle hnone => ?_⟩
  · simp [role, State.guarded, hg]
  · simp [role, State.guarded, hg]
  · unfold State.takeNext
    split
    · next h => exact absurd h hbusy
    · exact ⟨rfl, rfl⟩
    · exact ⟨rfl, rfl⟩
  · have hreq (p : Fin 18) : u.requestWaits p = if asFin 16 p.val = some tag then true else s.requestWaits p := by
      unfold State.requestWaits
      cases hp : asFin 16 p.val with
      | none => rfl
      | some x =>
        show ((s.requests.set tag _).get x).isSome = _
        rw [Table.get_set]
        by_cases hxt : x = tag <;> simp [hxt]
    let p : Fin 18 := ⟨tag.val, by omega⟩
    have hp : asFin 16 p.val = some tag := asFin_some.2 rfl
    have hnext : u.nextPosition = some p := by
      refine State.nextPosition_only (by rw [hreq, if_pos hp]) fun x hxw => ?_
      rw [hreq] at hxw
      split at hxw
      · next h => exact Fin.ext ((asFin_some (n := 16)).1 h)
      · rw [State.nextPosition_none hnone x] at hxw; cases hxw
    have htake : u.takeNext = { u with engine := .serving p, lastServed := p } := by
      have : u.engine = .idle := hidle
      simp [State.takeNext, this, hnext]
    rw [htake]
    refine ⟨?_, rfl⟩
    simp [State.heldInHand, hp, u]

end Sys2Proof.Machine
end

section
/-! PROOF. The downstream port: pass-through cycles and image writes (R16, R20, R180 to R183). -/

namespace Sys2Proof.Machine

open Sys2Proof.Claims

/-! ### The walker's scan -/

/-- A visit changes the cache, its order and the running job alone (R55). -/
theorem State.visit_eq (s : State) :
    s.visit = { s with cache := s.visit.cache, recency := s.visit.recency, walker := s.visit.walker } := by
  unfold State.visit
  split
  · rfl
  · rfl
  · split
    · split
      · rfl
      · split
        · split
          · rfl
          · unfold State.visitClean
            split <;> rfl
        · rfl
    · rfl

theorem State.scan_eq (s : State) (n : Nat) :
    s.scan n = { s with
      cache := (s.scan n).cache, recency := (s.scan n).recency, walker := (s.scan n).walker } := by
  induction n generalizing s with
  | zero => rfl
  | succ n ih =>
    rw [State.scan, ih]
    exact congrArg (fun u : State => { u with
      cache := (s.visit.scan n).cache, recency := (s.visit.scan n).recency
      walker := (s.visit.scan n).walker }) s.visit_eq

@[simp] theorem State.scan_pass (s : State) (n : Nat) : (s.scan n).pass = s.pass := by rw [State.scan_eq]

@[simp] theorem State.scan_masters (s : State) (n : Nat) : (s.scan n).masters = s.masters := by
  rw [State.scan_eq]

@[simp] theorem State.scan_mem (s : State) (n : Nat) : (s.scan n).mem = s.mem := by rw [State.scan_eq]

/-! ### A pass-through cycle -/

/-- What a grant of the pass-through source does (R16). -/
theorem State.grantPass_of_next {s : State} {c : Cycle} (hn : s.nextPass = some c.tag)
    (hc : s.pass.get c.tag = some c) (hard : Bool) :
    s.grantPass hard =
      if hard then { s with
        pass := s.pass.set c.tag none, passLast := c.tag, portLast := .pass
        masters := s.masters.set c.tag (.answered .hard none) }
      else { s with
        pass := s.pass.set c.tag none, passLast := c.tag, portLast := .pass
        masters := s.masters.set c.tag (.answered .done (cycleReply c s.mem))
        mem := cycleEffect c s.mem } := by
  simp only [State.grantPass, hn, hc]
  rfl

/-- Settles O10. -/
theorem passThroughReachesMemory : Obligations.PassThroughReachesMemory := by
  intro s visits c hgrant hnext hc
  have hx (hard : Bool) : exec (.portCycle visits hard) s = .next ((s.scan visits).grantPass hard) := by
    show Host.Outcome.next ((s.scan visits).grant hard ((s.scan visits).granted false)) = _
    rw [hgrant]
    rfl
  have hpass : (s.scan visits).pass.get c.tag = some c := by rw [State.scan_pass]; exact hc
  refine ⟨?_, fun hread => ?_, fun data hwrite => ?_⟩
  all_goals
    rw [hx, State.grantPass_of_next hnext hpass, State.scan_pass, State.scan_masters]
  · rfl
  · simp [cycleReply, cycleEffect, hread]
  · simp [cycleReply, cycleEffect, hwrite]

/-! ### An image write -/

/-- A flag raised outside a request, in GUARDED mode (R20, R180). -/
theorem State.raise_eq {s : State} (hg : s.guarded = true) (f : Flag) :
    s.raise f = { s with
      flags := s.flags ||| f.bits
      images := if s.flag f = false ∧ .status ∉ s.images then s.images ++ [.status] else s.images } := by
  have hi : (Run.start s []).raise f =
      { (Run.start { s with flags := s.flags ||| f.bits } []) with
        images := if s.flag f = true then [] else [.status] } := by
    unfold Run.raise
    cases hf : s.flag f with
    | true =>
      have hbits : s.flags ||| f.bits = s.flags := flagBits_or hf
      simp [Run.start, hf, hbits]
    | false =>
      have hg' : State.guarded { s with flags := s.flags ||| f.bits } = true := hg
      simp [Run.start, hg, hf, Run.modify, Run.image, hg']
  have hg' : State.guarded { s with flags := s.flags ||| f.bits } = true := hg
  unfold State.raise Run.queued
  rw [hi]
  cases hf : s.flag f with
  | true => simp [Run.start]
  | false => by_cases hm : ImageId.status ∈ s.images <;> simp [Run.start, State.enqueue, hg', hm]

theorem State.completeEngine_other {s : State} (h : ∀ w, s.engine ≠ .finishing w) (id : ImageId) :
    s.completeEngine id = s := by
  unfold State.completeEngine
  split
  · rfl
  · rfl
  · next w hw => exact absurd hw (h w)

/-- The Engine's request waits for further images. -/
theorem State.completeEngine_waits {s : State} {w : Wait} (h : s.engine = .finishing w) {id : ImageId}
    (hi : w.images.erase id ≠ []) : s.completeEngine id = { s with engine := .finishing (w.without id) } := by
  have : (w.without id).images.isEmpty = false := by simpa [Wait.without] using hi
  simp [State.completeEngine, h, this]

/-- The Engine's request has its last image, and is acknowledged (R183). -/
theorem State.completeEngine_ends {s : State} {w : Wait} (h : s.engine = .finishing w) {id : ImageId}
    (hi : w.images.erase id = []) :
    s.completeEngine id = State.takeNext { s.acknowledge w.tag w.ack none with engine := .idle } := by
  have : (w.without id).images.isEmpty = true := by simpa [Wait.without] using hi
  simp only [State.completeEngine, h, this, if_true]
  rfl

theorem State.takeNext_not_finishing {s : State} (h : ∀ w, s.engine ≠ .finishing w) (w : Wait) :
    s.takeNext.engine ≠ .finishing w := by
  unfold State.takeNext
  split
  · split
    · simp
    · exact h w
  · exact h w
  · exact h w

/-- What an image write does to a master, in a state where each tag has one cycle (R2, R183). -/
theorem completed_masters {s : State} (h : OneCyclePerTag s) (id : ImageId) :
    (∀ w ∈ s.waits, w.images.erase id = [] →
      ((s.completeWaits id).completeEngine id).masters.get w.tag = .answered w.ack none) ∧
    (∀ w, s.engine = .finishing w → w.images.erase id = [] →
      ((s.completeWaits id).completeEngine id).masters.get w.tag = .answered w.ack none) ∧
    ∀ tag, (∀ w ∈ s.waits, w.images.erase id = [] → w.tag ≠ tag) →
      (∀ w, s.engine = .finishing w → w.images.erase id = [] → w.tag ≠ tag) →
      ((s.completeWaits id).completeEngine id).masters.get tag = s.masters.get tag := by
  obtain ⟨hin, hout⟩ := State.completeWaits_masters h.1 id
  have hengine : (s.completeWaits id).engine = s.engine := by rw [State.completeWaits_eq]
  by_cases hfin : ∃ w, s.engine = .finishing w ∧ w.images.erase id = []
  · obtain ⟨w, hw, hi⟩ := hfin
    have hmasters : ((s.completeWaits id).completeEngine id).masters =
        (s.completeWaits id).masters.set w.tag (.answered w.ack none) := by
      rw [State.completeEngine_ends (hengine.trans hw) hi, State.takeNext_eq]
      rfl
    have hapart : s.awaits w.tag = false :=
      ((h.tag w.tag).of_finishes (by simp [State.finishes, hw])).2.2
    rw [hmasters]
    refine ⟨fun v hv he => ?_, fun v hv _ => ?_, fun tag ht ht' => ?_⟩
    · have hne : v.tag ≠ w.tag := by
        intro e
        have := State.awaits_iff.2 (List.mem_map_of_mem (f := fun w : Wait => w.tag) hv)
        rw [e, hapart] at this
        cases this
      rw [Table.get_set_ne _ _ hne]
      exact hin v hv he
    · rw [hw] at hv
      cases hv
      exact Table.get_set_self _ _ _
    · rw [Table.get_set_ne _ _ (Ne.symm (ht' w hw hi))]
      exact hout tag ht
  · have hmasters : ((s.completeWaits id).completeEngine id).masters = (s.completeWaits id).masters := by
      unfold State.completeEngine
      split
      · rfl
      · rfl
      · next w hw =>
        rw [hengine] at hw
        simp only
        split
        · next hi => exact absurd ⟨w, hw, by simpa [Wait.without] using hi⟩ hfin
        · rfl
    rw [hmasters]
    exact ⟨hin, fun w hw hi => absurd ⟨w, hw, hi⟩ hfin, fun tag ht _ => hout tag ht⟩

/-- The state in which an image write has been answered, before those are told who wait for it. -/
def State.imageWritten (s : State) (hard : Bool) (id : ImageId) (rest : List ImageId) (base : Addr) : State :=
  { s with
    images := rest, portLast := .image
    mem := if hard = true then s.mem else Memory.writeWords s.mem (base.toNat + id.offset) (s.image id)
    published := if id = .status then ⟨s.flags, s.routeA, s.routeB⟩ else s.published }

/-- Those who wait for an image are told that it has been written. -/
def State.told (s : State) (id : ImageId) : State := (s.completeWaits id).completeEngine id

theorem State.told_eq (s : State) (id : ImageId) :
    s.told id = { s with
      waits := (s.waits.map fun w => w.without id).filter fun w => !w.images.isEmpty
      masters := (s.told id).masters, engine := (s.told id).engine, lastServed := (s.told id).lastServed } := by
  have h := State.completeEngine_eq (s.completeWaits id) id
  refine h.trans ?_
  exact congrArg (fun u : State => { u with
    masters := (s.told id).masters, engine := (s.told id).engine, lastServed := (s.told id).lastServed })
    (s.completeWaits_eq id)

theorem State.grantImage_told {s : State} {id : ImageId} {rest : List ImageId} {base : Addr}
    (hi : s.images = id :: rest) (hb : s.imageBase = some base) (hard : Bool) :
    s.grantImage hard = if hard = true then ((s.imageWritten hard id rest base).told id).raise .memory
      else (s.imageWritten hard id rest base).told id := by
  have hbase : (s.imageBase.map BitVec.toNat).getD 0 = base.toNat := by rw [hb]; rfl
  have hpublish : State.publish { s with
        images := rest
        mem := if hard = true then s.mem else Memory.writeWords s.mem (base.toNat + id.offset) (s.image id)
        portLast := .image } id = s.imageWritten hard id rest base := by
    unfold State.publish State.imageWritten
    split <;> rfl
  unfold State.grantImage
  rw [hi]
  simp only
  rw [hbase, hpublish]
  rfl

/-- The Engine's request goes on waiting, or ends, and the Engine stands otherwise. -/
theorem State.told_engine (s : State) (id : ImageId) :
    (∀ w, s.engine = .finishing w → w.images.erase id = [] → (s.told id).engine ≠ .finishing w) ∧
    (∀ w, s.engine = .finishing w → w.images.erase id ≠ [] →
      (s.told id).engine = .finishing (w.without id) ∧ (s.told id).lastServed = s.lastServed) ∧
    ((∀ w, s.engine ≠ .finishing w) → (s.told id).engine = s.engine ∧ (s.told id).lastServed = s.lastServed) := by
  have he : (s.completeWaits id).engine = s.engine := by rw [State.completeWaits_eq]
  have hl : (s.completeWaits id).lastServed = s.lastServed := by rw [State.completeWaits_eq]
  unfold State.told
  refine ⟨fun w hw hi => ?_, fun w hw hi => ?_, fun h => ?_⟩
  · rw [State.completeEngine_ends (he.trans hw) hi]
    exact State.takeNext_not_finishing (by simp) w
  · rw [State.completeEngine_waits (he.trans hw) hi]
    exact ⟨rfl, hl⟩
  · rw [State.completeEngine_other (by rw [he]; exact h)]
    exact ⟨he, hl⟩

/-- Settles O11. -/
theorem imageWriteCarriesTheRecordAsItStands : Obligations.ImageWriteCarriesTheRecordAsItStands := by
  intro s hard id rest base hg hgrant himages hbase hone
  have hx : exec (.portCycle 0 hard) s = .next (s.grantImage hard) := by
    show Host.Outcome.next (s.grant hard (s.granted false)) = _
    rw [hgrant]
    rfl
  have hu : OneCyclePerTag (s.imageWritten hard id rest base) := hone.of_same rfl rfl rfl rfl fun _ h => h
  obtain ⟨hin, hfin, hout⟩ := completed_masters hu id
  obtain ⟨hends, hwaits, hother⟩ := State.told_engine (s.imageWritten hard id rest base) id
  have hshape := State.told_eq (s.imageWritten hard id rest base) id
  rw [State.grantImage_told himages hbase] at hx
  have hguarded : ((s.imageWritten hard id rest base).told id).guarded = true := by
    rw [hshape]
    simp [State.guarded, State.imageWritten, hg]
  change ∀ w ∈ _, _ → ((s.imageWritten hard id rest base).told id).masters.get _ = _ at hin
  cases hard with
  | false =>
    refine ⟨_, hx, ?_, hin, fun w hw hi => ⟨hfin w hw hi, hends w hw hi⟩, hout, hwaits, hother⟩
    simpa [State.imageWritten] using hshape
  | true =>
    rw [if_pos rfl, State.raise_eq hguarded] at hx
    refine ⟨_, hx, ?_, hin, fun w hw hi => ⟨hfin w hw hi, hends w hw hi⟩, hout, hwaits, hother⟩
    have hflags : ((s.imageWritten true id rest base).told id).flags = s.flags := by rw [hshape]; rfl
    have himg : ((s.imageWritten true id rest base).told id).images = rest := by rw [hshape]; rfl
    have hflag : ((s.imageWritten true id rest base).told id).flag .memory = s.flag .memory := by
      simp [State.flag, hflags]
    rw [hflags, himg, hflag]
    have h := congrArg (fun u : State => { u with
      flags := s.flags ||| Flag.memory.bits
      images := if s.flag .memory = false ∧ ImageId.status ∉ rest then rest ++ [ImageId.status] else rest }) hshape
    simpa [State.imageWritten] using h

end Sys2Proof.Machine
end

section
/-! PROOF. The rotation of the port, and what goes on beside a request that looks no board up (R16, R18, R20). -/

namespace Sys2Proof.Machine

open Sys2Proof.Claims

/-! ### The rotation -/

theorem PortSource.following_nodup (p : PortSource) : p.following.Nodup := by
  cases p <;> decide

/-- The source that is granted has a cycle waiting, and none before it in the rotation has (R20). -/
theorem State.granted_some {s : State} {engine : Bool} {src : PortSource} (h : s.granted engine = some src) :
    s.presents engine src = true ∧ ∀ before after, s.portLast.following = before ++ src :: after →
      ∀ x ∈ before, s.presents engine x = false := by
  refine ⟨List.find?_some h, fun before after hf x hx => ?_⟩
  have hnodup := s.portLast.following_nodup
  rw [hf, List.nodup_append] at hnodup
  rw [State.granted, hf, List.find?_append] at h
  cases hb : before.find? (s.presents engine) with
  | none => simpa using List.find?_eq_none.1 hb x hx
  | some y =>
    rw [hb] at h
    cases h
    exact absurd rfl (hnodup.2.2 src (List.mem_of_find?_eq_some hb) src List.mem_cons_self)

/-- How many sources the rotation puts before the Engine after a grant (R20). -/
def PortSource.beforeEngine : PortSource → Nat
  | .pass => 0
  | .image => 1
  | .walker => 2
  | .engine => 3

/-- While the Engine presents its cycle the rotation comes to it, or to a source nearer to it (R20). -/
theorem State.granted_presented (s : State) :
    ∃ src, s.granted true = some src ∧
      (src ≠ .engine → src.beforeEngine < s.portLast.beforeEngine) := by
  unfold State.granted
  have hengine : s.presents true .engine = true := rfl
  cases s.portLast with
  | pass => exact ⟨.engine, by simp [PortSource.following, hengine], fun h => absurd rfl h⟩
  | image =>
    cases hp : s.presents true .pass with
    | true => exact ⟨.pass, by simp [PortSource.following, hp], by decide⟩
    | false => exact ⟨.engine, by simp [PortSource.following, hp, hengine], fun h => absurd rfl h⟩
  | walker =>
    cases hi : s.presents true .image with
    | true => exact ⟨.image, by simp [PortSource.following, hi], by decide⟩
    | false =>
      cases hp : s.presents true .pass with
      | true => exact ⟨.pass, by simp [PortSource.following, hi, hp], by decide⟩
      | false => exact ⟨.engine, by simp [PortSource.following, hi, hp, hengine], fun h => absurd rfl h⟩
  | engine =>
    cases hw : s.presents true .walker with
    | true => exact ⟨.walker, by simp [PortSource.following, hw], by decide⟩
    | false =>
      cases hi : s.presents true .image with
      | true => exact ⟨.image, by simp [PortSource.following, hw, hi], by decide⟩
      | false =>
        cases hp : s.presents true .pass with
        | true => exact ⟨.pass, by simp [PortSource.following, hw, hi, hp], by decide⟩
        | false => exact ⟨.engine, by simp [PortSource.following, hw, hi, hp, hengine], fun h => absurd rfl h⟩

/-! ### The last grant -/

theorem State.raise_portLast (s : State) (f : Flag) : (s.raise f).portLast = s.portLast := by
  unfold State.raise
  rw [Run.queued_eq]
  unfold Run.raise
  split
  · rw [Run.image_st]; rfl
  · rfl

theorem State.unmark_portLast (s : State) (job : Job) (i : Fin 64) (failed : Bool) :
    (s.unmark job i failed).portLast = s.portLast := by
  unfold State.unmark
  split
  · rfl
  · split
    · split <;> rfl
    · rfl

theorem State.endWriteBack_portLast (s : State) (j : RunningJob) (failed : Bool) :
    (s.endWriteBack j failed).portLast = s.portLast := by
  unfold State.endWriteBack
  simp only [State.setJob_portLast]
  split
  · rfl
  · exact State.unmark_portLast _ _ _ _

theorem State.grantWalker_portLast (s : State) (hard : Bool) : (s.grantWalker hard).portLast = s.portLast := by
  have hload (j : RunningJob) (n : Nest) (d : Descriptor) : (s.loadCycle j n d hard).portLast = s.portLast := by
    unfold State.loadCycle
    simp only
    split
    · split
      · rfl
      · exact State.withNest_portLast _ _ _
    · split
      · rfl
      · split
        · rfl
        · unfold State.takeRecord
          split
          · simp only; split <;> rfl
          · rfl
    · split
      · rfl
      · split <;> rfl
    all_goals rfl
  have hflush (j : RunningJob) : (s.flushCycle j hard).portLast = s.portLast := by
    unfold State.flushCycle
    split
    · split
      · exact State.endWriteBack_portLast _ _ _
      · simp only
        split
        · rfl
        · exact State.endWriteBack_portLast _ _ _
    all_goals rfl
  unfold State.grantWalker
  split
  · rfl
  · rfl
  · next j _ =>
    have hjob : (match j.job with
      | .load n d => s.loadCycle j n d hard
      | .sync _ | .release _ => s.flushCycle j hard).portLast = s.portLast := by
      split
      · exact hload _ _ _
      · exact hflush _
      · exact hflush _
    simp only
    split
    · rw [State.raise_portLast]; exact hjob
    · exact hjob

/-- A source that is granted is the last granted (R20). -/
theorem State.grant_portLast {s : State} {src : PortSource} (h : s.presents true src = true)
    (hne : src ≠ .engine) : (s.grant false (some src)).portLast = src := by
  cases src with
  | engine => exact absurd rfl hne
  | pass =>
    obtain ⟨t, ht⟩ := Option.isSome_iff_exists.1 h
    have hp : (s.pass.get t).isSome = true := by
      exact List.find?_some (p := fun t => (s.pass.get t).isSome) ht
    obtain ⟨c, hc⟩ := Option.isSome_iff_exists.1 hp
    simp [State.grant, State.grantPass, ht, hc]
  | walker => exact State.grantWalker_portLast _ _
  | image =>
    cases hi : s.images with
    | nil => simp [State.presents, hi] at h
    | cons id rest =>
      have hpublish (u : State) : (u.publish id).portLast = u.portLast := by
        unfold State.publish; split <;> rfl
      have htold (u : State) : (u.told id).portLast = u.portLast := by rw [State.told_eq]
      unfold State.grant State.grantImage
      rw [hi]
      simp only
      exact (htold _).trans (hpublish _)

/-- The Engine's cycle takes its turn among the sources, with at most three grants before it (R20). -/
theorem State.yieldPort_turn (m : Nat) (s : State) (hm : s.portLast.beforeEngine ≤ m) :
    ∃ n, n ≤ m ∧ s.yieldPort m = s.yieldPort n ∧ (s.yieldPort n).granted true = some .engine ∧
      ∀ k, k < n → ∃ src, src ≠ .engine ∧ (s.yieldPort k).granted true = some src ∧
        s.yieldPort (k + 1) = (s.yieldPort k).grant false (some src) := by
  induction m generalizing s with
  | zero =>
    obtain ⟨src, hsrc, hnear⟩ := s.granted_presented
    have he : src = .engine := by
      by_contra hne
      have := hnear hne
      omega
    exact ⟨0, le_rfl, rfl, he ▸ hsrc, fun k hk => absurd hk (Nat.not_lt_zero k)⟩
  | succ m ih =>
    obtain ⟨src, hsrc, hnear⟩ := s.granted_presented
    by_cases he : src = .engine
    · subst he
      refine ⟨0, Nat.zero_le _, ?_, hsrc, fun k hk => absurd hk (Nat.not_lt_zero k)⟩
      simp [State.yieldPort, hsrc]
    · have hstep (k : Nat) : s.yieldPort (k + 1) = (s.grant false (some src)).yieldPort k := by
        cases src with
        | engine => exact absurd rfl he
        | _ => simp [State.yieldPort, hsrc]
      have hlast := State.grant_portLast (State.granted_some hsrc).1 he
      obtain ⟨n, hn, heq, hgrant, hsteps⟩ := ih (s.grant false (some src)) (by
        have := hnear he
        rw [hlast]
        omega)
      refine ⟨n + 1, Nat.succ_le_succ hn, by rw [hstep, hstep, heq], by rw [hstep]; exact hgrant, fun k hk => ?_⟩
      cases k with
      | zero => exact ⟨src, he, hsrc, hstep 0⟩
      | succ k =>
        obtain ⟨x, hx, hxg, hxs⟩ := hsteps k (Nat.lt_of_succ_lt_succ hk)
        exact ⟨x, hx, by rw [hstep]; exact hxg, by rw [hstep (k + 1), hstep k]; exact hxs⟩

/-! ### After the Engine's grant -/

theorem State.takeCycle_portLast (s : State) (c : Cycle) : (s.takeCycle c).portLast = s.portLast := by
  have hawait (r : Run) (a : Ack) (h : r.st.portLast = s.portLast) :
      (r.awaitImages c.tag a).portLast = s.portLast := by rw [Run.awaitImages_eq]; exact h
  have hraise (r : Run) (f : Flag) : (r.raise f).st.portLast = r.st.portLast := by
    unfold Run.raise
    split
    · rw [Run.image_st]; rfl
    · rfl
  unfold State.takeCycle
  simp only
  generalize State.classify _ c = f
  cases f with
  | pass => rfl
  | boardRead b word =>
    unfold State.dispatch State.readBoard
    simp only
    split <;> rfl
  | held cls => exact State.takeNext_portLast _
  | refused cause =>
    refine hawait _ _ ?_
    unfold Run.refusal Run.fillCapture
    split
    · split
      · rw [Run.image_st, hraise, Run.image_st]; rfl
      · rw [Run.image_st, hraise]; rfl
    · rfl
  | guarded =>
    refine hawait _ _ ?_
    unfold Run.guardRefusal
    rw [Run.image_st, hraise]
    rfl
  | plain a => rfl

theorem State.startJob_portLast (s : State) : s.startJob.portLast = s.portLast := by
  unfold State.startJob
  split <;> rfl

theorem State.scan_portLast (s : State) (n : Nat) : (s.scan n).portLast = s.portLast := by rw [State.scan_eq]

theorem State.endJob_portLast (s : State) : s.endJob.portLast = s.portLast := by
  have hload (s : State) : s.endLoadJob.portLast = s.portLast := by
    unfold State.endLoadJob
    split
    · split
      · split
        · rfl
        · exact State.takeNext_portLast _
      · rfl
    · rfl
    · rfl
  have hsync (s : State) : s.endSyncJob.portLast = s.portLast := by
    have h := s.scan_portLast 64
    unfold State.endSyncJob
    generalize s.scan 64 = u at h
    split
    · split
      · split
        · exact (State.takeNext_portLast _).trans h
        · rfl
      · rfl
      · rfl
    · rfl
    · rfl
  have hrelease (s : State) : s.endReleaseJob.portLast = s.portLast := by
    have h := s.scan_portLast 64
    unfold State.endReleaseJob
    generalize s.scan 64 = u at h
    split
    · split
      · split
        · exact (State.takeNext_portLast _).trans h
        · rfl
      · rfl
      · rfl
    · rfl
    · rfl
  exact (hrelease _).trans ((hsync _).trans (hload s))

/-- While memory has the Engine's cycle the port grants nothing else (R20). -/
theorem State.meanwhile_inFlight_portLast (s : State) (m : Meanwhile) :
    (s.meanwhile .inFlight m).portLast = s.portLast := by
  cases m with
  | timebase => show s.tick.portLast = _; rw [State.tick_eq]
  | arrival c =>
    show State.portLast (if s.masters.get c.tag = .waiting then s else s.takeCycle c) = _
    split
    · rfl
    · exact s.takeCycle_portLast c
  | portCycle visits hard => exact s.scan_portLast visits
  | jobStart => exact s.startJob_portLast
  | jobEnd => exact s.endJob_portLast

theorem State.await_portLast (s : State) (a : MemAnswer) : (s.await a).portLast = .engine := by
  have hfold : ∀ (l : List Meanwhile) (u : State), (l.foldl (State.meanwhile .inFlight) u).portLast = u.portLast := by
    intro l
    induction l with
    | nil => exact fun _ => rfl
    | cons m l ih => exact fun u => (ih _).trans (u.meanwhile_inFlight_portLast m)
  exact hfold _ _

/-! ### What a wait changes of the cache and the Type Stores -/

/-- What goes on beside a request makes of the cache and the Type Stores: entries go or are marked anew, the
order loses entries, and a Type Store changes under a LOAD job of its nest (R42, R49, R53, R60). -/
structure State.Wanes (s t : State) : Prop where
  cache   : ∀ i l', t.cache.get i = some l' →
    ∃ l, s.cache.get i = some l ∧ l.board = l'.board ∧ l.words = l'.words
  recency : t.recency.Sublist s.recency
  types   : ∀ n, (t.nest n).types = (s.nest n).types ∨ Loads s.walker s.jobs n
  loads   : ∀ n, Loads t.walker t.jobs n → Loads s.walker s.jobs n

theorem State.Wanes.refl (s : State) : s.Wanes s :=
  ⟨fun _ l' h => ⟨l', h, rfl, rfl⟩, .refl _, fun _ => .inl rfl, fun _ h => h⟩

theorem State.Wanes.trans {s t u : State} (h : s.Wanes t) (k : t.Wanes u) : s.Wanes u where
  cache i l' hl := by
    obtain ⟨l, hl, hb, hw⟩ := k.cache i l' hl
    obtain ⟨l₀, hl₀, hb₀, hw₀⟩ := h.cache i l hl
    exact ⟨l₀, hl₀, hb₀.trans hb, hw₀.trans hw⟩
  recency := k.recency.trans h.recency
  types n := by
    rcases k.types n with hk | hk
    · rcases h.types n with hh | hh
      · exact .inl (hk.trans hh)
      · exact .inr hh
    · exact .inr (h.loads n hk)
  loads n hn := h.loads n (k.loads n hn)

/-- A change that leaves the cache, the walker and the nests. -/
theorem State.Wanes.of_same {s t : State} (hc : t.cache = s.cache) (hr : t.recency = s.recency)
    (hw : t.walker = s.walker) (hj : t.jobs = s.jobs) (hn : ∀ n, t.nest n = s.nest n) : s.Wanes t where
  cache i l' hl := ⟨l', hc ▸ hl, rfl, rfl⟩
  recency := hr ▸ .refl _
  types n := .inl (by rw [hn])
  loads n h := by rwa [hw, hj] at h

theorem State.Beat.wanes {s t : State} (b : s.Beat t) : s.Wanes t := by
  cases b with
  | aside e =>
    rw [State.eq_of_muted e]
    exact .of_same rfl rfl rfl rfl fun n => by cases n <;> rfl
  | tick => rw [State.tick_eq]; exact .of_same rfl rfl rfl rfl fun n => by cases n <;> rfl
  | takeNext => rw [State.takeNext_eq]; exact .of_same rfl rfl rfl rfl fun n => by cases n <;> rfl
  | waits id => rw [State.completeWaits_eq]; exact .of_same rfl rfl rfl rfl fun n => by cases n <;> rfl
  | engine id => rw [State.completeEngine_eq]; exact .of_same rfl rfl rfl rfl fun n => by cases n <;> rfl
  | job w jobs h => exact ⟨fun _ l' hl => ⟨l', hl, rfl, rfl⟩, .refl _, fun n => .inl (by cases n <;> rfl), h⟩
  | types n ts h =>
    refine ⟨fun i l' hl => ⟨l', ?_, rfl, rfl⟩, ?_, fun m => ?_, fun m hm => ?_⟩
    · cases n <;> exact hl
    · cases n <;> exact .refl _
    · by_cases hmn : m = n
      · exact .inr (hmn ▸ h)
      · rw [State.nest_withNest, if_neg hmn]
        exact .inl rfl
    · cases n <;> exact hm
  | mark i l l' hl hb hw =>
    refine ⟨fun j x hx => ?_, .refl _, fun n => .inl (by cases n <;> rfl), fun _ h => h⟩
    change (s.cache.set i (some l')).get j = some x at hx
    rw [Table.get_set] at hx
    split at hx
    · next hji =>
      cases hx
      exact ⟨l, hji ▸ hl, hb.symm, hw.symm⟩
    · exact ⟨x, hx, rfl, rfl⟩
  | drop i =>
    refine ⟨fun j x hx => ?_, List.erase_sublist, fun n => .inl (by cases n <;> rfl), fun _ h => h⟩
    change (s.cache.set i none).get j = some x at hx
    rw [Table.get_set] at hx
    split at hx
    · cases hx
    · exact ⟨x, hx, rfl, rfl⟩
  | _ => exact .of_same rfl rfl rfl rfl fun n => by cases n <;> rfl

theorem State.Beats.wanes {s t : State} (h : s.Beats t) : s.Wanes t :=
  h.kept (P := s.Wanes) (fun b k => k.trans b.wanes) (.refl s)

/-- What goes on beside a request changes nothing that the Engine judges by (R18). -/
theorem onlyBeside_of_beside {s t : State} {p : Fin 18} (h : s.Beside t) (e : s.engine = .serving p) :
    OnlyBeside s t := by
  refine ⟨?_, h.nest e⟩
  have := congrArg (fun u : State => { u with
    masters := t.masters, waits := t.waits, pass := t.pass, passLast := t.passLast
    requests := t.requests, portLast := t.portLast, images := t.images, cache := t.cache
    recency := t.recency, walker := t.walker, jobs := t.jobs, nestA := t.nestA, nestB := t.nestB
    due := t.due, time := t.time, flags := t.flags, captures := t.captures, lastGuard := t.lastGuard
    published := t.published, mem := t.mem }) (h p e)
  exact this

theorem undisturbed_of_beats {s t : State} {p : Fin 18} (h : s.Beside t) (b : s.Beats t)
    (e : s.engine = .serving p) : Undisturbed s t where
  beside := onlyBeside_of_beside h e
  cache := b.wanes.cache
  recency := b.wanes.recency
  types := b.wanes.types

/-- Settles O12. -/
theorem portGrantsInRotation : Obligations.PortGrantsInRotation := by
  refine ⟨fun s engine src h => State.granted_some h, fun s => State.yieldPort_turn 3 s ?_, fun s answers p e =>
    ⟨s.await_portLast _, undisturbed_of_beats (s.awaitNext_beside answers) (s.await_beats _) e⟩⟩
  cases s.portLast <;> decide

end Sys2Proof.Machine
end

section
/-! PROOF. The walker's jobs and cycles (R51, R53 to R57, R60 to R62). -/

namespace Sys2Proof.Machine

open Sys2Proof.Claims

/-! ### Visits -/

/-- A visit of an entry that needs no write-back: a RELEASE job drops one of its nest, and the scan passes on
(R55 to R57). -/
theorem State.visit_clean {s : State} {j : RunningJob} {i : Fin 64} (hw : s.walker = .running j)
    (hp : j.phase = .scanning) (hi : j.scan = i.val)
    (hclean : ∀ l, s.cache.get i = some l → l.board.nest = j.job.nest → l.dirty = false) :
    s.visit = (if j.job = .release j.job.nest ∧ (s.cache.get i).any (fun l => l.board.nest == j.job.nest) = true
      then s.invalidate i else s).setJob j.passOn := by
  have hfin : asFin 64 j.scan = some i := asFin_some.2 hi
  simp only [State.visit, hw, hp, hfin]
  cases hl : s.cache.get i with
  | none => simp
  | some l =>
    by_cases hn : l.board.nest = j.job.nest
    · simp only [hn, if_true, hclean l hl hn, Bool.false_eq_true, if_false, State.visitClean]
      cases hj : j.job with
      | release n => simp [Job.nest, hj, hn]
      | sync n => simp
      | load n d => simp
    · simp [hn]

/-- A visit when the scan has passed the last entry. -/
theorem State.visit_past {s : State} {j : RunningJob} (hw : s.walker = .running j)
    (hend : asFin 64 j.scan = none) : s.visit = s := by
  simp only [State.visit, hw, hend]
  cases j.phase <;> rfl

theorem State.scan_past (m : Nat) {s : State} {j : RunningJob} (hw : s.walker = .running j)
    (hend : asFin 64 j.scan = none) : s.scan m = s := by
  induction m with
  | zero => rfl
  | succ m ih => rw [State.scan, State.visit_past hw hend, ih]

/-- An entry is of a nest. -/
def CacheLine.of (n : Nest) (l : Option CacheLine) : Bool := l.any fun l => l.board.nest == n

/-- The scan of a job has come to an entry without a write-back: a RELEASE job has dropped the entries of its
nest on the way, another job has changed nothing (R55 to R57). -/
structure State.Scanned (s : State) (j : RunningJob) (k : Nat) (t : State) : Prop where
  only    : t = { s with cache := t.cache, recency := t.recency, walker := .running { j with scan := k } }
  cache   : ∀ i, t.cache.get i =
    if j.job = .release j.job.nest ∧ j.scan ≤ i.val ∧ i.val < k ∧ CacheLine.of j.job.nest (s.cache.get i) = true
      then none else s.cache.get i
  recency : j.job ≠ .release j.job.nest → t.recency = s.recency

theorem State.Scanned.refl {s : State} {j : RunningJob} (hw : s.walker = .running j) :
    s.Scanned j j.scan s where
  only := by rw [← hw]
  cache i := by rw [if_neg]; omega
  recency _ := rfl

/-- One visit, and what the scan makes of the rest. -/
theorem State.Scanned.visit {s t : State} {j : RunningJob} {k : Nat} {i : Fin 64} (hi : j.scan = i.val)
    (hk : j.scan + 1 ≤ k)
    (h : ((if j.job = .release j.job.nest ∧ CacheLine.of j.job.nest (s.cache.get i) = true
      then s.invalidate i else s).setJob { j with scan := j.scan + 1 }).Scanned { j with scan := j.scan + 1 } k t) :
    s.Scanned j k t where
  only := by
    rw [h.only]
    split <;> rfl
  cache x := by
    rw [h.cache]
    by_cases hx : x = i
    · subst hx
      rw [if_neg (fun hc => absurd hc.2.1 (by simp only; omega))]
      by_cases hdrop : j.job = .release j.job.nest ∧ CacheLine.of j.job.nest (s.cache.get x) = true
      · rw [if_pos hdrop, if_pos ⟨hdrop.1, by omega, by omega, hdrop.2⟩]
        exact Table.get_set_self _ _ _
      · rw [if_neg hdrop, if_neg (fun hc => hdrop ⟨hc.1, hc.2.2.2⟩)]
        rfl
    · have hne : j.scan ≠ x.val := fun e => hx (Fin.ext (e.symm.trans hi))
      have hg : ((if j.job = .release j.job.nest ∧ CacheLine.of j.job.nest (s.cache.get i) = true
          then s.invalidate i else s).setJob { j with scan := j.scan + 1 }).cache.get x = s.cache.get x := by
        split
        · exact Table.get_set_ne _ _ hx
        · rfl
      have hlt : j.scan + 1 ≤ x.val ↔ j.scan ≤ x.val := by omega
      simp only [hg, hlt]
  recency hr := by
    rw [h.recency hr, if_neg fun hc => hr hc.1]
    rfl

/-- A scan over entries that need no write-back. -/
theorem State.scan_clean (m : Nat) {s : State} {j : RunningJob} (hw : s.walker = .running j)
    (hp : j.phase = .scanning)
    (hclean : ∀ i l, j.scan ≤ i.val → s.cache.get i = some l → l.board.nest = j.job.nest → l.dirty = false) :
    ∃ k, j.scan ≤ k ∧ (64 ≤ k ∨ j.scan + m ≤ k) ∧ s.Scanned j k (s.scan m) := by
  induction m generalizing s j with
  | zero => exact ⟨j.scan, le_rfl, .inr le_rfl, .refl hw⟩
  | succ m ih =>
    cases hend : asFin 64 j.scan with
    | none =>
      have hpast : 64 ≤ j.scan := by simpa [asFin] using hend
      rw [State.scan_past (m + 1) hw hend]
      exact ⟨j.scan, le_rfl, .inl hpast, .refl hw⟩
    | some i =>
      have hi := asFin_some.1 hend
      have hnext : j.passOn = { j with scan := j.scan + 1 } := by simp [RunningJob.passOn, hp]
      have hv := State.visit_clean hw hp hi fun l => hclean i l (by omega)
      rw [hnext] at hv
      obtain ⟨k, hle, hk, h⟩ := ih (s := s.visit) (j := { j with scan := j.scan + 1 }) (by rw [hv]; rfl) hp
        fun x l hx hl => by
          have hne : x ≠ i := fun e => by rw [e] at hx; simp only at hx; omega
          refine hclean x l (by simp only at hx; omega) ?_
          rw [← hl, hv]
          split
          · exact (Table.get_set_ne _ _ hne).symm
          · rfl
      simp only at hle hk
      rw [State.scan]
      refine ⟨k, by omega, by omega, .visit hi hle ?_⟩
      rw [hv] at h ⊢
      exact h

/-! ### The end of a job -/

/-- A flush job with no write-back left: its scan passes every entry. -/
theorem State.scan_all {s : State} {j : RunningJob} (hw : s.walker = .running j) (hp : j.phase = .scanning)
    (hclean : ∀ i l, j.scan ≤ i.val → s.cache.get i = some l → l.board.nest = j.job.nest → l.dirty = false) :
    ∃ k, 64 ≤ k ∧ s.Scanned j k (s.scan 64) := by
  obtain ⟨k, hle, hk, h⟩ := State.scan_clean 64 hw hp hclean
  exact ⟨k, by omega, h⟩

theorem RunningJob.scanEnded_past {j : RunningJob} (hp : j.phase = .scanning) (hk : 64 ≤ j.scan) :
    j.scanEnded = true := by
  simp [RunningJob.scanEnded, hp, hk]

theorem endSyncJob_of_ended {s : State} {j : RunningJob} {n : Nest} (hw : (s.scan 64).walker = .running j)
    (hj : j.job = .sync n) (he : j.scanEnded = true) :
    s.endSyncJob =
      State.takeNext { s.scan 64 with walker := .waiting (.sync n (!j.redirtied) j.failure.isSome) } := by
  unfold State.endSyncJob
  generalize s.scan 64 = t at hw ⊢
  simp only [hw, hj, he, if_true]

theorem endReleaseJob_of_ended {s : State} {j : RunningJob} {n : Nest}
    (hw : (s.scan 64).walker = .running j) (hj : j.job = .release n) (he : j.scanEnded = true) :
    s.endReleaseJob =
      State.takeNext { s.scan 64 with walker := .waiting (.release n j.failure.isSome) } := by
  unfold State.endReleaseJob
  generalize s.scan 64 = t at hw ⊢
  simp only [hw, hj, he, if_true]

/-- A SYNC job's scan has changed nothing but its scan point. -/
theorem State.Scanned.sync {s t : State} {j : RunningJob} {k : Nat} (h : s.Scanned j k t)
    (hj : j.job ≠ .release j.job.nest) : t = { s with walker := .running { j with scan := k } } := by
  have hc : t.cache = s.cache := Table.ext_get fun i => by rw [h.cache, if_neg fun hc => hj hc.1]
  have e := h.only
  rw [hc, h.recency hj] at e
  exact e

theorem endSyncJob_of_clean {s : State} {j : RunningJob} {n : Nest} (hw : s.walker = .running j)
    (hp : j.phase = .scanning) (hj : j.job = .sync n)
    (hclean : ∀ i l, j.scan ≤ i.val → s.cache.get i = some l → l.board.nest = n → l.dirty = false) :
    s.endSyncJob = State.takeNext { s with walker := .waiting (.sync n (!j.redirtied) j.failure.isSome) } := by
  obtain ⟨k, hk, h⟩ := State.scan_all hw hp (by rw [hj]; exact hclean)
  have hs := h.sync (by rw [hj]; exact nofun)
  rw [endSyncJob_of_ended (j := { j with scan := k }) (by rw [hs]) hj (RunningJob.scanEnded_past hp hk), hs]

theorem endReleaseJob_of_clean {s : State} {j : RunningJob} {n : Nest} (hw : s.walker = .running j)
    (hp : j.phase = .scanning) (hj : j.job = .release n)
    (hclean : ∀ i l, j.scan ≤ i.val → s.cache.get i = some l → l.board.nest = n → l.dirty = false) :
    s.endReleaseJob = State.takeNext { s with
        walker := .waiting (.release n j.failure.isSome), cache := s.endReleaseJob.cache
        recency := s.endReleaseJob.recency } ∧
      ∀ i, s.endReleaseJob.cache.get i =
        if j.scan ≤ i.val ∧ CacheLine.of n (s.cache.get i) = true then none else s.cache.get i := by
  obtain ⟨k, hk, h⟩ := State.scan_all hw hp (by rw [hj]; exact hclean)
  have hs : (s.scan 64).walker = .running { j with scan := k } := by rw [h.only]
  rw [endReleaseJob_of_ended (j := { j with scan := k }) hs hj (RunningJob.scanEnded_past hp hk), State.takeNext_cache, State.takeNext_recency]
  constructor
  · exact congrArg (fun u : State => State.takeNext { u with walker := .waiting (.release n j.failure.isSome) })
      h.only
  · intro i
    rw [show ({ s.scan 64 with walker := .waiting (.release n j.failure.isSome) } : State).cache =
      (s.scan 64).cache from rfl, h.cache, hj]
    have hik : i.val < k := by omega
    simp [Job.nest, hik]

/-- Settles O49: the branches of the job's start and end, and the scan over clean entries. -/
theorem walkerStartsAndEndsJobs : Obligations.WalkerStartsAndEndsJobs := by
  unfold Obligations.WalkerStartsAndEndsJobs
  intro s
  refine ⟨fun job rest hw hj => ?_, fun j n d result hw hj hp => ?_, fun j n hw hp hclean => ⟨fun hj => ?_, fun hj => ?_⟩⟩
  · show Host.Outcome.next s.startJob = _
    simp only [State.startJob, hw, hj]
    cases job <;> rfl
  · show Host.Outcome.next s.endLoadJob = _
    simp only [State.endLoadJob, hw, hj, hp]
  · show Host.Outcome.next s.endSyncJob = _
    rw [endSyncJob_of_clean hw hp hj hclean]
  · obtain ⟨he, hc⟩ := endReleaseJob_of_clean hw hp hj hclean
    exact ⟨s.endReleaseJob, rfl, he, hc⟩

end Sys2Proof.Machine
end

section
/-! PROOF. The walker's downstream cycles (R51, R53 to R57, R60 to R62). -/

namespace Sys2Proof.Machine

open Sys2Proof.Claims

/-! ### The checks of word 1 and of a record -/

theorem Grade.ofCode_isSome (k : Nat) : (Grade.ofCode k).isSome = true ↔ k ≤ 2 := by
  match k with
  | 0 => decide
  | 1 => decide
  | 2 => decide
  | k + 3 =>
    rw [show Grade.ofCode (k + 3) = none from rfl]
    simp

theorem boardWord1Valid_iff (w1 : Word) :
    boardWord1Valid w1 = true ↔ bits w1 0 2 ≤ 2 ∧ (bit w1 16 = true → bits w1 17 5 < 16) := by
  have hl : (boardLane w1).all (· < 16) = true ↔ (bit w1 16 = true → bits w1 17 5 < 16) := by
    unfold boardLane
    cases bit w1 16 <;> simp
  rw [boardWord1Valid, Bool.and_eq_true, hl]
  exact and_congr_left' (Grade.ofCode_isSome _)

theorem recordValid_iff (c : NestContext) (pos : Nat) (w : BoardWords) :
    recordValid c.types pos w = true ↔ RecordFits c pos w := by
  have hm : maskWithin w.hw.cutMask w.hw.tabs = true ↔ w.hw.cutMask.toNat < 2 ^ w.hw.tabs := by
    simp [maskWithin]
  simp only [recordValid, RecordFits, Bool.and_eq_true, beq_iff_eq, decide_eq_true_eq, boardWord1Valid_iff, hm,
    and_assoc]

theorem normalised_eq (w : BoardWords) (policy : XoutPolicy) : Normalised w policy = w.normal policy := rfl

theorem loadGoesOn_eq (j : RunningJob) (d : Descriptor) (left : Bool) :
    LoadGoesOn j d left = j.nextPosition d left := by
  unfold LoadGoesOn RunningJob.nextPosition
  cases left <;> simp

/-! ### The writes of a write-back -/

theorem writesBack_offset {k : Nat} (hk : k < 3) : writeBackOffset k = WritesBack.offset k := by
  match k, hk with
  | 0, _ => rfl
  | 1, _ => rfl
  | 2, _ => rfl

theorem writesBack_word (w : BoardWords) {k : Nat} (hk : k < 3) : w.backWord k = WritesBack.word w k := by
  match k, hk with
  | 0, _ => rfl
  | 1, _ => rfl
  | 2, _ => rfl

/-! ### A grant of the walker -/

theorem exec_portCycle_walker {s : State} {visits : Nat} (hg : (s.scan visits).granted false = some .walker)
    (hard : Bool) :
    exec (.portCycle visits hard) s = .next (State.grantWalker { s.scan visits with portLast := .walker } hard) := by
  show Host.Outcome.next ((s.scan visits).grant hard ((s.scan visits).granted false)) = _
  rw [hg]
  rfl

theorem State.grantWalker_load {v : State} {j : RunningJob} {n : Nest} {d : Descriptor}
    (hw : v.walker = .running j) (hj : j.job = .load n d) (hard : Bool) :
    v.grantWalker hard = if hard = true then (v.loadCycle j n d true).raise .memory else v.loadCycle j n d false := by
  simp only [State.grantWalker, hw, hj]
  cases hard <;> rfl

theorem State.grantWalker_flush {v : State} {j : RunningJob} (hw : v.walker = .running j)
    (hj : ∀ n d, j.job ≠ .load n d) (hard : Bool) :
    v.grantWalker hard = if hard = true then (v.flushCycle j true).raise .memory else v.flushCycle j false := by
  simp only [State.grantWalker, hw]
  cases hjob : j.job with
  | load n d => exact absurd hjob (hj n d)
  | sync n => cases hard <;> rfl
  | release n => cases hard <;> rfl

/-- The flags and images of a HARD to the walker (R53, R180). -/
theorem State.raise_hard {s : State} (hg : s.mode = .guarded) (f : Flag) :
    s.raise f = { s with flags := s.flags ||| f.bits, images := (s.raise f).images } ∧
      ∀ id, id ∈ (s.raise f).images ↔ id ∈ s.images ∨ (id = .status ∧ s.flag f = false) := by
  rw [State.raise_eq (s.guarded_iff.2 hg)]
  refine ⟨rfl, fun id => ?_⟩
  by_cases hf : s.flag f = false ∧ ImageId.status ∉ s.images
  · simp [hf]
  · rw [if_neg hf]
    constructor
    · exact .inl
    · rintro (h | ⟨rfl, hflag⟩)
      · exact h
      · by_contra hn
        exact hf ⟨hflag, hn⟩

/-! ### A load job's cycle -/

/-- Where a load job's cycle stands: in the type table, or at a record (R52, R54). -/
def LoadAt (j : RunningJob) (pos : Option Nat) : Prop :=
  (∃ k, j.phase = .types k ∧ pos = none) ∨ (∃ ws, j.phase = .record ws ∧ pos = some j.scan) ∨
    ∃ k w, j.phase = .storing k w ∧ pos = some j.scan

theorem State.loadCycle_hard {v : State} {j : RunningJob} {n : Nest} {d : Descriptor} {pos : Option Nat}
    (h : LoadAt j pos) : v.loadCycle j n d true = v.failLoad j pos := by
  rcases h with ⟨k, hp, rfl⟩ | ⟨ws, hp, rfl⟩ | ⟨k, w, hp, rfl⟩ <;> simp only [State.loadCycle, hp, if_true]

theorem State.loadCycle_types {v : State} {j : RunningJob} {n : Nest} {d : Descriptor} {k : Nat}
    (hp : j.phase = .types k) (hk : k < 64) :
    v.loadCycle j n d false = { v.withNest n { v.nest n with
        types := (v.nest n).types.set (Fin.ofNat 64 k)
          (typeEntryOf (Memory.readWord v.mem ((d.typeBase.toNat + 8 * k) % Config.addressSpace))) } with
      walker := .running { j with phase := if k = 63 then .record [] else .types (k + 1) } } := by
  have hlast : (if k + 1 < 64 then JobPhase.types (k + 1) else .record []) =
      if k = 63 then .record [] else .types (k + 1) := by
    by_cases h : k = 63
    · rw [if_pos h, if_neg (by omega)]
    · rw [if_neg h, if_pos (by omega)]
  simp only [State.loadCycle, hp, Bool.false_eq_true, if_false, State.takeType, hlast]
  rfl

theorem State.loadCycle_record {v : State} {j : RunningJob} {n : Nest} {d : Descriptor} {ws : List Word}
    (hp : j.phase = .record ws) (hl : ws.length < 3) :
    v.loadCycle j n d false = { v with
      walker := .running { j with
        phase := .record (ws ++
          [Memory.readWord v.mem (d.tableBase.toNat + 32 * j.scan + 8 * ws.length)]) } } := by
  have hlen : ∀ w : Word, (ws ++ [w]).length < 4 := fun w => by simp; omega
  simp only [State.loadCycle, hp, Bool.false_eq_true, if_false, hlen, if_true]
  rfl

theorem State.loadCycle_judged {v : State} {j : RunningJob} {n : Nest} {d : Descriptor} {w0 w1 w2 : Word}
    (hp : j.phase = .record [w0, w1, w2]) :
    v.loadCycle j n d false =
      v.takeRecord j n d ⟨w0, w1, w2, Memory.readWord v.mem (d.tableBase.toNat + 32 * j.scan + 24)⟩ := by
  simp only [State.loadCycle, hp, Bool.false_eq_true, if_false]
  rfl

theorem State.takeRecord_fits {v : State} {j : RunningJob} {n : Nest} {d : Descriptor} {w : BoardWords}
    (h : RecordFits (v.nest n) j.scan w) :
    v.takeRecord j n d w = { v with
      walker := .running (
        if w.sameFields (w.withHw (Normalised w d.policy)) = true then
          LoadGoesOn j d ((Normalised w d.policy).state == .left)
        else { j with phase := .storing 0 (w.withHw { Normalised w d.policy with time := v.time }) }) } := by
  rw [State.takeRecord, if_pos ((recordValid_iff _ _ _).2 h), loadGoesOn_eq, normalised_eq]
  dsimp only
  split <;> rfl

theorem State.takeRecord_misfits {v : State} {j : RunningJob} {n : Nest} {d : Descriptor} {w : BoardWords}
    (h : ¬RecordFits (v.nest n) j.scan w) :
    v.takeRecord j n d w = { v with walker := .running { j with phase := .ended (.invalid j.scan) } } := by
  rw [State.takeRecord, if_neg (fun hv => h ((recordValid_iff _ _ _).1 hv))]
  rfl

theorem State.loadCycle_storing {v : State} {j : RunningJob} {n : Nest} {d : Descriptor} {k : Nat}
    {w : BoardWords} (hp : j.phase = .storing k w) (hk : k < 3) :
    v.loadCycle j n d false = { v with
      mem := Memory.writeBytes v.mem (d.tableBase.toNat + 32 * j.scan + WritesBack.offset k)
        (WritesBack.word w k) 8
      walker := .running (if k < 2 then { j with phase := .storing (k + 1) w }
        else LoadGoesOn j d (w.hw.state == .left)) } := by
  simp only [State.loadCycle, hp, Bool.false_eq_true, if_false, writesBack_offset hk, writesBack_word w hk,
    loadGoesOn_eq]
  split <;> rfl

/-! ### A write-back's cycle -/

/-- What a write-back leaves of its entry (R56, R57; notes/assumptions/28.md). -/
def CacheLine.unmarked (job : Job) (failed : Bool) (x : Option CacheLine) : Option CacheLine :=
  match x with
  | some l =>
    if l.writeBack = false then some l
    else if job = .release job.nest then none
    else some { l with dirty := l.dirty || failed, writeBack := false }
  | none => none

theorem State.unmark_eq (s : State) (job : Job) (i : Fin 64) (failed : Bool) :
    s.unmark job i failed = { s with
      cache := s.cache.set i (CacheLine.unmarked job failed (s.cache.get i))
      recency := if s.cache.get i ≠ none ∧ CacheLine.unmarked job failed (s.cache.get i) = none then
        s.recency.erase i else s.recency } := by
  unfold State.unmark
  cases hl : s.cache.get i with
  | none =>
    have hc : s.cache.set i none = s.cache := by rw [← hl, Table.set_get_self]
    simp [CacheLine.unmarked, hc]
  | some l =>
    cases hwb : l.writeBack with
    | false =>
      have hc : s.cache.set i (some l) = s.cache := by rw [← hl, Table.set_get_self]
      simp [CacheLine.unmarked, hwb, hc]
    | true =>
      cases job with
      | release n => simp [CacheLine.unmarked, hwb, Job.nest, State.invalidate, State.setLine]
      | sync n => simp [CacheLine.unmarked, hwb, Job.nest, State.setLine]
      | load n d => simp [CacheLine.unmarked, hwb, Job.nest, State.setLine]

/-- Whether a job's re-dirtied mark stands after a write-back: a failure counts against a SYNC job (R56, R57). -/
def Job.redirtiedBy (job : Job) (old failed : Bool) : Bool :=
  match job with
  | .sync _ => old || failed
  | .release _ | .load _ _ => old

theorem Job.redirtiedBy_done (job : Job) (old : Bool) : job.redirtiedBy old false = old := by
  cases job <;> simp [Job.redirtiedBy]

theorem Job.redirtiedBy_failed {job : Job} (hj : ∀ n d, job ≠ .load n d) (old : Bool) :
    job.redirtiedBy old true = if job = .release job.nest then old else true := by
  cases job with
  | load n d => exact absurd rfl (hj n d)
  | sync n => simp [Job.redirtiedBy]
  | release n => simp [Job.redirtiedBy, Job.nest]

theorem State.endWriteBack_eq (s : State) {j : RunningJob} {i : Fin 64} (hi : j.scan = i.val) (failed : Bool) :
    s.endWriteBack j failed = (s.unmark j.job i failed).setJob { j.passOn with
      failure := if failed = true then some (.entry i.val) else j.failure
      redirtied := j.job.redirtiedBy j.redirtied failed } := by
  unfold State.endWriteBack
  rw [asFin_some.2 hi, hi]
  cases j.job <;> rfl

theorem State.endWriteBack_done (s : State) {j : RunningJob} {i : Fin 64} (hi : j.scan = i.val) :
    s.endWriteBack j false = (s.unmark j.job i false).setJob j.passOn := by
  rw [State.endWriteBack_eq s hi, Job.redirtiedBy_done]
  rfl

theorem State.endWriteBack_failed (s : State) {j : RunningJob} {i : Fin 64} (hi : j.scan = i.val)
    (hj : ∀ n d, j.job ≠ .load n d) :
    s.endWriteBack j true = (s.unmark j.job i true).setJob { j.passOn with
      failure := some (.entry i.val)
      redirtied := if j.job = .release j.job.nest then j.redirtied else true } := by
  rw [State.endWriteBack_eq s hi, Job.redirtiedBy_failed hj]
  rfl

theorem State.flushCycle_done {v : State} {j : RunningJob} {k pos : Nat} {w : BoardWords} {i : Fin 64}
    (hp : j.phase = .flushing k pos w) (hi : j.scan = i.val) (hk : k < 3) :
    v.flushCycle j false =
      let u := { v with
        mem := Memory.writeBytes v.mem (v.boardAddr ⟨j.job.nest, pos⟩ + WritesBack.offset k)
          (WritesBack.word w k) 8 }
      if k < 2 then u.setJob { j with phase := .flushing (k + 1) pos w }
      else (u.unmark j.job i false).setJob j.passOn := by
  simp only [State.flushCycle, hp, Bool.false_eq_true, if_false, writesBack_offset hk, writesBack_word w hk,
    State.endWriteBack_done _ hi]

theorem State.flushCycle_hard {v : State} {j : RunningJob} {k pos : Nat} {w : BoardWords}
    (hp : j.phase = .flushing k pos w) : v.flushCycle j true = v.endWriteBack j true := by
  simp only [State.flushCycle, hp, if_true]

/-! ### The walker's statement -/

/-- A scan takes up a dirty entry of the job's nest with a snapshot of its record (R55, R56). -/
theorem State.scan_dirty {s : State} {j : RunningJob} {i : Fin 64} {l : CacheLine} (hw : s.walker = .running j)
    (hp : j.phase = .scanning) (hi : j.scan = i.val) (hl : s.cache.get i = some l)
    (hn : l.board.nest = j.job.nest) (hd : l.dirty = true) :
    s.scan 1 = { s with
      cache := s.cache.set i (some { l with dirty := false, writeBack := true })
      walker := .running { j with phase := .flushing 0 l.board.pos l.words } } := by
  show s.visit = _
  simp only [State.visit, hw, hp, asFin_some.2 hi, hl, if_pos hn, if_pos hd]
  rfl

theorem State.scan_mode (s : State) (n : Nat) : (s.scan n).mode = s.mode := by rw [State.scan_eq]

/-- What a DONE of the walker's cycle makes of a write-back. -/
theorem State.flushCycle_done_eq {v : State} {j : RunningJob} {k pos : Nat} {w : BoardWords} {i : Fin 64}
    (hp : j.phase = .flushing k pos w) (hi : j.scan = i.val) (hk : k < 3) :
    v.flushCycle j false = { v with
      mem := Memory.writeBytes v.mem (v.boardAddr ⟨j.job.nest, pos⟩ + WritesBack.offset k)
        (WritesBack.word w k) 8
      cache := if k < 2 then v.cache
        else v.cache.set i (CacheLine.unmarked j.job false (v.cache.get i))
      recency := if k = 2 ∧ v.cache.get i ≠ none ∧ CacheLine.unmarked j.job false (v.cache.get i) = none then
        v.recency.erase i else v.recency
      walker := .running (if k < 2 then { j with phase := .flushing (k + 1) pos w } else j.passOn) } := by
  rw [State.flushCycle_done hp hi hk]
  by_cases h2 : k < 2
  · have hne : k ≠ 2 := by omega
    simp only [h2, if_true, hne, false_and, if_false]
    rfl
  · obtain rfl : k = 2 := by omega
    simp only [lt_irrefl, if_false, true_and, State.unmark_eq]
    rfl

theorem State.flushCycle_hard_eq {v : State} {j : RunningJob} {k pos : Nat} {w : BoardWords} {i : Fin 64}
    (hp : j.phase = .flushing k pos w) (hi : j.scan = i.val) (hj : ∀ n d, j.job ≠ .load n d) :
    v.flushCycle j true = { v with
      cache := v.cache.set i (CacheLine.unmarked j.job true (v.cache.get i))
      recency := if v.cache.get i ≠ none ∧ CacheLine.unmarked j.job true (v.cache.get i) = none then
        v.recency.erase i else v.recency
      walker := .running { j.passOn with
        failure := some (.entry i.val)
        redirtied := if j.job = .release j.job.nest then j.redirtied else true } } := by
  rw [State.flushCycle_hard hp, State.endWriteBack_failed v hi hj, State.unmark_eq]
  rfl

/-- Settles O50: one equation for each cycle of a job, and the flags and images of a HARD. -/
theorem walkerCycleServesItsJob : Obligations.WalkerCycleServesItsJob := by
  unfold Obligations.WalkerCycleServesItsJob
  intro s visits j hmode
  refine ⟨fun i l hw hp _ hi hl hn hd => State.scan_dirty hw hp hi hl hn hd, ?_⟩
  intro u v hw hgrant
  have hx := exec_portCycle_walker hgrant
  have hvw : v.walker = .running j := hw
  have hvg : v.mode = .guarded := (s.scan_mode visits).trans hmode
  refine ⟨fun n d hj => ?_, fun k pos w i hj hp hi => ⟨fun hk => ?_, ?_⟩⟩
  · have hdone : exec (.portCycle visits false) s = .next (v.loadCycle j n d false) := by
      rw [hx, State.grantWalker_load hvw hj]; rfl
    have hhard : exec (.portCycle visits true) s = .next ((v.loadCycle j n d true).raise .memory) := by
      rw [hx, State.grantWalker_load hvw hj]; rfl
    refine ⟨fun k hp hk => ?_, fun ws hp hl => ?_, fun w0 w1 w2 hp => ⟨fun hfit => ?_, fun hfit => ?_⟩,
      fun k w hp hk => ?_, fun pos hat => ?_⟩
    · rw [hdone, State.loadCycle_types hp hk]
      cases n <;> rfl
    · rw [hdone, State.loadCycle_record hp hl]
    · rw [hdone, State.loadCycle_judged hp]
      exact congrArg _ (State.takeRecord_misfits (v := v) (d := d) (by cases n <;> exact hfit))
    · rw [hdone, State.loadCycle_judged hp]
      exact congrArg _ (State.takeRecord_fits (v := v) (d := d) (by cases n <;> exact hfit))
    · rw [hdone, State.loadCycle_storing hp hk]
    · rw [hhard, State.loadCycle_hard hat]
      have hr := State.raise_hard (s := v.failLoad j pos) hvg .memory
      exact ⟨_, rfl, hr.1, hr.2⟩
  · have hdone : exec (.portCycle visits false) s = .next (v.flushCycle j false) := by
      rw [hx, State.grantWalker_flush hvw hj]; rfl
    exact ⟨_, hdone, State.flushCycle_done_eq hp hi hk⟩
  · have hhard : exec (.portCycle visits true) s = .next ((v.flushCycle j true).raise .memory) := by
      rw [hx, State.grantWalker_flush hvw hj]; rfl
    rw [hhard, State.flushCycle_hard_eq hp hi hj]
    have hr := State.raise_hard (s := { v with
      cache := v.cache.set i (CacheLine.unmarked j.job true (v.cache.get i))
      recency := if v.cache.get i ≠ none ∧ CacheLine.unmarked j.job true (v.cache.get i) = none then
        v.recency.erase i else v.recency
      walker := .running { j.passOn with
        failure := some (.entry i.val)
        redirtied := if j.job = .release j.job.nest then j.redirtied else true } }) hvg .memory
    exact ⟨_, rfl, hr.1, hr.2⟩

end Sys2Proof.Machine
end

section
/-! PROOF. How a request ends, by the images that its run has collected (R183), and the walker's completions
(R53, R63, R72, R75). -/

namespace Sys2Proof.Machine

open Sys2Proof.Claims

/-! ### The end of a run -/

/-- A run has no duty left for the end of its request. -/
structure Run.Free (r : Run) : Prop where
  lanes   : r.lanes = false
  empties : r.empties = []
  events  : r.events = []

theorem Run.Free.start (s : State) (answers : List MemAnswer) : (Run.start s answers).Free := ⟨rfl, rfl, rfl⟩

theorem Run.Free.rest {r r' : Run} (h : r.Free) (hr : r.SameRest r') (hl : r'.lanes = r.lanes) : r'.Free :=
  ⟨hl.trans h.lanes, hr.empties.trans h.empties, hr.events.trans h.events⟩

namespace Run.Free

variable {r : Run} (h : r.Free)
include h

theorem image (id : ImageId) : (r.image id).Free := h.rest (r.image_rest id) (r.image_lanes id)
theorem modify (f : State → State) : (r.modify f).Free := h.rest ⟨rfl, rfl, rfl⟩ rfl
theorem setNest (n : Nest) (c : NestContext) : (r.setNest n c).Free :=
  h.rest (r.setNest_rest n c) (r.setNest_lanes n c)
theorem setCup (i : Fin 4) (c : Cup) : (r.setCup i c).Free := h.rest (r.setCup_rest i c) (r.setCup_lanes i c)
theorem setLane (i : Fin 16) (l : Lane) : (r.setLane i l).Free :=
  h.rest (r.setLane_rest i l) (r.setLane_lanes i l)
theorem setEntry (i : Fin 32) (e : Option Entry) : (r.setEntry i e).Free :=
  h.rest (r.setEntry_rest i e) (r.setEntry_lanes i e)
theorem setCursors (c : Cursors) : (r.setCursors c).Free := h.rest (r.setCursors_rest c) (r.setCursors_lanes c)
theorem raise (f : Flag) : (r.raise f).Free := h.rest (r.raise_rest f) (r.raise_lanes f)

end Run.Free

namespace Run.Made

variable {r : Run} {u : State} {ids : List ImageId} (h : r.Made u ids)
include h

/-- A request that has collected images ends once they are queued, its acknowledge waiting for them. -/
theorem ends (hf : r.Free) (hn : ids ≠ []) (t : Tag) (a : Ack) : Ends u (r.conclude.finishHeld t a) t a ids := by
  rw [Run.conclude_idle hf.lanes hf.empties hf.events]
  exact ⟨r.images, r.queued.images, h.finish hn t a, h.images, h.queue⟩

/-- A request that has collected no image is acknowledged at once. -/
theorem endsAtOnce (hf : r.Free) (hn : ids = []) (t : Tag) (a : Ack) :
    EndsAtOnce u (r.conclude.finishHeld t a) t a := by
  have hi : r.images = [] := List.eq_nil_iff_forall_not_mem.2 fun x hx => by
    have := (h.images x).1 hx
    rw [hn] at this
    cases this
  rw [Run.conclude_idle hf.lanes hf.empties hf.events, Run.finishHeld_at_once (r := r.queueImages) hi]
  have hq : r.queueImages.st = u := by
    show r.queued = u
    rw [Run.queued, hi]
    exact h.shape
  rw [hq]
  rfl

/-- An expiry or a walker completion ends with its images queued. -/
theorem endsInternally (hf : r.Free) : EndsInternally u r.conclude.finishInternal ids := by
  rw [Run.conclude_idle hf.lanes hf.empties hf.events]
  refine ⟨r.queued.images, ?_, h.queue⟩
  have hq : r.queueImages.st = { u with images := r.queued.images } := by
    show r.queued = _
    rw [Run.queued_eq, h.shape]
  rw [Run.finishInternal, hq]

theorem ended (hf : r.Free) {must may : List ImageId} (hmust : ∀ id ∈ must, id ∈ ids)
    (hmay : ∀ id ∈ ids, id ∈ may) (hn : ids ≠ []) (t : Tag) :
    Ended u (r.conclude.finishHeld t .done) t must may :=
  ⟨ids, hmust, hmay, h.ends hf hn t .done⟩

theorem endedInternally (hf : r.Free) {must may : List ImageId} (hmust : ∀ id ∈ must, id ∈ ids)
    (hmay : ∀ id ∈ ids, id ∈ may) : EndedInternally u r.conclude.finishInternal must may :=
  ⟨ids, hmust, hmay, h.endsInternally hf⟩

end Run.Made

/-! ### The completions of the walker -/

/-- A completion replaces its nest's context, asks for the nest's image and raises a flag. -/
def Run.completed (r : Run) (n : Nest) (c : NestContext) (f : Flag) : Run :=
  ((r.freeWalker.setNest n c).image (.nest n)).raise f

theorem Run.completed_free {r : Run} (h : r.Free) (n : Nest) (c : NestContext) (f : Flag) :
    (r.completed n c f).Free := (((h.modify _).setNest n c).image _).raise f

theorem Run.completed_made {s : State} (hg : s.mode = .guarded) (n : Nest) (c : NestContext) (f : Flag) :
    ∃ ids, ((Run.start s []).completed n c f).Made
        { State.withNest s n c with walker := .idle, flags := s.flags ||| f.bits } ids ∧
      .nest n ∈ ids ∧ ∀ id ∈ ids, id = .nest n ∨ id = .status := by
  have h := ((((Run.Made.start (r := Run.start s []) hg rfl).modify
    (f := fun s => { s with walker := .idle }) hg).setNest n c).image (.nest n)).raise f
  refine ⟨_, h.at_state (by cases n <;> rfl), by simp, fun id hid => ?_⟩
  simp only [List.nil_append, List.mem_append, List.mem_ite_nil_left, List.mem_singleton] at hid
  rcases hid with (⟨_, rfl⟩ | rfl) | ⟨_, rfl⟩
  · exact .inl rfl
  · exact .inl rfl
  · exact .inr rfl

theorem endedInternally_completed {s : State} (hg : s.mode = .guarded) (n : Nest) (c : NestContext) (f : Flag) :
    EndedInternally { State.withNest s n c with walker := .idle, flags := s.flags ||| f.bits }
      ((Run.start s []).completed n c f).conclude.finishInternal [.nest n] [.nest n, .status] := by
  obtain ⟨ids, h, hn, hmay⟩ := Run.completed_made hg n c f
  exact h.endedInternally (Run.completed_free (.start s []) n c f) (by simpa using hn) (by simpa using hmay)

theorem State.nestDirty_false {s : State} {n : Nest} :
    s.nestDirty n = false ↔ ∀ i l, s.cache.get i = some l → l.board.nest = n → l.dirty = false := by
  rw [State.nestDirty, Table.any_false_iff]
  refine forall_congr' fun i => ?_
  cases s.cache.get i with
  | none => simp
  | some l => simp

theorem afterLoad_stopped (c : NestContext) (result : LoadEnd) (count : Nat) :
    (c.afterLoad result count).state ≠ .stopped := by
  cases result with
  | ok => simp only [NestContext.afterLoad]; split <;> exact nofun
  | invalid p => exact nofun
  | failed p => exact nofun

/-- The flags and images of a load completion (R63, R65). -/
theorem endedInternally_load {s : State} (hg : s.mode = .guarded) (n : Nest) (result : LoadEnd) (count : Nat) :
    EndedInternally { State.withNest s n ((s.nest n).afterLoad result count) with
        walker := .idle
        flags := s.flags ||| (Flag.nestReady n).bits |||
          nestFlags n .loading ((s.nest n).afterLoad result count).state }
      ((Run.start s []).completeLoad n result count).conclude.finishInternal [.nest n] [.nest n, .status] := by
  obtain ⟨ids, h, hn, hmay⟩ := Run.completed_made hg n ((s.nest n).afterLoad result count) (.nestReady n)
  have hf := Run.completed_free (.start s []) n ((s.nest n).afterLoad result count) (.nestReady n)
  have hs := afterLoad_stopped (s.nest n) result count
  by_cases hc : ((s.nest n).afterLoad result count).state = .complete
  · have hr : (Run.start s []).completeLoad n result count =
        ((Run.start s []).completed n ((s.nest n).afterLoad result count) (.nestReady n)).raise
          (.nestComplete n) := if_pos hc
    have hflags : nestFlags n .loading ((s.nest n).afterLoad result count).state =
        (Flag.nestComplete n).bits := by
      rw [nestFlags, if_neg fun e => hs e.1, if_pos ⟨hc, nofun⟩]
    rw [hr, hflags]
    refine (h.raise (.nestComplete n)).endedInternally (hf.raise _) (by simp [hn]) fun id hid => ?_
    rw [List.mem_append, List.mem_ite_nil_left, List.mem_singleton] at hid
    rcases hid with hid | ⟨_, rfl⟩
    · simpa using hmay id hid
    · simp
  · have hr : (Run.start s []).completeLoad n result count =
        (Run.start s []).completed n ((s.nest n).afterLoad result count) (.nestReady n) := if_neg hc
    have hflags : nestFlags n .loading ((s.nest n).afterLoad result count).state = 0#24 := by
      rw [nestFlags, if_neg fun e => hs e.1, if_neg fun e => hc e.1]
      rfl
    rw [hr, hflags, BitVec.or_zero]
    exact endedInternally_completed hg n _ _

/-- Settles O51. -/
theorem completionsReachTheNest : Obligations.CompletionsReachTheNest := by
  unfold Obligations.CompletionsReachTheNest
  intro s n hg he
  refine ⟨fun result count hw hload => ?_, fun clean failed hw => ?_, fun failed hw => ?_⟩
  · have hx : exec .loadCompletion s =
        .next ((Run.start s []).completeLoad n result count).conclude.finishInternal := by
      show execLoadCompletion s = _
      unfold execLoadCompletion
      exact internalStep_due he (by simp only [Run.start, hw])
    refine ⟨_, hx, ?_⟩
    cases result with
    | ok => exact endedInternally_load hg n .ok count
    | invalid p => exact endedInternally_load hg n (.invalid p) count
    | failed p => exact endedInternally_load hg n (.failed p) count
  · have hx : exec .syncCompletion s =
        .next ((Run.start s []).completeSync n clean).conclude.finishInternal := by
      show execSyncCompletion s = _
      unfold execSyncCompletion
      exact internalStep_due he (by simp only [Run.start, hw])
    refine ⟨_, hx, ?_⟩
    have hstatus : (if clean = true ∧ ∀ i l, s.cache.get i = some l → l.board.nest = n → l.dirty = false then
        ImageStatus.clean else .dirty) = if clean && !s.nestDirty n then ImageStatus.clean else .dirty :=
      if_congr (by rw [← State.nestDirty_false]; simp) rfl rfl
    rw [hstatus]
    exact endedInternally_completed hg n _ _
  · have hx : exec .releaseCompletion s =
        .next ((Run.start s []).completeRelease n).conclude.finishInternal := by
      show execReleaseCompletion s = _
      unfold execReleaseCompletion
      exact internalStep_due he (by simp only [Run.start, hw])
    exact ⟨_, hx, endedInternally_completed hg n _ _⟩

end Sys2Proof.Machine
end

section
/-! PROOF. How a request of the Engine is abandoned, refused or ended at once (R19, R173, R174, R180, R183). -/

namespace Sys2Proof.Machine

open Sys2Proof.Claims

/-! ### Cycles that memory answers HARD -/

theorem Answered.add_iff {answers : List MemAnswer} {n k : Nat} :
    Answered answers (n + k) ↔ Answered answers n ∧ Answered (answers.drop n) k := by
  refine ⟨fun h => h.split, fun ⟨hn, hk⟩ a ha => ?_⟩
  rw [List.take_add, List.mem_append] at ha
  exact ha.elim (hn a) (hk a)

theorem Answered.zero (answers : List MemAnswer) : Answered answers 0 := fun a ha => by simp at ha

theorem Answered.not_tail {answers : List MemAnswer} {n : Nat} (h : Answered answers 1)
    (hn : ¬Answered answers (n + 1)) : ¬Answered answers.tail n := fun ht => by
  rw [← List.drop_one] at ht
  exact hn (Nat.add_comm 1 n ▸ Answered.add_iff.2 ⟨h, ht⟩)

/-- Reads of which one is answered HARD, the rest not issued. -/
theorem Run.reads_hard {r : Run} {n k : Nat} (hk : k < n) (h : Answered r.answers k)
    (hn : ¬Answered r.answers (k + 1)) (a : Nat) :
    r.reads a n = (none, Run.raise { r with
      answers := r.answers.drop (k + 1), st := r.st.waited r.answers (k + 1) } .memory) := by
  induction n generalizing r a k with
  | zero => omega
  | succ n ih =>
    unfold Run.reads
    cases k with
    | zero =>
      rw [Run.read_hard hn]
      simp [State.waited]
    | succ k =>
      rw [Run.read_done h.head]
      simp only
      rw [ih (r := { r with answers := r.answers.tail, st := r.st.awaitNext r.answers })
        (by omega) h.tail (h.head.not_tail hn) (a + 8)]
      simp [State.waited]

/-- Writes of which one is answered HARD, the rest not issued. -/
theorem Run.writes_hard {r : Run} {ws : List (Nat × Word)} {k : Nat} (hk : k < ws.length)
    (h : Answered r.answers k) (hn : ¬Answered r.answers (k + 1)) :
    r.writes ws = (false, Run.raise { r with
      answers := r.answers.drop (k + 1), st := brokenOff r.st r.answers ws k } .memory) := by
  induction ws generalizing r k with
  | nil => exact absurd hk (Nat.not_lt_zero k)
  | cons p ws ih =>
    unfold Run.writes
    cases k with
    | zero =>
      rw [Run.write_hard hn]
      simp [brokenOff, State.wroteAll]
    | succ k =>
      rw [Run.write_done h.head]
      simp only
      rw [ih (r := { r with answers := r.answers.tail, st := r.st.wrote r.answers (p.1, p.2) })
        (by simpa using hk) h.tail (h.head.not_tail hn)]
      simp [brokenOff, State.wroteAll]

theorem Run.reading_hard {r : Run} {n k : Nat} (hk : k < n) (h : Answered r.answers k)
    (hn : ¬Answered r.answers (k + 1)) (a : Nat) (f : List Word → Run → Ack × Run) :
    r.reading a n f = (.hard, Run.raise { r with
      answers := r.answers.drop (k + 1), st := r.st.waited r.answers (k + 1) } .memory) := by
  rw [Run.reading, Run.reads_hard hk h hn]

theorem Run.writing_hard {r : Run} {ws : List (Nat × Word)} {k : Nat} (hk : k < ws.length)
    (h : Answered r.answers k) (hn : ¬Answered r.answers (k + 1)) (f : Run → Ack × Run) :
    r.writing ws f = (.hard, Run.raise { r with
      answers := r.answers.drop (k + 1), st := brokenOff r.st r.answers ws k } .memory) := by
  rw [Run.writing, Run.writes_hard hk h hn]

/-! ### A request that ends where it stands -/

/-- What a served request leaves, once its end is concluded (R83, R183). -/
def Served (p : Ack × Run) (t : Tag) : State := p.2.conclude.finishHeld t p.1

theorem heldStep_served {isDue : Request → Bool} {serve : Tag → Request → Run → Ack × Run}
    {answers : List MemAnswer} {s : State} {t : Tag} {q : Request}
    (h : s.heldInHand = some (t, q)) (hd : isDue q = true) :
    heldStep isDue serve answers s = .next (Served (serve t q (Run.start s answers)) t) := heldStep_due h hd

/-- A request without images is acknowledged at once. -/
theorem served_at_once (u : State) (rest : List MemAnswer) (t : Tag) (a : Ack) :
    EndsAtOnce u (Served (a, Run.start u rest) t) t a := by
  have hc : (Run.start u rest).conclude = Run.start u rest := Run.conclude_idle rfl rfl rfl
  rw [Served, hc, Run.finishHeld_at_once rfl]
  rfl

/-- A failed cycle abandons its request in GUARDED mode (R19, R180). -/
theorem served_abandoned {u : State} (hg : u.mode = .guarded) (rest : List MemAnswer) (t : Tag) :
    Abandoned u (Served (.hard, (Run.start u rest).raise .memory) t) t := by
  have hgr : (Run.start u rest).st.guarded = true := u.guarded_iff.2 hg
  have hm := (Run.Made.start (r := Run.start u rest) hg rfl).raise .memory
  have hf := (Run.Free.start u rest).raise .memory
  unfold Abandoned
  by_cases hflag : u.flag .memory = true
  · have hr : (Run.start u rest).raise .memory = Run.start u rest := by
      have : (Run.start u rest).st.flag .memory = true := hflag
      simp [Run.raise, this]
    rw [if_pos hflag, hr]
    exact served_at_once u rest t .hard
  · rw [if_neg hflag]
    have hn : u.flag .memory = false := by simpa using hflag
    exact (hm.congr (ids' := [.status]) (by simp [hn, Run.start])).ends hf (by simp) t .hard

/-- A failed cycle in OPEN_PATH mode raises nothing (R177, R186). -/
theorem served_abandoned_open {u : State} (hg : u.mode = .openPath) (rest : List MemAnswer) (t : Tag) :
    EndsAtOnce u (Served (.hard, (Run.start u rest).raise .memory) t) t .hard := by
  have hgr : (Run.start u rest).st.guarded = false := by simp [State.guarded, Run.start, hg]
  rw [Run.raise_open hgr]
  exact served_at_once u rest t .hard

/-! ### What the end of a request leaves -/

/-- A part of the state that the end of a request with images leaves as it was. -/
theorem ends_same {u t : State} {tag : Tag} {ack : Ack} {changed : List ImageId} (h : Ends u t tag ack changed)
    {α : Type} (f : State → α)
    (hf : ∀ v images requests engine,
      f { v with images := images, requests := requests, engine := engine } = f v := by intros; rfl) :
    f t = f u := by
  obtain ⟨waits, images, rfl, -, -⟩ := h
  exact hf u _ _ _

/-- A part of the state that the end of a request without images leaves as it was. -/
theorem endsAtOnce_same {u t : State} {tag : Tag} {ack : Ack} (h : EndsAtOnce u t tag ack) {α : Type}
    (f : State → α)
    (hf : ∀ v masters requests engine lastServed,
      f { v with masters := masters, requests := requests, engine := engine, lastServed := lastServed } = f v := by
        intros; rfl) :
    f t = f u := by
  rw [show t = _ from h, State.takeNext_eq]
  exact hf u _ _ _ _

/-- A part of the state that the end of an expiry or a completion leaves as it was. -/
theorem endsInternally_same {u t : State} {changed : List ImageId} (h : EndsInternally u t changed) {α : Type}
    (f : State → α)
    (hf : ∀ v images engine lastServed,
      f { v with images := images, engine := engine, lastServed := lastServed } = f v := by intros; rfl) :
    f t = f u := by
  obtain ⟨images, rfl, -⟩ := h
  rw [State.takeNext_eq]
  exact hf u _ _ _

/-! ### Refusals -/

namespace Run.Made

variable {r : Run} {u : State} {ids : List ImageId}

theorem fillCapture (h : r.Made u ids) (ev : Event) :
    (r.fillCapture ev).Made { u with
      captures := u.captures.set ev.source.idx (some ⟨ev.cause, ev.sect, ev.cycle, ev.refs, u.time⟩)
      flags := u.flags ||| (Flag.capture ev.source).bits } (ids ++ [.capture ev.source, .status]) := by
  unfold Run.fillCapture
  rw [h.shape]
  have h' := (((h.modify (f := fun s => { s with
    captures := s.captures.set ev.source.idx (some ⟨ev.cause, ev.sect, ev.cycle, ev.refs, u.time⟩) })
    h.guarded).image (.capture ev.source)).raise (.capture ev.source)).image .status
  refine h'.congr fun id => ?_
  split <;> simp

end Run.Made

namespace Run.Free

variable {r : Run} (h : r.Free)
include h

theorem fillCapture (ev : Event) : (r.fillCapture ev).Free :=
  (((h.modify _).image _).raise _).image _

end Run.Free

/-- A refusal goes through the capture rule (R173, R174). -/
theorem served_refused {u : State} (hg : u.mode = .guarded) (rest : List MemAnswer) (t : Tag) (ev : Event) :
    Refused u (Served ((Run.start u rest).refusal ev) t) t ev.source
      ⟨ev.cause, ev.sect, ev.cycle, ev.refs, u.time⟩ := by
  have hm := Run.Made.start (r := Run.start u rest) hg rfl
  have hf := Run.Free.start u rest
  have hgr : (Run.start u rest).st.guarded = true := u.guarded_iff.2 hg
  have hst : (Run.start u rest).st = u := rfl
  unfold Refused Run.refusal
  rw [if_pos hgr, hst]
  cases hc : u.captureOf ev.source with
  | none => exact (hm.fillCapture ev).ends (hf.fillCapture ev) (by simp) t .soft
  | some held =>
    refine (((hm.raise (.hard ev.source)).image .status).congr fun id => ?_).ends
      ((hf.raise (.hard ev.source)).image .status) (by simp) t .hard
    split <;> simp

/-- A guard refusal (R14). -/
theorem served_guardRefusal {u : State} (hg : u.mode = .guarded) (rest : List MemAnswer) (t : Tag)
    (g : GuardRecord) :
    Ends { u with lastGuard := some g, flags := u.flags ||| Flag.guard.bits }
      (Served (.hard, (Run.start u rest).guardRefusal g) t) t .hard [.status] := by
  have hm := Run.Made.start (r := Run.start u rest) hg rfl
  have h := ((hm.modify (f := fun s => { s with lastGuard := some g }) hg).raise .guard).image .status
  refine (h.congr fun id => ?_).ends ((((Run.Free.start u rest).modify _).raise .guard).image .status)
    (by simp) t .hard
  split <;> simp

/-! ### The mode while a request is served -/

theorem waited_mode {s : State} {p : Fin 18} (he : s.engine = .serving p) (answers : List MemAnswer) (n : Nat) :
    (s.waited answers n).mode = s.mode := (s.waited_beside answers n).mode he

theorem awaitNext_mode {s : State} {p : Fin 18} (he : s.engine = .serving p) (answers : List MemAnswer) :
    (s.awaitNext answers).mode = s.mode := (s.awaitNext_beside answers).mode he

theorem wroteAll_mode {s : State} {p : Fin 18} (he : s.engine = .serving p) (answers : List MemAnswer)
    (ws : List (Nat × Word)) : (s.wroteAll answers ws).mode = s.mode := (s.wroteAll_beside answers ws).mode he

end Sys2Proof.Machine
end

section
/-! PROOF. Captures, flags and board edits (R36, R37, R173 to R179), and what the cache holds for a board. -/

namespace Sys2Proof.Machine

open Sys2Proof.Claims

/-! ### Capture releases -/

/-- A HELD capture is released (R176). -/
theorem served_release {u : State} (hg : u.mode = .guarded) (rest : List MemAnswer) (t : Tag) (src : Source) :
    Ends { u with
        captures := u.captures.set src.idx none
        flags := u.flags &&& ~~~(Flag.capture src).bits }
      (Served (.done, (Run.start u rest).releaseCapture src) t) t .done [.capture src, .status] :=
  ((((Run.Made.start (r := Run.start u rest) hg rfl).modify
      (f := fun s => { s with
        captures := s.captures.set src.idx none, flags := s.flags &&& ~~~(Flag.capture src).bits })
      hg).image (.capture src)).image .status).ends
    ((((Run.Free.start u rest).modify _).image _).image _) (by simp) t .done

theorem exec_captureRelease {s : State} {tag : Tag} {q : Request} {src : Source}
    (hq : s.heldInHand = some (tag, q)) (hc : q.cls = .captureRelease src) :
    exec .captureRelease s = .next (Served (serveRelease src tag q (Run.start s [])) tag) := by
  have hr : q.cls.released = some src := by rw [hc]; rfl
  show execCaptureRelease s = _
  unfold execCaptureRelease
  rw [heldStep_served hq (by rw [hr]; rfl), hr]
  rfl

/-! ### Flag clears -/

theorem clearable_getLsbD (w : Word) {k : Nat} (hk : k < 24) :
    (clearable w).getLsbD k = (decide (4 ≤ k) && w.getLsbD k) := by
  have hmask : ∀ k, k < 24 → (0xFFFFF0#24 : BitVec 24).getLsbD k = decide (4 ≤ k) := by decide
  have hw : (BitVec.ofNat 24 w.toNat).getLsbD k = w.getLsbD k := by simp [hk]
  rw [clearable, BitVec.getLsbD_and, hw, hmask k hk, Bool.and_comm]

/-- A flag clear that names a set flag finds one among the flags it may clear (R179). -/
theorem clears_nothing_iff (flags : BitVec 24) (w : Word) :
    flags &&& clearable w = 0 ↔ ∀ k, 4 ≤ k ∧ w.getLsbD k = true → flags.getLsbD k = false := by
  constructor
  · intro h k ⟨h4, hk⟩
    by_cases hlt : k < 24
    · have hz := congrArg (fun x => BitVec.getLsbD x k) h
      simpa [BitVec.getLsbD_and, clearable_getLsbD w hlt, h4, hk] using hz
    · exact BitVec.getLsbD_of_ge _ _ (by omega)
  · intro h
    apply BitVec.eq_of_getLsbD_eq
    intro k hk
    rw [BitVec.getLsbD_and, clearable_getLsbD w hk]
    by_cases hn : 4 ≤ k ∧ w.getLsbD k = true
    · simp [h k hn]
    · have hz : (decide (4 ≤ k) && w.getLsbD k) = false := by
        rw [Bool.and_eq_false_iff]
        by_cases h4 : 4 ≤ k
        · exact .inr (by simpa [h4] using hn)
        · exact .inl (by simpa using h4)
      simp [hz]

theorem exec_flagClear {s : State} {tag : Tag} {q : Request} (hq : s.heldInHand = some (tag, q))
    (hc : q.cls = .flagClear) :
    exec .flagClear s = .next (Served (serveFlagClear tag q (Run.start s [])) tag) := by
  show execFlagClear s = _
  unfold execFlagClear
  rw [heldStep_served hq (by rw [hc]; rfl)]

theorem served_flagClear {u : State} (hg : u.mode = .guarded) (rest : List MemAnswer) (t : Tag) (m : BitVec 24) :
    Ends { u with flags := u.flags &&& ~~~m }
      (Served (.done, ((Run.start u rest).modify fun s => { s with flags := s.flags &&& ~~~m }).image .status) t)
      t .done [.status] :=
  (((Run.Made.start (r := Run.start u rest) hg rfl).modify
      (f := fun s => { s with flags := s.flags &&& ~~~m }) hg).image .status).ends
    (((Run.Free.start u rest).modify _).image _) (by simp) t .done

/-- Which flags stand after a flag clear (R179). -/
theorem cleared_flag_iff (flags : BitVec 24) (w : Word) (k : Nat) :
    (flags &&& ~~~clearable w).getLsbD k = true ↔ flags.getLsbD k = true ∧ ¬(4 ≤ k ∧ w.getLsbD k = true) := by
  by_cases hk : k < 24
  · rw [getLsbD_cleared _ _ hk, clearable_getLsbD w hk]
    by_cases h4 : 4 ≤ k <;> simp [h4]
  · simp [BitVec.getLsbD_of_ge _ _ (show 24 ≤ k by omega)]

/-- Settles O44. -/
theorem capturesAndFlagsAreCleared : Obligations.CapturesAndFlagsAreCleared := by
  unfold Obligations.CapturesAndFlagsAreCleared
  intro s tag q hg hq
  refine ⟨fun src hc => ?_, fun hc => ?_⟩
  · rw [exec_captureRelease hq hc]
    have hst : (Run.start s []).st = s := rfl
    refine ⟨fun hm hn => ?_, fun hm hn => ?_, fun hm => ?_⟩
    · simp only [serveRelease, hm, if_true, hst, hn]
      exact ⟨_, rfl, served_at_once s [] tag .done⟩
    · obtain ⟨held, hh⟩ := Option.ne_none_iff_exists'.1 hn
      simp only [serveRelease, hm, if_true, hst, hh]
      exact ⟨_, rfl, served_release hg [] tag src⟩
    · simp only [serveRelease, hm, if_false]
      exact ⟨_, rfl, served_refused hg [] tag
        { source := .proc, cause := .imageWrite, cycle := some (q.cycleRef tag) }⟩
  · rw [exec_flagClear hq hc]
    have hst : (Run.start s []).st = s := rfl
    refine ⟨fun hnone => ?_, fun k hk hset => ?_⟩
    · simp only [serveFlagClear, hst, (clears_nothing_iff s.flags q.data).2 hnone, if_true]
      exact ⟨_, rfl, served_at_once s [] tag .done⟩
    · have hne : ¬s.flags &&& clearable q.data = 0 := fun h0 => by
        rw [(clears_nothing_iff s.flags q.data).1 h0 k hk] at hset
        cases hset
      simp only [serveFlagClear, hst, hne, if_false]
      have he := served_flagClear hg [] tag (clearable q.data)
      have hf := ends_same he (fun u => u.flags)
      refine ⟨_, rfl, ?_, fun j => ?_⟩
      · rw [show (Served _ _).flags = _ from hf]
        exact he
      · rw [show (Served _ _).flags = _ from hf]
        exact cleared_flag_iff s.flags q.data j

end Sys2Proof.Machine
end

section
/-! PROOF. What the cache holds for a board, and board edits (R36, R37, R49). -/

namespace Sys2Proof.Table

theorem firstIndex_congr {n : Nat} {α : Type} {t u : Table n α} {p : α → Bool}
    (h : ∀ i, p (u.get i) = p (t.get i)) : u.firstIndex p = t.firstIndex p := by
  unfold firstIndex
  exact congrArg (fun f => (List.finRange n).find? f) (funext h)

end Sys2Proof.Table

namespace Sys2Proof.Machine

open Sys2Proof.Claims

/-! ### The entry that holds a board's record -/

theorem State.lineOf_congr {s t : State} (h : t.cache = s.cache) (b : BoardRef) : t.lineOf b = s.lineOf b := by
  rw [State.lineOf, State.lineOf, h]

theorem State.cached_congr {s t : State} (h : t.cache = s.cache) (b : BoardRef) : t.cached b = s.cached b := by
  rw [State.cached, State.cached, State.lineOf_congr h, h]

theorem State.lineOf_some {s : State} {b : BoardRef} {i : Fin 64} (h : s.lineOf b = some i) :
    ∃ l, s.cache.get i = some l ∧ l.board = b := by
  have hp := Table.firstIndex_some h
  cases hl : s.cache.get i with
  | none => rw [hl] at hp; cases hp
  | some l => exact ⟨l, rfl, by rw [hl] at hp; simpa using hp⟩

theorem State.cached_of_lineOf {s : State} {b : BoardRef} {i : Fin 64} (h : s.lineOf b = some i) :
    s.cached b = s.cache.get i := by
  rw [State.cached, h]; rfl

theorem State.cached_none {s : State} {b : BoardRef} (h : s.lineOf b = none) : s.cached b = none := by
  rw [State.cached, h]; rfl

theorem State.cached_some {s : State} {b : BoardRef} {l : CacheLine} (h : s.cached b = some l) :
    ∃ i, s.lineOf b = some i ∧ s.cache.get i = some l ∧ l.board = b := by
  cases hi : s.lineOf b with
  | none => rw [State.cached_none hi] at h; cases h
  | some i =>
    obtain ⟨l', hl, hb⟩ := State.lineOf_some hi
    rw [State.cached_of_lineOf hi, hl] at h
    cases h
    exact ⟨i, rfl, hl, hb⟩

/-- A board has no entry exactly when no valid entry names it. -/
theorem State.lineOf_none_iff {s : State} {b : BoardRef} :
    s.lineOf b = none ↔ ∀ i l, s.cache.get i = some l → l.board ≠ b := by
  rw [State.lineOf, Table.firstIndex_none]
  refine forall_congr' fun i => ?_
  cases s.cache.get i with
  | none => simp
  | some l => simp

/-- An entry rewritten for its own board stays where its board is looked for. -/
theorem State.lineOf_setLine {s : State} {i : Fin 64} {l l' : CacheLine} (hl : s.cache.get i = some l)
    (hb : l'.board = l.board) (b : BoardRef) : (s.setLine i (some l')).lineOf b = s.lineOf b := by
  refine Table.firstIndex_congr fun j => ?_
  show ((s.cache.set i (some l')).get j).any _ = _
  rw [Table.get_set]
  split
  · next h => rw [h, hl]; simp [hb]
  · rfl

/-- The records of the other boards stand. -/
theorem State.cached_setLine {s : State} {i : Fin 64} {l' : CacheLine} {b : BoardRef} (hi : s.lineOf b = some i)
    (hb : l'.board = b) (b' : BoardRef) :
    (s.setLine i (some l')).cached b' = if b' = b then some l' else s.cached b' := by
  obtain ⟨l, hl, hlb⟩ := State.lineOf_some hi
  have hline := fun b => State.lineOf_setLine hl (hb.trans hlb.symm) b
  split
  · next h =>
    rw [h, State.cached_of_lineOf ((hline b).trans hi)]
    exact Table.get_set_self _ _ _
  · next h =>
    rw [State.cached, hline, State.cached]
    cases hj : s.lineOf b' with
    | none => rfl
    | some j =>
      obtain ⟨m, hm, hmb⟩ := State.lineOf_some hj
      have hne : j ≠ i := fun e => h (by rw [e, hl] at hm; cases hm; exact hmb.symm.trans hlb)
      exact Table.get_set_ne _ _ hne

/-! ### Board edits -/

theorem State.boardBusy_iff (s : State) (b : BoardRef) :
    s.boardBusy b = true ↔ ∃ i e, s.entries.get i = some e ∧ e.board = b := by
  rw [State.boardBusy, Table.any_iff]
  refine exists_congr fun i => ?_
  cases s.entries.get i with
  | none => simp
  | some e => simp

theorem State.boardBusy_false_iff (s : State) (b : BoardRef) : s.boardBusy b = false ↔ Unnamed s b := by
  rw [← Bool.not_eq_true, State.boardBusy_iff]
  simp [Unnamed]

/-- A board edit changes word 1 of its board's record and no other record (R37). -/
theorem State.replaceWord1_cached (s : State) (b : BoardRef) (w1 : Word) (b' : BoardRef) :
    (s.replaceWord1 b w1).cached b' =
      if b' = b then (s.cached b).map fun l => { l with words := { l.words with w1 := w1 } } else s.cached b' := by
  unfold State.replaceWord1
  cases hi : s.lineOf b with
  | none =>
    by_cases h : b' = b
    · rw [if_pos h, h, State.cached_none hi]; rfl
    · rw [if_neg h]
  | some i =>
    obtain ⟨l, hl, hb⟩ := State.lineOf_some hi
    simp only [hl]
    rw [State.cached_setLine (l' := { l with words := { l.words with w1 := w1 } }) hi hb,
      State.cached_of_lineOf hi, hl]
    rfl

theorem State.replaceWord1_eq (s : State) (b : BoardRef) (w1 : Word) :
    s.replaceWord1 b w1 = { s with cache := (s.replaceWord1 b w1).cache } := by
  unfold State.replaceWord1
  split
  · rfl
  · split <;> rfl

theorem exec_boardEdit {s : State} {tag : Tag} {q : Request} {b : BoardRef} {answers : List MemAnswer}
    (hq : s.heldInHand = some (tag, q)) (hc : q.cls = .boardEdit b) :
    exec (.boardEdit answers) s = .next (Served (serveEdit b tag q (Run.start s answers)) tag) := by
  have hr : q.cls.edited = some b := by rw [hc]; rfl
  show execBoardEdit answers s = _
  unfold execBoardEdit
  rw [heldStep_served hq (by rw [hr]; rfl), hr]
  rfl

/-- A board edit that fails a check is refused through the capture rule (R36). -/
theorem serveEdit_refused {s : State} {b : BoardRef} {q : Request} {cause : Cause} (hg : s.mode = .guarded)
    (h : firstFailing (s.editChecks b q.data) = some cause) (tag : Tag) (answers : List MemAnswer) :
    Refused s (Served (serveEdit b tag q (Run.start s answers)) tag) tag .proc
      ⟨cause, none, some ⟨tag, .write, q.addr⟩, { nest := some b.nest, pos := some b.pos }, s.time⟩ := by
  have he : firstFailing ((Run.start s answers).st.editChecks b q.data) = some cause := h
  rw [serveEdit, he]
  exact served_refused hg answers tag
    { source := .proc, cause := cause, cycle := some (q.cycleRef tag), refs := b.refs }

theorem editChecks_pass {s : State} {b : BoardRef} {w : Word} (hl : (s.nest b.nest).state ≠ .loading)
    (hb : s.boardBusy b = false) (hw : boardWord1Valid w = true) : firstFailing (s.editChecks b w) = none := by
  simp [State.editChecks, firstFailing, hl, hb, hw]

/-- A board edit that passes its checks is forwarded and copied (R37). -/
theorem serveEdit_passed {s : State} {b : BoardRef} {q : Request}
    (h : firstFailing (s.editChecks b q.data) = none) {answers : List MemAnswer} (ha : Answered answers 1)
    (tag : Tag) :
    serveEdit b tag q (Run.start s answers) =
      (.done, Run.start ((s.wrote answers (q.word 0, q.data)).replaceWord1 b q.data) answers.tail) := by
  have he : firstFailing ((Run.start s answers).st.editChecks b q.data) = none := h
  rw [serveEdit, he]
  dsimp only
  rw [Run.writing_done (r := Run.start s answers) (ws := [(q.word 0, q.data)]) ha, ← List.drop_one]
  rfl

/-- Settles O45. -/
theorem boardEditReplacesWord1 : Obligations.BoardEditReplacesWord1 := by
  unfold Obligations.BoardEditReplacesWord1
  intro s tag q answers b hg hq hc loading busy valid refused
  have hx := exec_boardEdit (answers := answers) hq hc
  have hbusy : s.boardBusy b = true ↔ busy := s.boardBusy_iff b
  have hvalid : boardWord1Valid q.data = true ↔ valid := boardWord1Valid_iff q.data
  have refuse {cause : Cause} (h : firstFailing (s.editChecks b q.data) = some cause) : refused cause :=
    ⟨_, hx, serveEdit_refused hg h tag answers⟩
  refine ⟨fun hl => refuse ?_, fun hl hb => refuse ?_, fun hl hb hv => refuse ?_, fun hl hb hv ha => ?_⟩
  · have hl' : (s.nest b.nest).state = .loading := hl
    simp [State.editChecks, firstFailing, hl']
  · have hl' : (s.nest b.nest).state ≠ .loading := hl
    simp [State.editChecks, firstFailing, hl', hbusy.2 hb]
  · have hl' : (s.nest b.nest).state ≠ .loading := hl
    have hb' : s.boardBusy b = false := by rw [← Bool.not_eq_true, hbusy]; exact hb
    have hv' : boardWord1Valid q.data = false := by rw [← Bool.not_eq_true, hvalid]; exact hv
    simp [State.editChecks, firstFailing, hl', hb', hv']
  · have hb' : s.boardBusy b = false := by rw [← Bool.not_eq_true, hbusy]; exact hb
    rw [hx, serveEdit_passed (editChecks_pass hl hb' (hvalid.2 hv)) ha]
    have he := served_at_once ((s.wrote answers (q.word 0, q.data)).replaceWord1 b q.data) answers.tail tag .done
    have hcache := endsAtOnce_same he (fun u => u.cache)
    refine ⟨_, rfl, ?_, fun b' => ?_⟩
    · rw [hcache, ← State.replaceWord1_eq]
      exact he
    · rw [State.cached_congr hcache, State.replaceWord1_cached]

end Sys2Proof.Machine
end

section
/-! PROOF. The effective span of a CUT (R88). -/

namespace Sys2Proof.Machine

theorem mem_uncutTabs (written : Span) (mask : BitVec 12) (t : Nat) :
    t ∈ uncutTabs written mask ↔
      written.first ≤ t ∧ t < written.first + written.count ∧ tabCut mask t = false := by
  simp only [uncutTabs, List.mem_filter, List.mem_map, List.mem_range, Bool.not_eq_true']
  constructor
  · rintro ⟨⟨k, hk, rfl⟩, hc⟩
    exact ⟨by omega, by omega, hc⟩
  · rintro ⟨hlo, hhi, hc⟩
    exact ⟨⟨t - written.first, by omega, by omega⟩, hc⟩

theorem uncutTabs_sorted (written : Span) (mask : BitVec 12) :
    (uncutTabs written mask).Pairwise (· < ·) := by
  refine List.Pairwise.filter _ ?_
  rw [List.pairwise_map]
  exact List.pairwise_lt_range.imp fun h => by omega

/-- The first element of an increasing list is its least. -/
theorem le_of_head? {l : List Nat} {lo : Nat} (hs : l.Pairwise (· < ·)) (h : l.head? = some lo) :
    lo ∈ l ∧ ∀ t ∈ l, lo ≤ t := by
  cases l with
  | nil => cases h
  | cons x l =>
    cases h
    refine ⟨List.mem_cons_self, fun t ht => ?_⟩
    rcases List.mem_cons.1 ht with rfl | ht
    · exact le_rfl
    · exact Nat.le_of_lt (List.rel_of_pairwise_cons hs ht)

/-- The last element of an increasing list is its greatest. -/
theorem le_of_getLast? {l : List Nat} {hi : Nat} (hs : l.Pairwise (· < ·)) (h : l.getLast? = some hi) :
    hi ∈ l ∧ ∀ t ∈ l, t ≤ hi := by
  obtain ⟨init, rfl⟩ := List.getLast?_eq_some_iff.1 h
  refine ⟨by simp, fun t ht => ?_⟩
  rcases List.mem_append.1 ht with ht | ht
  · exact Nat.le_of_lt ((List.pairwise_append.1 hs).2.2 t ht hi (by simp))
  · exact Nat.le_of_eq (List.mem_singleton.1 ht)

theorem effectiveSpan_some {written span : Span} {mask : BitVec 12}
    (h : effectiveSpan written mask = some span) :
    ∃ lo hi, (uncutTabs written mask).head? = some lo ∧ (uncutTabs written mask).getLast? = some hi ∧
      span = ⟨lo, hi - lo + 1⟩ := by
  unfold effectiveSpan at h
  split at h
  · next lo hi hlo hhi => exact ⟨lo, hi, hlo, hhi, (Option.some.inj h).symm⟩
  · cases h

theorem effectiveSpan_none_iff (written : Span) (mask : BitVec 12) :
    effectiveSpan written mask = none ↔ uncutTabs written mask = [] := by
  unfold effectiveSpan
  cases hl : uncutTabs written mask with
  | nil => simp
  | cons x l =>
    obtain ⟨hi, hlast⟩ : ∃ hi, (x :: l).getLast? = some hi := ⟨_, List.getLast?_eq_some_getLast (by simp)⟩
    rw [hlast]
    simp

/-- Settles O19: the uncut tabs in their order, with the least at the head and the greatest at the end. -/
theorem effectiveSpanBoundsTheUncutTabs : Obligations.EffectiveSpanBoundsTheUncutTabs := by
  unfold Obligations.EffectiveSpanBoundsTheUncutTabs
  intro written mask uncut
  have hmem : ∀ t, t ∈ uncutTabs written mask ↔ uncut t := mem_uncutTabs written mask
  have hs := uncutTabs_sorted written mask
  refine ⟨fun span h => ?_, ?_⟩
  · obtain ⟨lo, hi, hlo, hhi, rfl⟩ := effectiveSpan_some h
    obtain ⟨hlom, hleast⟩ := le_of_head? hs hlo
    obtain ⟨him, hgreatest⟩ := le_of_getLast? hs hhi
    have hle := hleast hi him
    refine ⟨by simp, (hmem lo).1 hlom, ?_, fun t ht => ?_⟩
    · have he : lo + (hi - lo + 1) - 1 = hi := by omega
      rw [show (⟨lo, hi - lo + 1⟩ : Span).first + (⟨lo, hi - lo + 1⟩ : Span).count - 1 = hi from he]
      exact (hmem hi).1 him
    · have hl := hleast t ((hmem t).2 ht)
      have hg := hgreatest t ((hmem t).2 ht)
      exact ⟨hl, by simp only; omega⟩
  · rw [effectiveSpan_none_iff, List.eq_nil_iff_forall_not_mem]
    exact forall_congr' fun t => not_congr (hmem t)

end Sys2Proof.Machine
end

section
/-! PROOF. The rows that serve a post: each has the common checks, the judgement of its kind, and the writes and
effects of its kind or of a TRIAL (R81 to R84, R100, R158, R159). -/

namespace Sys2Proof.Machine

open Sys2Proof.Claims

/-! ### A kind's judgement and effects -/

/-- What the judgement of a physical kind hands on to its effects. -/
def Physical.Plan : Physical → Type
  | .cut => CutPlan
  | .pick => PickPlan
  | .place => PlacePlan
  | .discard => PickPlan

/-- The judgement of a physical kind. -/
def Physical.judge : (kind : Physical) → Word → Run → Judged kind.Plan × Run
  | .cut => judgeCut
  | .pick => judgePick
  | .place => judgePlace
  | .discard => judgeDiscard

/-- The writes and effects of an admitted command of a physical kind. -/
def Physical.grant : (kind : Physical) → Request → kind.Plan → Run → Ack × Run
  | .cut => grantCut
  | .pick => grantPick
  | .place => grantPlace
  | .discard => grantDiscard

/-- The writes of a passing TRIAL of a physical kind. -/
def Physical.tried (ring : CmdRing) : (kind : Physical) → Request → kind.Plan → Run → Ack × Run
  | .cut => fun q _ r => grantTrial ring [] none q r
  | .pick => fun q _ r => grantTrial ring [] none q r
  | .place => grantTrialPlace
  | .discard => fun q _ r => grantTrial ring [] none q r

/-- A post of a physical kind, with or without the TRIAL flag. -/
def Physical.serve (kind : Physical) (ring : CmdRing) (tag : Tag) (q : Request) (r : Run) : Ack × Run :=
  servePost ring kind.judge (if ringTrial q.data = true then kind.tried ring else kind.grant) tag q r

/-- What the judgement of a service kind hands on to its effects. -/
def ServiceKind.Plan : ServiceKind → Type
  | .nestStop | .nestResume | .nestSync | .nestRelease => Nest
  | .laneStop => Fin 16 × StopRequest
  | .laneResume => Fin 16
  | .stationReset => Fin 8
  | .slotSet => Fin 8 × Nat × SlotState
  | .resolve => BoardRef × Resolution
  | .forget => Fin 32
  | .cupClear => Fin 4
  | .cellClear => Unit

/-- The judgement of a service kind. -/
def ServiceKind.judge : (kind : ServiceKind) → Word → Run → Judged kind.Plan × Run
  | .nestStop => judging judgeNestStop
  | .nestResume => judging judgeNestResume
  | .nestSync => judging judgeNestSync
  | .nestRelease => judging judgeNestRelease
  | .laneStop => judging judgeLaneStop
  | .laneResume => judging judgeLaneResume
  | .stationReset => judging judgeStationReset
  | .slotSet => judging judgeSlotSet
  | .resolve => judgeResolve
  | .forget => judging judgeForget
  | .cupClear => judging judgeCupClear
  | .cellClear => judging fun _ _ => Judged.pass ()

/-- The effects of an accepted command of a service kind. -/
def ServiceKind.effect : (kind : ServiceKind) → kind.Plan → Run → Run
  | .nestStop => fun n r => r.stopNest n
  | .nestResume => fun n r => r.resumeNest n
  | .nestSync => fun n r => r.queueJob (.sync n)
  | .nestRelease => fun n r => r.releaseNest n
  | .laneStop => fun x r => r.stopLane x.1 x.2
  | .laneResume => fun l r => r.resumeLane l
  | .stationReset => fun i r => (r.setStation i (r.st.stations.get i).emptied).touchLanes
  | .slotSet => fun x r => r.markSlot x.1 x.2.1 x.2.2
  | .resolve => applyResolve
  | .forget => applyForget
  | .cupClear => applyCupClear
  | .cellClear => applyCellClear

/-- A post of a service kind, with or without the TRIAL flag. -/
def ServiceKind.serve (kind : ServiceKind) (tag : Tag) (q : Request) (r : Run) : Ack × Run :=
  servePost .service kind.judge
    (if ringTrial q.data = true then fun q _ r => grantTrial .service [] none q r
      else grantService kind.effect) tag q r

/-! ### The rows -/

theorem physicalKind_ring {ring : CmdRing} {code : Nat} {kind : Physical} (h : physicalKind ring code = some kind) :
    (ring = .router ∧ kind = .cut) ∨
      (ring = .picker ∧ (kind = .pick ∨ kind = .place ∨ kind = .discard)) := by
  unfold physicalKind at h
  split at h <;> cases h <;> simp

theorem postClass_of_physical {ring : CmdRing} {code : Nat} {kind : Physical}
    (h : physicalKind ring code = some kind) : postClass ring = .admission ring := by
  rcases physicalKind_ring h with ⟨rfl, -⟩ | ⟨rfl, -⟩ <;> rfl

theorem postRow_physical {ring : CmdRing} {data : Word} {answers : List MemAnswer} {kind : Physical}
    (h : physicalKind ring (ringKind data) = some kind) :
    postRow ring data answers = some (if ringTrial data = true then .trialCommand answers else
      match kind with
      | .cut => .cut answers
      | .pick => .pick answers
      | .place => .place answers
      | .discard => .discard answers) := by
  have hr := physicalKind_ring h
  unfold postRow
  rcases hr with ⟨rfl, -⟩ | ⟨rfl, -⟩ <;> cases ringTrial data <;> simp [h] <;> cases kind <;> rfl

/-- What a post's row does, once the Engine has the post in hand. -/
def Serves (c : Instr) (s : State) (answers : List MemAnswer) (tag : Tag) (serve : Run → Ack × Run) : Prop :=
  exec c s = .next (Served (serve (Run.start s answers)) tag)

/-- The row that serves a post of a physical kind. -/
theorem serves_physical {s : State} {tag : Tag} {q : Request} {ring : CmdRing} {kind : Physical} {c : Instr}
    {answers : List MemAnswer} (hq : s.heldInHand = some (tag, q)) (hc : q.cls = postClass ring)
    (hk : physicalKind ring (ringKind q.data) = some kind) (hrow : postRow ring q.data answers = some c) :
    Serves c s answers tag (kind.serve ring tag q) := by
  rw [postClass_of_physical hk] at hc
  rw [postRow_physical hk] at hrow
  unfold Serves Physical.serve
  cases ht : ringTrial q.data with
  | true =>
    rw [ht, if_pos rfl] at hrow
    cases hrow
    show execTrialCommand answers s = _
    unfold execTrialCommand
    rw [heldStep_served hq (by simp [isTrial, hc, hk, ht])]
    simp only [serveTrial, hc, hk]
    cases kind <;> rfl
  | false =>
    have hdue : isPost kind ring false q = true := by simp [isPost, hc, hk, ht]
    rw [ht, if_neg nofun] at hrow
    rcases physicalKind_ring hk with ⟨rfl, rfl⟩ | ⟨rfl, rfl | rfl | rfl⟩ <;> cases hrow
    · exact heldStep_served hq hdue
    · exact heldStep_served hq hdue
    · exact heldStep_served hq hdue
    · exact heldStep_served hq hdue

/-- The row that serves an accepted service command of a kind. -/
def ServiceKind.row (kind : ServiceKind) (answers : List MemAnswer) : Instr :=
  match kind with
  | .nestStop => .nestStop answers
  | .nestResume => .nestResume answers
  | .nestSync => .nestSync answers
  | .nestRelease => .nestRelease answers
  | .laneStop => .laneStop answers
  | .laneResume => .laneResume answers
  | .stationReset => .stationReset answers
  | .slotSet => .slotSet answers
  | .resolve => .resolve answers
  | .forget => .forget answers
  | .cupClear => .cupClear answers
  | .cellClear => .cellClear answers

theorem postRow_service {data : Word} {answers : List MemAnswer} {kind : ServiceKind}
    (h : serviceKind (ringKind data) = some kind) :
    postRow .service data answers =
      some (if ringTrial data = true then .trialServiceCommand answers else kind.row answers) := by
  unfold postRow
  cases ringTrial data
  · simp only [h]
    cases kind <;> rfl
  · simp [h]

theorem postRow_service_none {data : Word} {answers : List MemAnswer} (h : serviceKind (ringKind data) = none) :
    postRow .service data answers = none := by
  unfold postRow
  cases ringTrial data <;> simp [h]

theorem postRow_physical_none {ring : CmdRing} {data : Word} {answers : List MemAnswer} (hr : ring ≠ .service)
    (h : physicalKind ring (ringKind data) = none) : postRow ring data answers = none := by
  unfold postRow
  cases ring with
  | service => exact absurd rfl hr
  | router => cases ringTrial data <;> simp [h]
  | picker => cases ringTrial data <;> simp [h]
  | stacker => cases ringTrial data <;> simp [h]

/-- The service kind of a row. -/
def ServiceKind.ofRow : Instr → Option ServiceKind
  | .nestStop _ => some .nestStop
  | .nestResume _ => some .nestResume
  | .nestSync _ => some .nestSync
  | .nestRelease _ => some .nestRelease
  | .laneStop _ => some .laneStop
  | .laneResume _ => some .laneResume
  | .stationReset _ => some .stationReset
  | .slotSet _ => some .slotSet
  | .resolve _ => some .resolve
  | .forget _ => some .forget
  | .cupClear _ => some .cupClear
  | .cellClear _ => some .cellClear
  | _ => none

theorem ServiceKind.ofRow_row (kind : ServiceKind) (answers : List MemAnswer) :
    ServiceKind.ofRow (kind.row answers) = some kind := by
  cases kind <;> rfl

/-- A service kind that a row names is the post's. -/
theorem serviceKind_of_row {data : Word} {answers : List MemAnswer} {kind : ServiceKind}
    (h : postRow .service data answers = some (kind.row answers)) :
    serviceKind (ringKind data) = some kind ∧ ringTrial data = false := by
  cases hk : serviceKind (ringKind data) with
  | none => rw [postRow_service_none hk] at h; cases h
  | some kind' =>
    rw [postRow_service hk] at h
    have ho := congrArg ServiceKind.ofRow (Option.some.inj h)
    rw [ServiceKind.ofRow_row] at ho
    cases ht : ringTrial data with
    | true => rw [ht, if_pos rfl] at ho; cases ho
    | false =>
      rw [ht, if_neg nofun, ServiceKind.ofRow_row] at ho
      exact ⟨ho, rfl⟩

theorem ServiceKind.serves_row {s : State} {tag : Tag} {q : Request} {kind : ServiceKind}
    {answers : List MemAnswer} (hq : s.heldInHand = some (tag, q)) (hc : q.cls = .service)
    (hk : serviceKind (ringKind q.data) = some kind) (ht : ringTrial q.data = false) :
    Serves (kind.row answers) s answers tag (servePost .service kind.judge (grantService kind.effect) tag q) := by
  have hdue : isService kind q = true := by simp [isService, hc, hk, ht]
  unfold Serves
  cases kind <;> exact heldStep_served hq hdue

/-- The row that serves a post of a service kind. -/
theorem serves_service {s : State} {tag : Tag} {q : Request} {kind : ServiceKind} {c : Instr}
    {answers : List MemAnswer} (hq : s.heldInHand = some (tag, q)) (hc : q.cls = .service)
    (hk : serviceKind (ringKind q.data) = some kind) (hrow : postRow .service q.data answers = some c) :
    Serves c s answers tag (kind.serve tag q) := by
  rw [postRow_service hk] at hrow
  unfold ServiceKind.serve
  cases ht : ringTrial q.data with
  | true =>
    rw [ht, if_pos rfl] at hrow
    cases hrow
    show execTrialServiceCommand answers s = _
    unfold execTrialServiceCommand
    rw [heldStep_served hq (by simp [isTrialService, hc, hk, ht])]
    simp only [serveTrialService, hk]
    cases kind <;> rfl
  | false =>
    rw [ht, if_neg nofun] at hrow
    cases hrow
    exact ServiceKind.serves_row hq hc hk ht

/-- Every post is served by the common checks, a judgement and a grant. -/
theorem serves_post {s : State} {tag : Tag} {q : Request} {ring : CmdRing} {c : Instr} {answers : List MemAnswer}
    (hq : s.heldInHand = some (tag, q)) (hc : q.cls = postClass ring) (hring : ring ≠ .stacker)
    (hrow : postRow ring q.data answers = some c) :
    kindFits ring (ringKind q.data) = true ∧
      ∃ (α : Type) (judge : Word → Run → Judged α × Run) (grant : Request → α → Run → Ack × Run),
        Serves c s answers tag (servePost ring judge grant tag q) := by
  cases ring with
  | stacker => exact absurd rfl hring
  | service =>
    cases hk : serviceKind (ringKind q.data) with
    | none => rw [postRow_service_none hk] at hrow; cases hrow
    | some kind => exact ⟨by simp [kindFits, hk], _, _, _, serves_service hq hc hk hrow⟩
  | router =>
    cases hk : physicalKind .router (ringKind q.data) with
    | none => rw [postRow_physical_none (ring := .router) (by decide) hk] at hrow; cases hrow
    | some kind => exact ⟨by simp [kindFits, hk], _, _, _, serves_physical hq hc hk hrow⟩
  | picker =>
    cases hk : physicalKind .picker (ringKind q.data) with
    | none => rw [postRow_physical_none (ring := .picker) (by decide) hk] at hrow; cases hrow
    | some kind => exact ⟨by simp [kindFits, hk], _, _, _, serves_physical hq hc hk hrow⟩

theorem kindFits_of_no_row {ring : CmdRing} {data : Word} {answers : List MemAnswer}
    (h : postRow ring data answers = none) : kindFits ring (ringKind data) = false := by
  have hphys (hr : ring ≠ .service) : physicalKind ring (ringKind data) = none := by
    cases hk : physicalKind ring (ringKind data) with
    | none => rfl
    | some kind => rw [postRow_physical hk] at h; cases h
  cases ring with
  | service =>
    cases hk : serviceKind (ringKind data) with
    | none => simp [kindFits, hk]
    | some kind => rw [postRow_service hk] at h; cases h
  | router => simp [kindFits, hphys]
  | picker => simp [kindFits, hphys]
  | stacker => simp [kindFits, hphys]

theorem RequestClass.ring_postClass {ring : CmdRing} (h : ring ≠ .stacker) :
    (postClass ring).ring = some ring := by
  cases ring with
  | stacker => exact absurd rfl h
  | service => rfl
  | router => rfl
  | picker => rfl

/-- A post of a kind that is not its ring's (R82, R198). -/
theorem serves_badKind {s : State} {tag : Tag} {q : Request} {ring : CmdRing} {answers : List MemAnswer}
    (hq : s.heldInHand = some (tag, q)) (hc : q.cls = postClass ring) (hring : ring ≠ .stacker)
    (hrow : postRow ring q.data answers = none) :
    Serves (.badKindPost answers) s answers tag
      (servePost (α := Unit) ring (fun _ r => (.refuse .badKind {}, r)) (fun _ _ r => (.done, r)) tag q) := by
  have hr : q.cls.ring = some ring := by rw [hc, RequestClass.ring_postClass hring]
  unfold Serves
  show execBadKindPost answers s = _
  unfold execBadKindPost
  rw [heldStep_served hq (by simp [isBadKind, hr, kindFits_of_no_row hrow])]
  simp only [serveBadKind, hr, Option.getD_some]

/-- Every post is served by the common checks, a judgement and a grant, one of a kind that is not the ring's too. -/
theorem serves_servedBy {s : State} {tag : Tag} {q : Request} {ring : CmdRing} {answers : List MemAnswer}
    (hq : s.heldInHand = some (tag, q)) (hc : q.cls = postClass ring) (hring : ring ≠ .stacker) :
    ∃ (α : Type) (judge : Word → Run → Judged α × Run) (grant : Request → α → Run → Ack × Run),
      Serves (servedBy ring q.data answers) s answers tag (servePost ring judge grant tag q) := by
  unfold servedBy
  cases hrow : postRow ring q.data answers with
  | some c => exact (serves_post hq hc hring hrow).2
  | none => exact ⟨_, _, _, serves_badKind hq hc hring hrow⟩

/-! ### How a post goes on -/

/-- The Engine serves the request it has in hand. -/
theorem serving_of_held {s : State} {tag : Tag} {q : Request} (h : s.heldInHand = some (tag, q)) :
    ∃ p, s.engine = .serving p := by
  obtain ⟨p, hp, -⟩ := State.heldInHand_some h
  exact ⟨p, hp⟩

theorem firstFailing_cons (passes : Bool) (cause : Cause) (rest : List (Bool × Cause)) :
    firstFailing ((passes, cause) :: rest) = if passes = true then firstFailing rest else some cause := rfl

/-- The common checks, judged after the reads of words 1 to 3, find what they would have found before (R82). -/
theorem waited_postChecks {s : State} {p : Fin 18} (he : s.engine = .serving p) (answers : List MemAnswer)
    (n : Nat) (ring : CmdRing) (q : Request) :
    (s.waited answers n).postChecks ring q = s.postChecks ring q := (s.waited_beside answers n).postChecks he ring q

theorem posted_postChecks {s : State} {ring : CmdRing} {tag : Tag} {q : Request} (h : Posted s ring tag q)
    (hk : kindFits ring (ringKind q.data) = true) : firstFailing (s.postChecks ring q) = none := by
  simp [State.postChecks, firstFailing, hk, h.atCursor, h.unnamed]

/-- A post that the common checks refuse (R82). -/
theorem servePost_prefix {α : Type} {ring : CmdRing} {judge : Word → Run → Judged α × Run}
    {grant : Request → α → Run → Ack × Run} {s : State} {p : Fin 18} {tag : Tag} {q : Request}
    {answers : List MemAnswer} {cause : Cause} (he : s.engine = .serving p) (ha : Answered answers 3)
    (hf : firstFailing (s.postChecks ring q) = some cause) :
    servePost ring judge grant tag q (Run.start s answers) =
      refusePost tag q cause {} (Run.start (s.waited answers 3) (answers.drop 3)) := by
  have hf' : firstFailing ((s.waited answers 3).postChecks ring q) = some cause := by
    rw [waited_postChecks he]; exact hf
  rw [servePost_read (r := Run.start s answers) ha]
  simp only [Run.start, hf']

/-- A post that passes the common checks is judged by its kind. -/
theorem servePost_judged {α : Type} {ring : CmdRing} {judge : Word → Run → Judged α × Run}
    {grant : Request → α → Run → Ack × Run} {s : State} {p : Fin 18} {tag : Tag} {q : Request}
    {answers : List MemAnswer} (he : s.engine = .serving p) (ha : Answered answers 3)
    (hf : firstFailing (s.postChecks ring q) = none) :
    servePost ring judge grant tag q (Run.start s answers) =
      match judge (word1 s answers q) (Run.start (s.waited answers 3) (answers.drop 3)) with
      | (.refuse cause refs, r) => refusePost tag q cause refs r
      | (.abandon, r) => (.hard, r)
      | (.pass x, r) => grant q x r := by
  have hf' : firstFailing ((s.waited answers 3).postChecks ring q) = none := by
    rw [waited_postChecks he]; exact hf
  rw [servePost_read (r := Run.start s answers) ha]
  simp only [Run.start, hf']
  rfl

/-- A read of a post that memory answers HARD abandons it (R102, R160). -/
theorem servePost_hard {α : Type} {ring : CmdRing} {judge : Word → Run → Judged α × Run}
    {grant : Request → α → Run → Ack × Run} {s : State} {tag : Tag} {q : Request} {answers : List MemAnswer}
    {k : Nat} (hk : k < 3) (ha : Answered answers k) (hn : ¬Answered answers (k + 1)) :
    servePost ring judge grant tag q (Run.start s answers) =
      (.hard, (Run.start (s.waited answers (k + 1)) (answers.drop (k + 1))).raise .memory) :=
  Run.reading_hard (r := Run.start s answers) hk ha hn _ _

/-! ### A refused post -/

/-- How a refused post ends (R84, R101, R159, R160). -/
theorem served_refusePost {v : State} {p : Fin 18} (hg : v.mode = .guarded) (he : v.engine = .serving p)
    (rest : List MemAnswer) (tag : Tag) (q : Request) (cause : Cause) (refs : Refs) :
    let u := v.wrote rest (q.word 3, verdictRefused cause v.time)
    let t := Served (refusePost tag q cause refs (Run.start v rest)) tag
    if (nextAnswer rest).hard = true then Abandoned (v.awaitNext rest) t tag
    else if ringTrial q.data = true then EndsAtOnce u t tag .soft
    else Refused u t tag .proc ⟨cause, none, some ⟨tag, .write, q.addr⟩, refs, u.time⟩ := by
  dsimp only
  by_cases ha : Answered rest 1
  · have hw := Run.writing_done (r := Run.start v rest) (ws := [(q.word 3, verdictRefused cause v.time)]) ha
    rw [if_neg (by rw [ha.next]; exact nofun)]
    unfold refusePost
    rw [show (Run.start v rest).st.time = v.time from rfl, hw]
    have hug : (v.wrote rest (q.word 3, verdictRefused cause v.time)).mode = .guarded :=
      ((v.wrote_beside rest _).mode he).trans hg
    cases ringTrial q.data with
    | true =>
      simp only [if_true]
      exact served_at_once _ _ tag .soft
    | false =>
      simp only [Bool.false_eq_true, if_false]
      exact served_refused hug _ tag
        { source := .proc, cause := cause, cycle := some (q.cycleRef tag), refs := refs }
  · rw [if_pos (Answered.next_not ha)]
    unfold refusePost
    rw [Run.writing_hard (r := Run.start v rest) (k := 0) (by simp) (.zero rest) ha]
    exact served_abandoned ((awaitNext_mode he rest).trans hg) _ tag

theorem postRefused_of_serves {c : Instr} {s v : State} {p : Fin 18} {tag : Tag} {q : Request}
    {answers rest : List MemAnswer} {cause : Cause} {refs : Refs} {serve : Run → Ack × Run}
    (hx : Serves c s answers tag serve) (hg : v.mode = .guarded) (he : v.engine = .serving p)
    (hs : serve (Run.start s answers) = refusePost tag q cause refs (Run.start v rest)) :
    PostRefused c s v tag q rest cause refs := by
  refine ⟨Served (refusePost tag q cause refs (Run.start v rest)) tag, ?_, served_refusePost hg he rest tag q cause refs⟩
  rw [← hs]
  exact hx

theorem waited_serving {s : State} {p : Fin 18} (he : s.engine = .serving p) (answers : List MemAnswer) (n : Nat) :
    (s.waited answers n).engine = .serving p := (s.waited_beside answers n).engine he

/-- Settles O13: each of the common checks after those before it. -/
theorem prefixRefusesInOrder : Obligations.PrefixRefusesInOrder := by
  unfold Obligations.PrefixRefusesInOrder
  intro s tag q ring answers hg hq hc hring ha refused
  obtain ⟨p, he⟩ := serving_of_held hq
  have refuse {c : Instr} {α : Type} {judge : Word → Run → Judged α × Run}
      {grant : Request → α → Run → Ack × Run} {cause : Cause}
      (hx : Serves c s answers tag (servePost ring judge grant tag q))
      (hf : firstFailing (s.postChecks ring q) = some cause) : refused c cause :=
    postRefused_of_serves hx ((waited_mode he answers 3).trans hg) (waited_serving he answers 3) (servePost_prefix he ha hf)
  refine ⟨fun hrow => ?_, fun c hrow => ?_⟩
  · refine refuse (serves_badKind hq hc hring hrow) ?_
    simp [State.postChecks, firstFailing, kindFits_of_no_row hrow]
  · obtain ⟨hfits, α, judge, grant, hx⟩ := serves_post hq hc hring hrow
    refine ⟨fun hslot => refuse hx ?_, fun hslot hnamed => refuse hx ?_⟩
    · simp [State.postChecks, firstFailing, hfits, hslot]
    · simp [State.postChecks, firstFailing, hfits, hslot, hnamed]

end Sys2Proof.Machine
end

section
/-! PROOF. The rows that serve a report or a load, and requests that a failed cycle abandons (R19, R102, R116,
R160, R186). -/

namespace Sys2Proof.Machine

open Sys2Proof.Claims

/-! ### Reports -/

/-- The outcome of a solicited report's kind (R122 to R127). -/
def ReportKind.outcome (k : ReportKind) : Word → Request → Fin 32 → Entry → Run → Run :=
  match k with
  | .cutEnd => cutOutcome
  | .pickEnd => pickOutcome
  | .discardEnd => discardOutcome
  | .placeEnd => fun w1 q i e r => pairOutcome (.placeEnd (reportResult w1)) q i e r
  | .presentEnd => fun w1 q i e r => pairOutcome (.presentEnd (presentEndObs w1)) q i e r
  | .arrived | .removed => fun _ _ _ _ r => r

theorem isReport_of_kind {q : Request} {ring : RepRing} {k : ReportKind} (hc : q.cls = .report ring)
    (hk : reportKind ring (ringKind q.data) = some k) : isReport k q = true := by
  simp [isReport, hc, hk]

/-- The row that serves a solicited report. -/
theorem serves_solicited {s : State} {tag : Tag} {q : Request} {ring : RepRing} {k : ReportKind}
    {answers : List MemAnswer} (hq : s.heldInHand = some (tag, q)) (hc : q.cls = .report ring)
    (hk : reportKind ring (ringKind q.data) = some k) (ha : k ≠ .arrived) (hr : k ≠ .removed) :
    Serves (reportRow ring q.data answers) s answers tag (serveSolicited k k.outcome tag q) := by
  have hdue := isReport_of_kind hc hk
  unfold Serves reportRow
  rw [hk]
  cases k with
  | arrived => exact absurd rfl ha
  | removed => exact absurd rfl hr
  | cutEnd => exact heldStep_served hq hdue
  | pickEnd => exact heldStep_served hq hdue
  | discardEnd => exact heldStep_served hq hdue
  | placeEnd => exact heldStep_served hq hdue
  | presentEnd => exact heldStep_served hq hdue

theorem serves_arrived {s : State} {tag : Tag} {q : Request} {answers : List MemAnswer}
    (hq : s.heldInHand = some (tag, q)) (hc : q.cls = .report .stacker)
    (hk : reportKind .stacker (ringKind q.data) = some .arrived) :
    Serves (.arrived answers) s answers tag
      (serveReport (fun _ s => (s.judgeArrived q, s.judgeArrived q)) (applyStation arrivedAct) tag q) :=
  heldStep_served hq (isReport_of_kind hc hk)

theorem serves_removed {s : State} {tag : Tag} {q : Request} {answers : List MemAnswer}
    (hq : s.heldInHand = some (tag, q)) (hc : q.cls = .report .stacker)
    (hk : reportKind .stacker (ringKind q.data) = some .removed) :
    Serves (.removed answers) s answers tag
      (serveReport (fun _ s => (s.judgeRemoved q, s.judgeRemoved q)) (applyStation removedAct) tag q) :=
  heldStep_served hq (isReport_of_kind hc hk)

theorem serves_mismatch {s : State} {tag : Tag} {q : Request} {ring : RepRing} {answers : List MemAnswer}
    (hq : s.heldInHand = some (tag, q)) (hc : q.cls = .report ring)
    (hk : reportKind ring (ringKind q.data) = none) :
    Serves (.reportKindMismatch answers) s answers tag
      (serveReport (fun _ _ => (Verdict.disputed .kindMismatch, ()))
        (fun t q _ _ r => r.dispute t q .kindMismatch (mismatchRefs q)) tag q) :=
  heldStep_served hq (by simp [isKindMismatch, hc, hk])

theorem reportKind_station {ring : RepRing} {code : Nat} {k : ReportKind} (h : reportKind ring code = some k)
    (hs : k = .arrived ∨ k = .removed) : ring = .stacker := by
  unfold reportKind at h
  split at h <;> cases h <;> simp at hs ⊢

/-- Every report is served by reads, a verdict and an outcome. -/
theorem serves_report {s : State} {tag : Tag} {q : Request} {ring : RepRing} (answers : List MemAnswer)
    (hq : s.heldInHand = some (tag, q)) (hc : q.cls = .report ring) :
    ∃ (α : Type) (judge : Word → State → Verdict × α) (apply : Tag → Request → Word → α → Run → Run),
      Serves (reportRow ring q.data answers) s answers tag (serveReport judge apply tag q) := by
  cases hk : reportKind ring (ringKind q.data) with
  | none =>
    have hrow : reportRow ring q.data answers = .reportKindMismatch answers := by
      rw [reportRow, hk]
    rw [hrow]
    exact ⟨_, _, _, serves_mismatch hq hc hk⟩
  | some k =>
    by_cases ha : k = .arrived
    · have hring := reportKind_station hk (.inl ha)
      subst ha hring
      have hrow : reportRow .stacker q.data answers = .arrived answers := by
        rw [reportRow, hk]
      rw [hrow]
      exact ⟨_, _, _, serves_arrived hq hc hk⟩
    by_cases hr : k = .removed
    · have hring := reportKind_station hk (.inr hr)
      subst hr hring
      have hrow : reportRow .stacker q.data answers = .removed answers := by
        rw [reportRow, hk]
      rw [hrow]
      exact ⟨_, _, _, serves_removed hq hc hk⟩
    have h := serves_solicited (answers := answers) hq hc hk ha hr
    unfold serveSolicited at h
    exact ⟨_, _, _, h⟩

section ServeReport

variable {α : Type} {judge : Word → State → Verdict × α} {apply : Tag → Request → Word → α → Run → Run}
  {s : State} {tag : Tag} {q : Request} {answers : List MemAnswer}

/-- A read of a report that memory answers HARD abandons it (R116). -/
theorem serveReport_read_hard {k : Nat} (hk : k < 2) (ha : Answered answers k) (hn : ¬Answered answers (k + 1)) :
    serveReport judge apply tag q (Run.start s answers) =
      (.hard, (Run.start (s.waited answers (k + 1)) (answers.drop (k + 1))).raise .memory) :=
  Run.reading_hard (r := Run.start s answers) hk ha hn _ _

/-- A report whose words are read is judged, and its verdict and word 0 written (R116). -/
theorem serveReport_read (ha : Answered answers 2) :
    serveReport judge apply tag q (Run.start s answers) =
      (Run.start (s.waited answers 2) (answers.drop 2)).writing
        [(q.word 3, (judge (word1 s answers q) (s.waited answers 2)).1.word (s.waited answers 2).time),
          (q.word 0, q.data)]
        fun r => (.done, apply tag q (word1 s answers q) (judge (word1 s answers q) (s.waited answers 2)).2 r) := by
  unfold serveReport
  rw [Run.reading_done (r := Run.start s answers) ha, wordAt_wordsRead _ _ _ _ (by omega)]
  rfl

/-- A report that no cycle fails is applied or disputed (R116). -/
theorem serveReport_done (ha : Answered answers 4) :
    serveReport judge apply tag q (Run.start s answers) =
      (.done, apply tag q (word1 s answers q) (judge (word1 s answers q) (s.waited answers 2)).2
        (Run.start ((s.waited answers 2).wroteAll (answers.drop 2)
          [(q.word 3, (judge (word1 s answers q) (s.waited answers 2)).1.word (s.waited answers 2).time),
            (q.word 0, q.data)]) (answers.drop 4))) := by
  obtain ⟨hr, hw⟩ := Answered.split (n := 2) (k := 2) ha
  rw [serveReport_read hr]
  generalize hws : ([_, _] : List (Nat × Word)) = ws
  have hl : ws.length = 2 := by rw [← hws]; rfl
  rw [Run.writing_done (r := Run.start (s.waited answers 2) (answers.drop 2)) (by rw [hl]; exact hw)]
  simp [Run.start, hl]

end ServeReport

/-! ### Loads -/

/-- How many words some sections have. -/
def sectionsSize (ks : List Nat) : Nat := (ks.map fun k => (sectionPlace k).2).sum

/-- The sections of a load are read as memory answers (R186). -/
theorem Run.readSections_done {s : State} {ks : List Nat} {answers : List MemAnswer}
    (ha : Answered answers (sectionsSize ks)) :
    (Run.start s answers).readSections ks = (some (bodyRead s answers ks),
      Run.start (s.waited answers (sectionsSize ks)) (answers.drop (sectionsSize ks))) := by
  induction ks generalizing s answers with
  | nil => simp [Run.readSections, bodyRead, sectionsSize, State.waited]
  | cons k ks ih =>
    have hsize : sectionsSize (k :: ks) = (sectionPlace k).2 + sectionsSize ks := by simp [sectionsSize]
    rw [hsize] at ha ⊢
    obtain ⟨hk, hks⟩ := ha.split
    unfold Run.readSections
    rw [Run.reads_done (r := Run.start s answers) hk]
    have h := ih (s := s.waited answers (sectionPlace k).2) hks
    rw [State.waited_add, List.drop_drop] at h
    simp only [Run.start] at h ⊢
    rw [h]
    rfl

/-- A read of a load that memory answers HARD ends the reading (R19, R186). -/
theorem Run.readSections_hard {s : State} {ks : List Nat} {answers : List MemAnswer} {k : Nat}
    (hlt : k < sectionsSize ks) (ha : Answered answers k) (hn : ¬Answered answers (k + 1)) :
    (Run.start s answers).readSections ks =
      (none, (Run.start (s.waited answers (k + 1)) (answers.drop (k + 1))).raise .memory) := by
  induction ks generalizing s answers k with
  | nil => simp [sectionsSize] at hlt
  | cons x ks ih =>
    have hsize : sectionsSize (x :: ks) = (sectionPlace x).2 + sectionsSize ks := by simp [sectionsSize]
    rw [hsize] at hlt
    unfold Run.readSections
    by_cases hx : k < (sectionPlace x).2
    · rw [Run.reads_hard (r := Run.start s answers) hx ha hn]
      rfl
    · obtain ⟨m, rfl⟩ : ∃ m, k = (sectionPlace x).2 + m := ⟨k - (sectionPlace x).2, by omega⟩
      obtain ⟨hread, hrest⟩ := ha.split
      rw [Run.reads_done (r := Run.start s answers) hread]
      have hn' : ¬Answered (answers.drop (sectionPlace x).2) (m + 1) := fun h =>
        hn (by rw [Nat.add_assoc]; exact Answered.add_iff.2 ⟨hread, h⟩)
      have h := ih (s := s.waited answers (sectionPlace x).2) (by omega) hrest hn'
      rw [State.waited_add, List.drop_drop, ← Nat.add_assoc] at h
      simp only [Run.start] at h ⊢
      rw [h]

theorem serves_load {s : State} {tag : Tag} {q : Request} {answers : List MemAnswer}
    (hq : s.heldInHand = some (tag, q)) (hc : q.cls = .load) :
    Serves (.rootRecordLoad answers) s answers tag (serveLoad tag q) :=
  heldStep_served hq (by rw [hc]; rfl)

/-- A load that may be judged: in OPEN_PATH mode any, in GUARDED mode one that was classified so, or from a PROC
tag (R186). -/
theorem lateLoad_false {s : State} {tag : Tag} {q : Request}
    (h : s.mode = .guarded → q.role ≠ none ∨ s.roleOf tag = .proc) : lateLoad tag q s = false := by
  unfold lateLoad
  cases hg : s.guarded with
  | false => rfl
  | true =>
    rcases h (s.guarded_iff.1 hg) with h | h
    · cases hr : q.role with
      | none => exact absurd hr h
      | some role => rfl
    · simp [h]

theorem readSections_load {s : State} {q : Request} {answers : List MemAnswer}
    (ha : Answered answers (bodySize q)) :
    (Run.start s answers).readSections (loadSections q.data) =
      (some (bodyOf s answers q), Run.start (loadRead s answers q) (answers.drop (bodySize q))) :=
  Run.readSections_done ha

/-- A load that fails its judgement is refused (R187, R191). -/
theorem serveLoad_refused {s : State} {tag : Tag} {q : Request} {answers : List MemAnswer} {f : LoadFailure}
    (hl : lateLoad tag q s = false) (ha : Answered answers (bodySize q))
    (hj : (loadRead s answers q).judgeLoad (bodyOf s answers q) = some f) :
    serveLoad tag q (Run.start s answers) =
      refuseLoad tag q f (Run.start (loadRead s answers q) (answers.drop (bodySize q))) := by
  have hst : ∀ (u : State) rest, (Run.start u rest).st = u := fun _ _ => rfl
  simp only [serveLoad, hst, hl, Bool.false_eq_true, if_false, readSections_load ha, hj]

/-- A load that passes its judgement is forwarded and applied (R192). -/
theorem serveLoad_passed {s : State} {tag : Tag} {q : Request} {answers : List MemAnswer}
    (hl : lateLoad tag q s = false) (ha : Answered answers (bodySize q))
    (hj : (loadRead s answers q).judgeLoad (bodyOf s answers q) = none) :
    serveLoad tag q (Run.start s answers) =
      (Run.start (loadRead s answers q) (answers.drop (bodySize q))).writing [(q.word 0, q.data)]
        fun r => (.done, applyLoad q (bodyOf s answers q) r) := by
  have hst : ∀ (u : State) rest, (Run.start u rest).st = u := fun _ _ => rfl
  simp only [serveLoad, hst, hl, Bool.false_eq_true, if_false, readSections_load ha, hj]

theorem serveLoad_hard {s : State} {tag : Tag} {q : Request} {answers : List MemAnswer} {k : Nat}
    (hl : lateLoad tag q s = false) (hk : k < bodySize q) (ha : Answered answers k)
    (hn : ¬Answered answers (k + 1)) :
    serveLoad tag q (Run.start s answers) =
      (.hard, (Run.start (s.waited answers (k + 1)) (answers.drop (k + 1))).raise .memory) := by
  have hst : ∀ (u : State) rest, (Run.start u rest).st = u := fun _ _ => rfl
  simp only [serveLoad, hst, hl, Bool.false_eq_true, if_false, Run.readSections_hard hk ha hn]

end Sys2Proof.Machine
end

section
/-! PROOF. Requests that a failed read abandons (R19, R44, R46, R102, R116, R160, R186). -/

namespace Sys2Proof.Machine

open Sys2Proof.Claims

theorem State.waited_beats (s : State) (answers : List MemAnswer) (n : Nat) : s.Beats (s.waited answers n) := by
  induction n generalizing s answers with
  | zero => exact .refl s
  | succ n ih => exact (s.await_beats _).trans (ih _ _)

/-- Reads of the Engine leave what it judges by (R42, R49, R53). -/
theorem undisturbed_waited {s : State} {p : Fin 18} (he : s.engine = .serving p) (answers : List MemAnswer)
    (n : Nat) : Undisturbed s (s.waited answers n) :=
  undisturbed_of_beats (s.waited_beside answers n) (s.waited_beats answers n) he

/-- A request whose read memory answers HARD. -/
theorem abandoned_of_serves {c : Instr} {s : State} {p : Fin 18} {tag : Tag} {answers : List MemAnswer}
    {serve : Run → Ack × Run} {n : Nat} (hx : Serves c s answers tag serve) (hg : s.mode = .guarded)
    (he : s.engine = .serving p)
    (hs : serve (Run.start s answers) = (.hard, (Run.start (s.waited answers n) (answers.drop n)).raise .memory)) :
    ∃ t, exec c s = .next t ∧ Abandoned (s.waited answers n) t tag ∧ Undisturbed s (s.waited answers n) := by
  unfold Serves at hx
  rw [hs] at hx
  exact ⟨_, hx, served_abandoned ((waited_mode he answers n).trans hg) _ tag, undisturbed_waited he answers n⟩

/-! ### A fill that fails -/

/-- A judgement whose fetch fails abandons the command (R44, R102). -/
theorem fetch_failed {α : Type} {b : BoardRef} {refs : Refs} {judge : CacheLine → Run → Judged α × Run}
    {u x : State} {answers rest : List MemAnswer} (h : FillFails u answers b x rest) :
    fetch b refs judge (Run.start u answers) = (.abandon, (Run.start x rest).raise .memory) := by
  unfold fetch
  rw [h]

theorem nestChecks_ok {s : State} {w1 : Word} {b : BoardRef} (hn : Nest.ofCode (cmdNest w1) = some b.nest)
    (hp : cmdPosition w1 = b.pos) (hs : (s.nest b.nest).state = .active) (hlt : b.pos < s.boardCount b.nest) :
    s.nestChecks w1 = .ok b := by
  unfold State.nestChecks
  simp only [hn, hs, NestState.refusal, hp, hlt, if_true]

theorem asFin_val {n : Nat} {i : Fin n} {k : Nat} (h : k = i.val) : asFin n k = some i := asFin_some.2 h

section Failed

variable {u x : State} {answers rest : List MemAnswer} {w1 : Word} {b : BoardRef}
  (h : FillFails u answers b x rest)
include h

theorem judgeCut_failed (hf : FetchesBoard u .cut w1 b) :
    judgeCut w1 (Run.start u answers) = (.abandon, (Run.start x rest).raise .memory) := by
  obtain ⟨hn, hp, hs, hlt⟩ := hf
  have hst : (Run.start u answers).st = u := rfl
  simp only [judgeCut, hst, nestChecks_ok hn hp hs hlt, fetch_failed h]

theorem judgePick_failed (hf : FetchesBoard u .pick w1 b) :
    judgePick w1 (Run.start u answers) = (.abandon, (Run.start x rest).raise .memory) := by
  obtain ⟨hn, hp, hs, hlt⟩ := hf
  have hst : (Run.start u answers).st = u := rfl
  simp only [judgePick, hst, nestChecks_ok hn hp hs hlt, fetch_failed h]

/-- A command that names a cup fetches the board that the cup names (R92, R98). -/
theorem withCup_failed {α : Type} {judge : Fin 4 → CacheLine → Run → Judged α × Run} {c : Fin 4}
    (hc : cmdCup w1 = c.val) (hcup : u.cups.get c = ⟨.loaded, some b⟩) :
    withCup w1 judge (Run.start u answers) = (.abandon, (Run.start x rest).raise .memory) := by
  have hst : (Run.start u answers).st = u := rfl
  simp only [withCup, asFin_val hc, hst, hcup, CupState.putRefusal, fetch_failed h]

/-- A physical command that passes the checks before its board fetches it (R44, R102). -/
theorem Physical.judge_failed {kind : Physical} (hf : FetchesBoard u kind w1 b) :
    kind.judge w1 (Run.start u answers) = (.abandon, (Run.start x rest).raise .memory) := by
  cases kind with
  | cut => exact judgeCut_failed h hf
  | pick => exact judgePick_failed h hf
  | place =>
    obtain ⟨c, hc, hcup⟩ := hf
    exact withCup_failed h hc hcup
  | discard =>
    obtain ⟨c, hc, hcup⟩ := hf
    exact withCup_failed h hc hcup

end Failed

/-! ### The target of a RESOLVE -/

theorem BoardState.ofCode_code (x : BoardState) : BoardState.ofCode x.code = some x := by
  cases x <;> rfl

theorem BoardState.code_of_ofCode {k : Nat} {x : BoardState} (h : BoardState.ofCode k = some x) : k = x.code := by
  unfold BoardState.ofCode at h
  split at h <;> cases h <;> rfl

/-- The states that a RESOLVE can give (R161). -/
def BoardState.target : BoardState → Bool
  | .intact | .partCut | .free | .held | .stacked | .scrapped | .lost => true
  | .cutting | .picking | .placing | .discarding | .left | .uncertain => false

theorem resolveTarget_code {x : BoardState} (h : x.target = true) : resolveTarget x.code = some x := by
  revert h
  cases x <;> decide

theorem resolveTarget_some {k : Nat} {x : BoardState} (h : resolveTarget k = some x) :
    k = x.code ∧ x.target = true := by
  unfold resolveTarget at h
  split at h
  case h_8 => cases h
  all_goals
    next hk =>
      cases h
      exact ⟨BoardState.code_of_ofCode hk, rfl⟩

theorem BoardState.target_iff (x : BoardState) :
    x ∈ [BoardState.intact, .partCut, .free, .held, .stacked, .scrapped, .lost] ↔ x.target = true := by
  cases x <;> decide

theorem targetNamed_iff (k : Nat) : TargetNamed k ↔ ∃ x, resolveTarget k = some x := by
  constructor
  · rintro ⟨x, hx, rfl⟩
    exact ⟨x, resolveTarget_code ((BoardState.target_iff x).1 hx)⟩
  · rintro ⟨x, hx⟩
    obtain ⟨hk, ht⟩ := resolveTarget_some hx
    exact ⟨x, (BoardState.target_iff x).2 ht, hk⟩

theorem judgeResolve_failed {u x : State} {answers rest : List MemAnswer} {w1 : Word} {b : BoardRef}
    (hl : ResolveLooksUp u w1 b) (h : FillFails u answers b x rest) :
    judgeResolve w1 (Run.start u answers) = (.abandon, (Run.start x rest).raise .memory) := by
  obtain ⟨hn, hp, ht, hload, hlt⟩ := hl
  obtain ⟨target, ht⟩ := (targetNamed_iff _).1 ht
  have hst : (Run.start u answers).st = u := rfl
  simp only [judgeResolve, hn, ht, hst, hload, hp, hlt, if_true, fetch_failed h]

/-! ### What the Engine judges by while it waits -/

namespace State.Beside

variable {s t : State} {p : Fin 18} (h : s.Beside t) (e : s.engine = .serving p)
include h e

theorem nest_state (n : Nest) : (t.nest n).state = (s.nest n).state := by rw [h.nest e n]

theorem nest_claim (n : Nest) : (t.nest n).claim = (s.nest n).claim := by rw [h.nest e n]

theorem boardCount (n : Nest) : t.boardCount n = s.boardCount n := by
  rw [State.boardCount, State.boardCount, h.nest e n]

theorem policy (n : Nest) : t.policy n = s.policy n := by
  rw [State.policy, State.policy, h.nest e n]

theorem fetchesBoard {kind : Physical} {w1 : Word} {b : BoardRef} (hf : FetchesBoard s kind w1 b) :
    FetchesBoard t kind w1 b := by
  cases kind with
  | cut =>
    obtain ⟨hn, hp, hs, hlt⟩ := hf
    exact ⟨hn, hp, (h.nest_state e _).trans hs, by rw [h.boardCount e]; exact hlt⟩
  | pick =>
    obtain ⟨hn, hp, hs, hlt⟩ := hf
    exact ⟨hn, hp, (h.nest_state e _).trans hs, by rw [h.boardCount e]; exact hlt⟩
  | place =>
    obtain ⟨c, hc, hcup⟩ := hf
    exact ⟨c, hc, by rw [h.cups e]; exact hcup⟩
  | discard =>
    obtain ⟨c, hc, hcup⟩ := hf
    exact ⟨c, hc, by rw [h.cups e]; exact hcup⟩

theorem resolveLooksUp {w1 : Word} {b : BoardRef} (hl : ResolveLooksUp s w1 b) : ResolveLooksUp t w1 b := by
  obtain ⟨hn, hp, ht, hload, hlt⟩ := hl
  exact ⟨hn, hp, ht, by rw [h.nest_state e]; exact hload, by rw [h.boardCount e]; exact hlt⟩

end State.Beside

theorem servedBy_of_row {ring : CmdRing} {data : Word} {answers : List MemAnswer} {c : Instr}
    (h : postRow ring data answers = some c) : servedBy ring data answers = c := by
  rw [servedBy, h]
  rfl

/-- A failed fill abandons the post whose lookup made it (R44, R102). -/
theorem post_abandoned {s x : State} {ring : CmdRing} {tag : Tag} {q : Request} {answers rest : List MemAnswer}
    {c : Instr} {α : Type} {judge : Word → Run → Judged α × Run} {grant : Request → α → Run → Ack × Run}
    (hp : Posted s ring tag q) (ha : Answered answers 3) (hrow : postRow ring q.data answers = some c)
    (hfits : kindFits ring (ringKind q.data) = true)
    (hx : Serves c s answers tag (servePost ring judge grant tag q)) (hg : x.mode = .guarded)
    (hj : judge (word1 s answers q) (Run.start (s.waited answers 3) (answers.drop 3)) =
      (.abandon, (Run.start x rest).raise .memory)) :
    ∃ t, exec (servedBy ring q.data answers) s = .next t ∧ Abandoned x t tag := by
  obtain ⟨p, he⟩ := serving_of_held hp.inHand
  rw [servedBy_of_row hrow]
  unfold Serves at hx
  rw [servePost_judged he ha (posted_postChecks hp hfits), hj] at hx
  exact ⟨_, hx, served_abandoned hg rest tag⟩

/-- A failed fill leaves the mode. -/
theorem fillFails_mode {u x : State} {answers rest : List MemAnswer} {b : BoardRef} (hu : u.mode = .guarded)
    (h : FillFails u answers b x rest) : x.mode = .guarded := by
  have hk := (Run.start u answers).lookup_keeps b
  rw [h] at hk
  have hr := (Run.start x rest).raise_keeps (f := .memory) trivial
  exact (hr.mode.symm.trans hk.mode).trans hu

/-- Settles O14. -/
theorem failedReadAbandonsTheRequest : Obligations.FailedReadAbandonsTheRequest := by
  unfold Obligations.FailedReadAbandonsTheRequest
  intro s tag q answers hq
  obtain ⟨p, he⟩ := serving_of_held hq
  refine ⟨fun k ha hn => ⟨fun ring hg hc hring hk => ?_, fun ring hg hc hk => ?_, fun hc hk => ⟨fun hg hr => ?_,
    fun hg => ?_⟩⟩, fun ring b x rest hp ha hkind hfill => ?_⟩
  · obtain ⟨α, judge, grant, hx⟩ := serves_servedBy (answers := answers) hq hc hring
    exact abandoned_of_serves hx hg he (servePost_hard hk ha hn)
  · obtain ⟨α, judge, apply, hx⟩ := serves_report answers hq hc
    exact abandoned_of_serves hx hg he (serveReport_read_hard hk ha hn)
  · exact abandoned_of_serves (serves_load hq hc) hg he
      (serveLoad_hard (lateLoad_false fun _ => hr) hk ha hn)
  · have hx := serves_load (answers := answers) hq hc
    unfold Serves at hx
    rw [serveLoad_hard (lateLoad_false fun hg' => by rw [hg] at hg'; cases hg') hk ha hn] at hx
    exact ⟨_, hx, served_abandoned_open ((waited_mode he answers (k + 1)).trans hg) _ tag,
      undisturbed_waited he answers (k + 1)⟩
  · have hbeside := s.waited_beside answers 3
    have hg : x.mode = .guarded := fillFails_mode ((waited_mode he answers 3).trans hp.guarded) hfill
    rcases hkind with ⟨kind, hk, hf⟩ | ⟨rfl, hk, hl⟩
    · have hrow := postRow_physical (answers := answers) hk
      obtain ⟨hfits, -⟩ := serves_post hq hp.cls (by rcases physicalKind_ring hk with ⟨rfl, -⟩ | ⟨rfl, -⟩ <;> decide)
        hrow
      exact post_abandoned hp ha hrow hfits (serves_physical hq hp.cls hk hrow) hg
        (Physical.judge_failed hfill (hbeside.fetchesBoard he hf))
    · have hrow := postRow_service (answers := answers) hk
      exact post_abandoned hp ha hrow (by simp [kindFits, hk]) (serves_service hq hp.cls hk hrow) hg
        (judgeResolve_failed (hbeside.resolveLooksUp he hl) hfill)

end Sys2Proof.Machine
end

section
/-! PROOF. Requests that a failed write abandons (R19, R37, R116, R160, R186, R192). -/

namespace Sys2Proof.Machine

open Sys2Proof.Claims

/-- A service command that passes its checks goes on to its effects, its judgement having changed nothing. -/
theorem ServiceKind.judge_passes {kind : ServiceKind} {w1 : Word} {u : State} (h : servicePasses kind w1 u)
    (rest : List MemAnswer) : ∃ x, kind.judge w1 (Run.start u rest) = (.pass x, Run.start u rest) := by
  have pass {α : Type} {judge : Word → State → Judged α} (hj : ∃ x, judge w1 u = .pass x) :
      ∃ x, judging judge w1 (Run.start u rest) = (.pass x, Run.start u rest) := by
    obtain ⟨x, hx⟩ := hj
    exact ⟨x, by rw [judging, show (Run.start u rest).st = u from rfl, hx]⟩
  cases kind with
  | resolve => exact h.elim
  | cellClear => exact ⟨(), rfl⟩
  | nestStop => exact pass h
  | nestResume => exact pass h
  | nestSync => exact pass h
  | nestRelease => exact pass h
  | laneStop => exact pass h
  | laneResume => exact pass h
  | stationReset => exact pass h
  | slotSet => exact pass h
  | forget => exact pass h
  | cupClear => exact pass h

theorem brokenOff_mode {s : State} {p : Fin 18} (he : s.engine = .serving p) (answers : List MemAnswer)
    (ws : List (Nat × Word)) (k : Nat) : (brokenOff s answers ws k).mode = s.mode := by
  have hb := s.wroteAll_beside answers (ws.take k)
  exact (awaitNext_mode (hb.engine he) _).trans (hb.mode he)

/-- Writes of a run that has done nothing yet, one of them answered HARD. -/
theorem writing_abandoned {v : State} {p : Fin 18} {rest : List MemAnswer} {ws : List (Nat × Word)} {k : Nat}
    (hg : v.mode = .guarded) (he : v.engine = .serving p) (hk : k < ws.length) (ha : Answered rest k)
    (hn : ¬Answered rest (k + 1)) (f : Run → Ack × Run) (tag : Tag) :
    Abandoned (brokenOff v rest ws k) (Served ((Run.start v rest).writing ws f) tag) tag := by
  rw [Run.writing_hard (r := Run.start v rest) hk ha hn]
  exact served_abandoned ((brokenOff_mode he rest ws k).trans hg) _ tag

/-- One write answered HARD. -/
theorem writing_abandoned_one {v : State} {rest : List MemAnswer} {w : Nat × Word} (hn : ¬Answered rest 1)
    (f : Run → Ack × Run) :
    (Run.start v rest).writing [w] f = (.hard, (Run.start (v.awaitNext rest) (rest.drop 1)).raise .memory) :=
  Run.writing_hard (r := Run.start v rest) (k := 0) (by simp) (.zero rest) hn f

theorem not_answered_drop {answers : List MemAnswer} {n k : Nat} (ha : Answered answers n)
    (hn : ¬Answered answers (n + k)) : ¬Answered (answers.drop n) k :=
  fun h => hn (Answered.add_iff.2 ⟨ha, h⟩)

theorem Verdict.word_cases (v : Verdict) (t : Time) :
    v.word t = verdictApplied t ∨ ∃ cause, v.word t = verdictDisputed cause t := by
  cases v with
  | applied => exact .inl rfl
  | disputed cause => exact .inr ⟨cause, rfl⟩

/-- Settles O15. -/
theorem failedWriteAbandonsTheRequest : Obligations.FailedWriteAbandonsTheRequest := by
  unfold Obligations.FailedWriteAbandonsTheRequest
  intro s tag q answers hq
  obtain ⟨p, he⟩ := serving_of_held hq
  refine ⟨fun kind k hp hk ht hpass hlt ha hn => ?_, fun ring k hrep hlt ha hn => ?_, fun hc ha hn => ?_,
    fun b hg hc hl hun hgrade hlane hn => ?_⟩
  · have hv := waited_serving he answers 3
    have hrow : servedBy .service q.data answers = kind.row answers :=
      servedBy_of_row (by rw [postRow_service hk, ht]; rfl)
    have hx := ServiceKind.serves_row (answers := answers) hq hp.cls hk ht
    obtain ⟨x, hj⟩ := ServiceKind.judge_passes hpass (answers.drop 3)
    obtain ⟨hread, hwrite⟩ := ha.split
    unfold Serves at hx
    rw [servePost_judged he hread (posted_postChecks hp (by simp [kindFits, hk])), hj] at hx
    rw [hrow]
    exact ⟨_, hx, writing_abandoned ((waited_mode he answers 3).trans hp.guarded) hv (by simpa using hlt) hwrite
      (not_answered_drop hread hn) _ tag⟩
  · have hv := waited_serving he answers 2
    obtain ⟨α, judge, apply, hx⟩ := serves_report answers hq hrep.cls
    obtain ⟨hread, hwrite⟩ := ha.split
    unfold Serves at hx
    rw [serveReport_read hread] at hx
    exact ⟨_, _, hx, Verdict.word_cases _ _,
      writing_abandoned ((waited_mode he answers 2).trans hrep.guarded) hv (by simpa using hlt) hwrite
        (not_answered_drop hread hn) _ tag⟩
  · intro v hj u
    have hx := serves_load (answers := answers) hq hc
    have hvm : v.mode = s.mode := waited_mode he answers (bodySize q)
    have hum : u.mode = s.mode := (awaitNext_mode (waited_serving he answers (bodySize q)) _).trans hvm
    have hn' := not_answered_drop ha hn
    unfold Serves at hx
    refine ⟨fun hg hr => ?_, fun hg => ?_⟩
    · rw [serveLoad_passed (lateLoad_false fun _ => hr) ha hj, writing_abandoned_one hn'] at hx
      exact ⟨_, hx, served_abandoned (hum.trans hg) _ tag⟩
    · rw [serveLoad_passed (lateLoad_false fun hg' => by rw [hg] at hg'; cases hg') ha hj,
        writing_abandoned_one hn'] at hx
      exact ⟨_, hx, served_abandoned_open (hum.trans hg) _ tag⟩
  · have hpass : firstFailing ((Run.start s answers).st.editChecks b q.data) = none :=
      editChecks_pass hl ((State.boardBusy_false_iff s b).2 hun) ((boardWord1Valid_iff q.data).2 ⟨hgrade, hlane⟩)
    have hx := exec_boardEdit (answers := answers) hq hc
    have hserve : serveEdit b tag q (Run.start s answers) =
        (.hard, (Run.start (s.awaitNext answers) (answers.drop 1)).raise .memory) := by
      simp only [serveEdit, hpass]
      exact writing_abandoned_one hn _
    rw [hserve] at hx
    exact ⟨_, hx, served_abandoned ((awaitNext_mode he answers).trans hg) _ tag⟩

end Sys2Proof.Machine
end

section
/-! PROOF. The judgement of a load does not follow R188: the model's table of role codes answers NONE for every
code above 5, where R188 asks that the codes of S0 name a role. -/

namespace Sys2Proof.Machine

open Sys2Proof.Claims

/-! ### A load whose S0 holds a role code that names no role -/

/-- S0's first word: role code 7 for tag 0, and PROC, ROUTER, PICKER and STACKER for tags 1 to 4. -/
def unnamedRoles : Word := 0x0000000403020107#64

/-- The cell before the load: S0 stands in the Root Record. -/
def unnamedRolesCell : State :=
  { State.reset with mem := Memory.writeBytes [] 0x808 unnamedRoles 8 }

/-- A load word that selects S0 alone. -/
def loadOfRoles : Request := ⟨0x800, BitVec.twoPow 64 16, none, .load⟩

/-- The part as it judges the load: GUARDED, with nothing configured that could overlap. -/
def unnamedRolesPart : State := { State.reset with mode := .guarded }

theorem bodyOf_unnamedRoles : bodyOf unnamedRolesCell [] loadOfRoles = [(0, [unnamedRoles, 0])] := by
  decide

/-- The part accepts the load. -/
theorem judgeLoad_unnamedRoles : unnamedRolesPart.judgeLoad [(0, [unnamedRoles, 0])] = none := by
  decide

/-- The contents of S0 do not pass R188. -/
theorem not_sectionFits_unnamedRoles : ¬SectionFits 0 [unnamedRoles, 0] := fun h =>
  absurd (h.1 0 (by decide)) (by decide)

/-- The load fails INVALID at S0 by R187 and R188. -/
theorem loadFails_unnamedRoles : LoadFails unnamedRolesPart [(0, [unnamedRoles, 0])] (.invalid 0) :=
  ⟨nofun, rfl, fun j hj => absurd hj (Nat.not_lt_zero j), fun hvalid => not_sectionFits_unnamedRoles hvalid.1⟩

/-- Refutes O46: a load whose S0 gives tag 0 the role code 7 passes its judgement, where R188 fails it INVALID. -/
theorem not_loadIsJudgedInOrder : ¬ Obligations.LoadIsJudgedInOrder := by
  unfold Obligations.LoadIsJudgedInOrder
  intro h
  obtain ⟨-, hjudge, -⟩ := h unnamedRolesCell unnamedRolesPart loadOfRoles []
  rw [bodyOf_unnamedRoles] at hjudge
  have hfails := (hjudge (.invalid 0)).2 loadFails_unnamedRoles
  rw [judgeLoad_unnamedRoles] at hfails
  cases hfails

end Sys2Proof.Machine
end

section
/-! PROOF. Refused loads (R14, R186, R187, R191). -/

namespace Sys2Proof.Machine

open Sys2Proof.Claims

/-- A refusal goes through the capture rule, also where the status block has been asked for already (R173, R174). -/
theorem Run.Made.refused {r : Run} {u : State} {ids : List ImageId} (hm : r.Made u ids) (hf : r.Free)
    (hids : ∀ id ∈ ids, id = .status) (t : Tag) (ev : Event) :
    Refused u (Served (r.refusal ev) t) t ev.source ⟨ev.cause, ev.sect, ev.cycle, ev.refs, u.time⟩ := by
  unfold Refused Run.refusal
  rw [if_pos hm.st_guarded, hm.shape]
  cases hc : u.captureOf ev.source with
  | none =>
    refine ((hm.fillCapture ev).congr fun id => ?_).ends (hf.fillCapture ev) (by simp) t .soft
    rw [List.mem_append]
    exact ⟨fun h => h.elim (fun h => by simp [hids id h]) fun h => h, .inr⟩
  | some held =>
    refine (((hm.raise (.hard ev.source)).image .status).congr fun id => ?_).ends
      ((hf.raise (.hard ev.source)).image .status) (by simp) t .hard
    simp only [List.mem_append, List.mem_singleton, List.mem_ite_nil_left]
    exact ⟨fun h => h.elim (fun h => h.elim (hids id) (·.2)) fun h => h, .inr⟩

/-- A load that fails its judgement in GUARDED mode (R182, R191). -/
theorem served_refuseLoad {v : State} (hg : v.mode = .guarded) (rest : List MemAnswer) (tag : Tag) (q : Request)
    (f : LoadFailure) :
    Refused { v with loadStatus := f.status } (Served (refuseLoad tag q f (Run.start v rest)) tag) tag .proc
      ⟨f.cause, some f.sect, some ⟨tag, .write, q.addr⟩, {}, v.time⟩ := by
  have hm := ((Run.Made.start (r := Run.start v rest) hg rfl).modify
    (f := fun s => { s with loadStatus := f.status }) hg).image .status
  have hf := ((Run.Free.start v rest).modify fun s => { s with loadStatus := f.status }).image .status
  unfold refuseLoad
  rw [if_pos (show (Run.start v rest).st.guarded = true from v.guarded_iff.2 hg)]
  exact hm.refused hf (by simp) tag
    { source := .proc, cause := f.cause, sect := some f.sect, cycle := some (q.cycleRef tag) }

/-- A load that fails its judgement in OPEN_PATH mode leaves no trace (R191). -/
theorem served_refuseLoad_open {v : State} (hg : v.mode = .openPath) (rest : List MemAnswer) (tag : Tag)
    (q : Request) (f : LoadFailure) :
    EndsAtOnce v (Served (refuseLoad tag q f (Run.start v rest)) tag) tag .soft := by
  have hng : (Run.start v rest).st.guarded ≠ true := fun h => by
    rw [(State.guarded_iff v).1 h] at hg
    cases hg
  unfold refuseLoad
  rw [if_neg hng]
  exact served_at_once v rest tag .soft

theorem lateLoad_true {s : State} {tag : Tag} {q : Request} (hg : s.mode = .guarded) (hr : q.role = none)
    (hp : s.roleOf tag ≠ .proc) : lateLoad tag q s = true := by
  simp [lateLoad, s.guarded_iff.2 hg, hr, hp]

/-! ### The sections that a load selects -/

theorem bodyRead_selects (s : State) (answers : List MemAnswer) (ks : List Nat) (k : Nat) :
    Body.selects (bodyRead s answers ks) k = true ↔ k ∈ ks := by
  induction ks generalizing s answers with
  | nil => simp [bodyRead, Body.selects]
  | cons x ks ih =>
    have h := ih (s.waited answers (sectionPlace x).2) (answers.drop (sectionPlace x).2)
    unfold Body.selects at h ⊢
    rw [bodyRead, List.any_cons, Bool.or_eq_true, h, List.mem_cons, beq_iff_eq, eq_comm]

theorem bodyOf_selects (s : State) (answers : List MemAnswer) (q : Request) (k : Nat) :
    (bodyOf s answers q).selects k = true ↔ k < 10 ∧ bit q.data (16 + k) = true := by
  rw [bodyOf, bodyRead_selects]
  simp [loadSections]

/-- In OPEN_PATH mode the lowest missing of S0, S1 and S2 fails a load (R187). -/
theorem judgeLoad_incomplete {v : State} {b : Body} {k : Nat} (hg : v.mode = .openPath) (hk : k < 3)
    (hmiss : b.selects k = false) (hbefore : ∀ j, j < k → b.selects j = true) :
    v.judgeLoad b = some (.incomplete k) := by
  have hng : v.guarded = false := by simp [State.guarded, hg]
  have hfind : ([0, 1, 2].find? fun k => !b.selects k) = some k := by
    match k, hk with
    | 0, _ => simp [hmiss]
    | 1, _ => simp [hmiss, hbefore 0]
    | 2, _ => simp [hmiss, hbefore 0, hbefore 1]
  simp only [State.judgeLoad, hng, hfind]

/-- Settles O47. -/
theorem refusedLoadAppliesNothing : Obligations.RefusedLoadAppliesNothing := by
  unfold Obligations.RefusedLoadAppliesNothing
  intro s tag q answers hq hc
  obtain ⟨p, he⟩ := serving_of_held hq
  have hx := serves_load (answers := answers) hq hc
  unfold Serves at hx
  refine ⟨fun hg hr hp => ?_, fun f ha => ?_⟩
  · have hserve : serveLoad tag q (Run.start s answers) =
        (.hard, (Run.start s answers).guardRefusal ⟨q.addr, tag, .write⟩) := if_pos (lateLoad_true hg hr hp)
    rw [hserve] at hx
    exact ⟨_, hx, served_guardRefusal hg answers tag _⟩
  · intro v hj
    have hvm : v.mode = s.mode := waited_mode he answers (bodySize q)
    refine ⟨fun hg hr => ?_, fun hg => ?_, fun hg k hk hmiss hbefore => ?_⟩
    · rw [serveLoad_refused (lateLoad_false fun _ => hr) ha hj] at hx
      exact ⟨_, hx, served_refuseLoad (hvm.trans hg) _ tag q f⟩
    · rw [serveLoad_refused (lateLoad_false fun hg' => by rw [hg] at hg'; cases hg') ha hj] at hx
      exact ⟨_, hx, served_refuseLoad_open (hvm.trans hg) _ tag q f⟩
    · have hmiss' : (bodyOf s answers q).selects k = false := by
        rw [← Bool.not_eq_true, bodyOf_selects, hmiss]
        exact fun h => nomatch h.2
      have hbefore' : ∀ j, j < k → (bodyOf s answers q).selects j = true := fun j hj =>
        (bodyOf_selects s answers q j).2 ⟨by omega, hbefore j hj⟩
      rw [judgeLoad_incomplete (hvm.trans hg) hk hmiss' hbefore'] at hj
      exact (Option.some.inj hj).symm

end Sys2Proof.Machine
end

section
/-! PROOF. The service commands that their checks refuse: nests and lanes (R68, R69, R71, R73, R151, R152,
R159). -/

namespace Sys2Proof.Machine

open Sys2Proof.Claims

/-! ### A refusal by a judgement -/

/-- A post that the judgement of its kind refuses. -/
theorem postRefused_of_judged {s x : State} {ring : CmdRing} {tag : Tag} {q : Request}
    {answers rest : List MemAnswer} {c : Instr} {α : Type} {judge : Word → Run → Judged α × Run}
    {grant : Request → α → Run → Ack × Run} {cause : Cause} {refs : Refs} {p : Fin 18}
    (hp : Posted s ring tag q) (ha : Answered answers 3) (hfits : kindFits ring (ringKind q.data) = true)
    (hx : Serves c s answers tag (servePost ring judge grant tag q)) (hg : x.mode = .guarded)
    (he : x.engine = .serving p)
    (hj : judge (word1 s answers q) (Run.start (s.waited answers 3) (answers.drop 3)) =
      (.refuse cause refs, Run.start x rest)) :
    PostRefused c s x tag q rest cause refs := by
  obtain ⟨p', he'⟩ := serving_of_held hp.inHand
  refine postRefused_of_serves hx hg he ?_
  rw [servePost_judged he' ha (posted_postChecks hp hfits), hj]

section Service

variable {s : State} {tag : Tag} {q : Request} {kind : ServiceKind} {c : Instr} {answers : List MemAnswer}
  (hp : Posted s .service tag q) (hk : serviceKind (ringKind q.data) = some kind)
  (hrow : postRow .service q.data answers = some c) (ha : Answered answers 3)
include hp hk hrow ha

/-- A service command that is refused without a lookup. -/
theorem service_refused {cause : Cause} {refs : Refs}
    (hj : ∀ r : Run, r.st = s.waited answers 3 →
      kind.judge (word1 s answers q) r = (.refuse cause refs, r)) :
    PostRefused c s (s.waited answers 3) tag q (answers.drop 3) cause refs := by
  obtain ⟨p, he⟩ := serving_of_held hp.inHand
  exact postRefused_of_judged hp ha (by simp [kindFits, hk]) (serves_service hp.inHand hp.cls hk hrow)
    ((waited_mode he answers 3).trans hp.guarded) (waited_serving he answers 3) (hj _ rfl)

end Service

theorem judging_eq {α : Type} {judge : Word → State → Judged α} {w1 : Word} {r : Run} {u : State} {x : Judged α}
    (hr : r.st = u) (h : judge w1 u = x) : judging judge w1 r = (x, r) := by
  rw [judging, hr, h]

/-! ### The operands -/

theorem StopCondition.ofCode_some {k : Nat} {x : StopCondition} :
    StopCondition.ofCode k = some x ↔ k = x.code := by
  constructor
  · intro h
    unfold StopCondition.ofCode at h
    split at h <;> cases h <;> rfl
  · rintro rfl
    cases x <;> rfl

theorem StopNotice.ofCode_some {k : Nat} {x : StopNotice} : StopNotice.ofCode k = some x ↔ k = x.code := by
  constructor
  · intro h
    unfold StopNotice.ofCode at h
    split at h <;> cases h <;> rfl
  · rintro rfl
    cases x <;> rfl

theorem asFin_none {n k : Nat} (h : n ≤ k) : asFin n k = none := by
  unfold asFin
  rw [dif_neg (by omega)]

/-! ### What holds a nest -/

theorem State.syncExists_iff (s : State) (n : Nest) : s.syncExists n = true ↔ SyncExists s n := by
  unfold State.syncExists SyncExists
  cases hw : s.walker with
  | idle => simp
  | running j => simp
  | waiting c =>
    cases c with
    | sync m clean failed => simp
    | load m result count => simp
    | release m refused => simp

theorem State.nestNamed_iff (s : State) (n : Nest) :
    s.nestNamed n = true ↔ ∃ i e, s.entries.get i = some e ∧ e.board.nest = n := by
  simp [State.nestNamed, Table.any_iff, Option.any_eq_true]

theorem State.cupNamesNest_iff (s : State) (n : Nest) :
    s.cupNamesNest n = true ↔ ∃ k b, (s.cups.get k).ref = some b ∧ b.nest = n := by
  simp [State.cupNamesNest, Table.any_iff, Option.any_eq_true]

theorem State.nestFree_iff (s : State) (n : Nest) :
    s.nestFree n = true ↔ ¬(SyncExists s n ∨ (∃ i e, s.entries.get i = some e ∧ e.board.nest = n) ∨
      ∃ k b, (s.cups.get k).ref = some b ∧ b.nest = n) := by
  rw [← State.syncExists_iff, ← State.nestNamed_iff, ← State.cupNamesNest_iff, State.nestFree]
  cases s.nestNamed n <;> cases s.cupNamesNest n <;> simp

/-! ### The judgements of the nest and lane commands -/

theorem NestState.runs_false {x : NestState}
    (h : x = .empty ∨ x = .loading ∨ x = .illegal ∨ x = .complete ∨ x = .releasing) : x.runs = false := by
  rcases h with rfl | rfl | rfl | rfl | rfl <;> rfl

theorem judgeNestStop_range {w1 : Word} (s : State)
    (h : Nest.ofCode (cmdNest w1) = none ∨ cmdCondition w1 ≠ StopCondition.now.code) :
    judgeNestStop w1 s = .refuse .serviceRange {} := by
  unfold judgeNestStop
  split
  next n hn hc => exact (h.elim (fun h => nomatch h.symm.trans hn) fun h => h (StopCondition.ofCode_some.1 hc)).elim
  next => rfl

theorem judgeNestStop_state {w1 : Word} {s : State} {n : Nest} (hn : Nest.ofCode (cmdNest w1) = some n)
    (hc : cmdCondition w1 = StopCondition.now.code) :
    judgeNestStop w1 s = if (s.nest n).state.runs then .pass n else .refuse .serviceState {} := by
  unfold judgeNestStop
  rw [hn, StopCondition.ofCode_some.2 hc]

theorem judgeNestResume_none {w1 : Word} (s : State) (h : Nest.ofCode (cmdNest w1) = none) :
    judgeNestResume w1 s = .refuse .serviceRange {} := by
  unfold judgeNestResume
  rw [h]

theorem judgeNestResume_some {w1 : Word} {s : State} {n : Nest} (hn : Nest.ofCode (cmdNest w1) = some n) :
    judgeNestResume w1 s = if (s.nest n).state.runs then .pass n else .refuse .serviceState {} := by
  unfold judgeNestResume
  rw [hn]

theorem judgeNestSync_none {w1 : Word} (s : State) (h : Nest.ofCode (cmdNest w1) = none) :
    judgeNestSync w1 s = .refuse .serviceRange {} := by
  unfold judgeNestSync
  rw [h]

theorem judgeNestSync_some {w1 : Word} {s : State} {n : Nest} (hn : Nest.ofCode (cmdNest w1) = some n) :
    judgeNestSync w1 s = if (s.nest n).state.syncs && !s.syncExists n then .pass n
      else .refuse .serviceState {} := by
  unfold judgeNestSync
  rw [hn]

theorem judgeNestSync_refused {w1 : Word} {s : State} {n : Nest} (hn : Nest.ofCode (cmdNest w1) = some n)
    (h : (s.nest n).state.syncs = false ∨ s.syncExists n = true) :
    judgeNestSync w1 s = .refuse .serviceState {} := by
  rw [judgeNestSync_some hn, if_neg]
  rcases h with h | h <;> simp [h]

theorem judgeNestRelease_none {w1 : Word} (s : State) (h : Nest.ofCode (cmdNest w1) = none) :
    judgeNestRelease w1 s = .refuse .serviceRange {} := by
  unfold judgeNestRelease
  rw [h]

theorem judgeNestRelease_some {w1 : Word} {s : State} {n : Nest} (hn : Nest.ofCode (cmdNest w1) = some n) :
    judgeNestRelease w1 s = if s.releasable n then .pass n else .refuse .serviceState {} := by
  unfold judgeNestRelease
  rw [hn]

theorem NestState.syncs_false {x : NestState} (h : x = .empty ∨ x = .loading ∨ x = .releasing) : x.syncs = false := by
  rcases h with rfl | rfl | rfl <;> rfl

theorem State.releasable_of_state {s : State} {n : Nest}
    (h : (s.nest n).state = .empty ∨ (s.nest n).state = .active ∨ (s.nest n).state = .stopping ∨
      (s.nest n).state = .releasing) : s.releasable n = false := by
  unfold State.releasable
  rcases h with h | h | h | h <;> rw [h]

theorem State.releasable_of_not_free {s : State} {n : Nest} (hl : (s.nest n).state ≠ .loading)
    (hf : s.nestFree n = false) : s.releasable n = false := by
  unfold State.releasable
  cases h : (s.nest n).state with
  | loading => exact absurd h hl
  | illegal => exact hf
  | stopped => exact hf
  | complete => exact hf
  | empty => rfl
  | active => rfl
  | stopping => rfl
  | releasing => rfl

theorem judgeLaneStop_range {w1 : Word} (s : State) (h : 16 ≤ cmdLane w1) :
    judgeLaneStop w1 s = .refuse .serviceRange {} := by
  unfold judgeLaneStop
  rw [asFin_none h]

theorem judgeLaneStop_named {w1 : Word} {s : State} {l : Fin 16} {condition : StopCondition} {notice : StopNotice}
    (hl : cmdLane w1 = l.val) (hc : cmdCondition w1 = condition.code) (hn : cmdNotice w1 = notice.code) :
    judgeLaneStop w1 s = if (s.lanes.get l).state = .closed then .refuse .serviceState (laneRefs l)
      else .pass (l, ⟨condition, notice⟩) := by
  unfold judgeLaneStop
  rw [asFin_val hl, StopCondition.ofCode_some.2 hc, StopNotice.ofCode_some.2 hn]

theorem judgeLaneStop_unnamed {w1 : Word} (s : State) {l : Fin 16} (hl : cmdLane w1 = l.val)
    (h : ¬((∃ x : StopCondition, cmdCondition w1 = x.code) ∧ ∃ x : StopNotice, cmdNotice w1 = x.code)) :
    judgeLaneStop w1 s = .refuse .serviceRange (laneRefs l) := by
  unfold judgeLaneStop
  rw [asFin_val hl]
  split
  · next hl' => cases hl'
  · next l' hl' =>
    cases hl'
    split
    · next condition notice hc hn =>
      exact absurd ⟨⟨condition, StopCondition.ofCode_some.1 hc⟩, notice, StopNotice.ofCode_some.1 hn⟩ h
    · rfl

theorem judgeLaneResume_range {w1 : Word} (s : State) (h : 16 ≤ cmdLane w1) :
    judgeLaneResume w1 s = .refuse .serviceRange {} := by
  unfold judgeLaneResume
  rw [asFin_none h]

theorem judgeLaneResume_named {w1 : Word} {s : State} {l : Fin 16} (hl : cmdLane w1 = l.val) :
    judgeLaneResume w1 s = if (s.lanes.get l).state = .closed then .refuse .serviceState (laneRefs l)
      else .pass l := by
  unfold judgeLaneResume
  rw [asFin_val hl]

/-- Settles O29. -/
theorem nestAndLaneCommandsAreRefusedInOrder : Obligations.NestAndLaneCommandsAreRefusedInOrder := by
  unfold Obligations.NestAndLaneCommandsAreRefusedInOrder
  intro s tag q kind c answers hp hk hrow ha w1 v refused
  obtain ⟨p, he⟩ := serving_of_held hp.inHand
  have hb : s.Beside v := s.waited_beside answers 3
  have hstate (n : Nest) : (v.nest n).state = (s.nest n).state := hb.nest_state he n
  have refuse {cause refs} (hj : ∀ r : Run, r.st = v → kind.judge w1 r = (.refuse cause refs, r)) :
      refused cause refs := service_refused hp hk hrow ha hj
  refine ⟨fun hkind => ⟨fun hn => refuse fun r hr => ?_, fun h hc => refuse fun r hr => ?_, fun n hn => ?_⟩,
    fun hkind => ⟨fun hl => refuse fun r hr => ?_, fun l hl => ?_⟩⟩
  · rcases hkind with rfl | rfl | rfl | rfl
    · exact judging_eq hr (judgeNestStop_range v (.inl hn))
    · exact judging_eq hr (judgeNestResume_none v hn)
    · exact judging_eq hr (judgeNestSync_none v hn)
    · exact judging_eq hr (judgeNestRelease_none v hn)
  · subst h
    exact judging_eq hr (judgeNestStop_range v (.inr hc))
  · refine ⟨fun h hs => refuse fun r hr => ?_, fun h hs => refuse fun r hr => ?_, fun h hs => refuse fun r hr => ?_⟩
    · have hruns : (v.nest n).state.runs = false := by rw [hstate]; exact NestState.runs_false hs
      rcases h with ⟨rfl, hc⟩ | rfl
      · exact judging_eq hr (by rw [judgeNestStop_state hn hc, hruns]; rfl)
      · exact judging_eq hr (by rw [judgeNestResume_some hn, hruns]; rfl)
    · subst h
      refine judging_eq hr (judgeNestSync_refused hn ?_)
      rcases hs with hs | hs | hs | hs
      · exact .inl (by rw [hstate]; exact NestState.syncs_false (.inl hs))
      · exact .inl (by rw [hstate]; exact NestState.syncs_false (.inr (.inl hs)))
      · exact .inl (by rw [hstate]; exact NestState.syncs_false (.inr (.inr hs)))
      · exact .inr ((v.syncExists_iff n).2 hs)
    · subst h
      have hrel : v.releasable n = false := by
        rcases hs with hs | hs | hs | hs | ⟨hs, hheld⟩
        · exact State.releasable_of_state (.inl ((hstate n).trans hs))
        · exact State.releasable_of_state (.inr (.inl ((hstate n).trans hs)))
        · exact State.releasable_of_state (.inr (.inr (.inl ((hstate n).trans hs))))
        · exact State.releasable_of_state (.inr (.inr (.inr ((hstate n).trans hs))))
        · refine State.releasable_of_not_free (by rw [hstate]; exact hs) ?_
          rw [← Bool.not_eq_true, v.nestFree_iff, hb.entries he, hb.cups he]
          exact not_not_intro hheld
      exact judging_eq hr (by rw [judgeNestRelease_some hn, hrel]; rfl)
  · rcases hkind with rfl | rfl
    · exact judging_eq hr (judgeLaneStop_range v hl)
    · exact judging_eq hr (judgeLaneResume_range v hl)
  · refine ⟨fun h hn => refuse fun r hr => ?_, fun hnamed hs => refuse fun r hr => ?_⟩
    · subst h
      exact judging_eq hr (judgeLaneStop_unnamed v hl hn)
    · have hclosed : (v.lanes.get l).state = .closed := by rw [hb.lanes he]; exact hs
      rcases hkind with rfl | rfl
      · obtain ⟨⟨condition, hc⟩, notice, hn⟩ := hnamed rfl
        exact judging_eq hr ((judgeLaneStop_named hl hc hn).trans (if_pos hclosed))
      · exact judging_eq hr ((judgeLaneResume_named hl).trans (if_pos hclosed))

end Sys2Proof.Machine
end

section
/-! PROOF. A lookup leaves what the Engine judges by (R42, R44), and finds the board's own record; STATION_RESET,
SLOT_SET and RESOLVE as their checks refuse them (R153, R154, R159, R161, R162). -/

namespace Sys2Proof.Machine

open Sys2Proof.Claims

/-! ### What a lookup leaves -/

theorem State.Beside.raise {s t : State} {r : Run} (h : s.Beside t) (hr : r.st = t) (f : Flag) :
    s.Beside (r.raise f).st :=
  h.trans (.of_eq (by rw [← hr]; exact r.raise_aside f))

theorem Run.cycle_beside (r : Run) : r.st.Beside r.cycle.2.st := r.st.await_beside _

theorem Run.read_beside (r : Run) (a : Nat) : r.st.Beside (r.read a).2.st := by
  unfold Run.read
  split
  · exact r.cycle_beside.raise rfl .memory
  · exact r.cycle_beside

theorem Run.write_beside (r : Run) (a : Nat) (w : Word) : r.st.Beside (r.write a w).2.st := by
  unfold Run.write
  split
  · exact r.cycle_beside.raise rfl .memory
  · exact r.cycle_beside.trans (.of_eq rfl)

theorem Run.reads_beside (r : Run) (a n : Nat) : r.st.Beside (r.reads a n).2.st := by
  induction n generalizing r a with
  | zero => exact .refl _
  | succ n ih =>
    have hr := r.read_beside a
    unfold Run.reads
    split
    · next e => rw [e] at hr; exact hr
    · next w r' e =>
      rw [e] at hr
      have hk := hr.trans (ih r' (a + 8))
      split
      · next e' => rw [e'] at hk; exact hk
      · next e' => rw [e'] at hk; exact hk

theorem Run.writes_beside (r : Run) (ws : List (Nat × Word)) : r.st.Beside (r.writes ws).2.st := by
  induction ws generalizing r with
  | nil => exact .refl _
  | cons w ws ih =>
    have hr := r.write_beside w.1 w.2
    unfold Run.writes
    split
    · next e => rw [e] at hr; exact hr
    · next r' e => rw [e] at hr; exact hr.trans (ih r')

theorem Run.evict_beside (r : Run) (i : Fin 64) : r.st.Beside (r.evict i).2.st := by
  unfold Run.evict
  split
  · exact .refl _
  · next l _ =>
    have hr := r.writes_beside (if l.dirty then l.words.writeBack (r.st.boardAddr l.board) else [])
    split
    · next e => rw [e] at hr; exact hr
    · next r' e => rw [e] at hr; exact hr.trans (.of_eq rfl)

theorem Run.fill_beside (r : Run) (b : BoardRef) : r.st.Beside (r.fill b).2.st := by
  unfold Run.fill
  split
  · exact .refl _
  · next i _ =>
    have hr := r.evict_beside i
    split
    · next e => rw [e] at hr; exact hr
    · next r' e =>
      rw [e] at hr
      have hk := hr.trans (r'.reads_beside (r'.st.boardAddr b) 4)
      split
      · next e' => rw [e'] at hk; exact hk
      · next e' => rw [e'] at hk; exact hk.trans (.of_eq rfl)

theorem Run.lookup_beside (r : Run) (b : BoardRef) : r.st.Beside (r.lookup b).2.st := by
  unfold Run.lookup
  split
  · split
    · exact .of_eq rfl
    · exact .refl _
  · split
    · exact r.fill_beside b
    · exact .refl _

/-- The record that a fill finds is the board's. -/
theorem Run.fill_board {r r' : Run} {b : BoardRef} {l : CacheLine} (h : r.fill b = (.found l, r')) :
    l.board = b := by
  unfold Run.fill at h
  split at h
  · cases h
  · split at h
    · cases h
    · split at h
      · cases h
      · cases h; rfl

/-- The record that a lookup finds is the board's. -/
theorem Run.lookup_board {r r' : Run} {b : BoardRef} {l : CacheLine} (h : r.lookup b = (.found l, r')) :
    l.board = b := by
  unfold Run.lookup at h
  split at h
  · next i hi =>
    split at h
    · next l' hl =>
      cases h
      obtain ⟨l'', hl'', hb⟩ := State.lineOf_some hi
      rw [hl] at hl''
      cases hl''
      exact hb
    · cases h
  · split at h
    · exact Run.fill_board h
    · cases h

section Fetched

variable {u x : State} {answers rest : List MemAnswer} {b : BoardRef} {l : CacheLine}
  (h : Fetched u answers b l x rest)
include h

theorem fetched_beside : u.Beside x := by
  have hb := (Run.start u answers).lookup_beside b
  rw [h] at hb
  exact hb

theorem fetched_board : l.board = b := Run.lookup_board h

/-- A judgement goes on with the record that its fetch has found (R44). -/
theorem fetch_found {α : Type} (refs : Refs) (judge : CacheLine → Run → Judged α × Run) :
    fetch b refs judge (Run.start u answers) = judge l (Run.start x rest) := by
  unfold fetch
  rw [h]

end Fetched

/-! ### The judgements of STATION_RESET and SLOT_SET -/

theorem State.pairInPlaceAt_iff (s : State) (i : Fin 8) : s.pairInPlaceAt i = true ↔ PairAt s i := by
  have hkind (k : EntryKind) : k.ofPair = true ↔ k = .place ∨ k = .present := by cases k <;> decide
  simp only [State.pairInPlaceAt, Table.any_iff, Option.any_eq_true, Bool.and_eq_true, beq_iff_eq, hkind, PairAt]
  constructor
  · rintro ⟨j, e, he, ⟨hk, hf⟩, d, hd, hi, hp⟩
    exact ⟨j, e, d, he, hf, hk, hd, hi, hp⟩
  · rintro ⟨j, e, d, he, hf, hk, hd, hi, hp⟩
    exact ⟨j, e, he, ⟨hk, hf⟩, d, hd, hi, hp⟩

theorem judgeStationReset_range {w1 : Word} (s : State) (h : 8 ≤ cmdStation w1) :
    judgeStationReset w1 s = .refuse .serviceRange {} := by
  unfold judgeStationReset
  rw [asFin_none h]

theorem judgeStationReset_named {w1 : Word} {s : State} {i : Fin 8} (h : cmdStation w1 = i.val) :
    judgeStationReset w1 s = if (s.stations.get i).state.resets && !s.pairInPlaceAt i then .pass i
      else .refuse .serviceState (stationRefs i) := by
  unfold judgeStationReset
  rw [asFin_val h]

theorem judgeStationReset_refused {w1 : Word} {s : State} {i : Fin 8} (h : cmdStation w1 = i.val)
    (hs : ((s.stations.get i).state ≠ .identifying ∧ ∀ x, (s.stations.get i).state ≠ .faulted x) ∨ PairAt s i) :
    judgeStationReset w1 s = .refuse .serviceState (stationRefs i) := by
  rw [judgeStationReset_named h, if_neg]
  rcases hs with ⟨hi, hf⟩ | hs
  · have : (s.stations.get i).state.resets = false := by
      cases hx : (s.stations.get i).state with
      | identifying => exact absurd hx hi
      | faulted x => exact absurd hx (hf x)
      | disabled => rfl
      | vacant => rfl
      | ready => rfl
      | filling => rfl
      | full => rfl
    simp [this]
  · simp [(s.pairInPlaceAt_iff i).2 hs]

theorem slotTarget_some {k : Nat} {x : SlotState} :
    slotTarget k = some x ↔ (x = .free ∨ x = .blocked) ∧ k = x.code := by
  constructor
  · intro h
    unfold slotTarget at h
    split at h <;> cases h
    · exact ⟨.inl rfl, rfl⟩
    · exact ⟨.inr rfl, rfl⟩
  · rintro ⟨rfl | rfl, rfl⟩ <;> rfl

theorem slotTarget_none {k : Nat} (h : ¬(k = SlotState.free.code ∨ k = SlotState.blocked.code)) :
    slotTarget k = none := by
  cases hx : slotTarget k with
  | none => rfl
  | some x =>
    obtain ⟨rfl | rfl, hk⟩ := slotTarget_some.1 hx
    · exact absurd (.inl hk) h
    · exact absurd (.inr hk) h

section SlotSet

variable {w1 : Word} {s : State} {i : Fin 8}

theorem judgeSlotSet_range (h : 8 ≤ cmdStation w1) : judgeSlotSet w1 s = .refuse .serviceRange {} := by
  unfold judgeSlotSet
  rw [asFin_none h]

variable (hi : cmdStation w1 = i.val)
include hi

theorem judgeSlotSet_unnamed (h : ¬(cmdTarget w1 = SlotState.free.code ∨ cmdTarget w1 = SlotState.blocked.code)) :
    judgeSlotSet w1 s = .refuse .serviceRange (stationRefs i) := by
  unfold judgeSlotSet
  rw [asFin_val hi, slotTarget_none h]

variable {target : SlotState} (ht : slotTarget (cmdTarget w1) = some target)
include ht

theorem judgeSlotSet_bare (hm : (s.stations.get i).magazine = none) :
    judgeSlotSet w1 s = .refuse .serviceState (stationRefs i) := by
  simp only [judgeSlotSet, asFin_val hi, ht, hm]

theorem judgeSlotSet_beyond {m : Magazine} (hm : (s.stations.get i).magazine = some m)
    (h : m.slots[cmdSlot w1]? = none) : judgeSlotSet w1 s = .refuse .serviceRange (stationRefs i) := by
  simp only [judgeSlotSet, asFin_val hi, ht, hm, h]

theorem judgeSlotSet_slot {m : Magazine} (hm : (s.stations.get i).magazine = some m) {x : SlotState}
    (h : m.slots[cmdSlot w1]? = some x) :
    judgeSlotSet w1 s = if x.settable then .pass (i, cmdSlot w1, target)
      else .refuse .serviceState (slotRefs i (cmdSlot w1)) := by
  simp only [judgeSlotSet, asFin_val hi, ht, hm, h]

end SlotSet

/-! ### The judgement of a RESOLVE -/

section Resolve

variable {w1 : Word} {u x : State} {answers rest : List MemAnswer} {b : BoardRef} {l : CacheLine}

theorem judgeResolve_none (r : Run) (h : Nest.ofCode (cmdNest w1) = none) :
    judgeResolve w1 r = (.refuse .serviceRange {}, r) := by
  unfold judgeResolve
  rw [h]

theorem judgeResolve_unnamed (r : Run) {n : Nest} (hn : Nest.ofCode (cmdNest w1) = some n)
    (h : ¬TargetNamed (cmdTarget w1)) : judgeResolve w1 r = (.refuse .serviceRange (resolveRefs n), r) := by
  have ht : resolveTarget (cmdTarget w1) = none := by
    cases ht : resolveTarget (cmdTarget w1) with
    | none => rfl
    | some target => exact absurd ((targetNamed_iff _).2 ⟨target, ht⟩) h
  simp only [judgeResolve, hn, ht]

theorem judgeResolve_unloaded {r : Run} {n : Nest} (hn : Nest.ofCode (cmdNest w1) = some n)
    (h : TargetNamed (cmdTarget w1)) (hl : (r.st.nest n).state.loaded = false) :
    judgeResolve w1 r = (.refuse .serviceState (resolveRefs n), r) := by
  obtain ⟨target, ht⟩ := (targetNamed_iff _).1 h
  simp [judgeResolve, hn, ht, hl]

theorem judgeResolve_position {r : Run} {n : Nest} (hn : Nest.ofCode (cmdNest w1) = some n)
    (h : TargetNamed (cmdTarget w1)) (hl : (r.st.nest n).state.loaded = true)
    (hp : r.st.boardCount n ≤ cmdPosition w1) :
    judgeResolve w1 r = (.refuse .serviceRange (resolveRefs n), r) := by
  obtain ⟨target, ht⟩ := (targetNamed_iff _).1 h
  simp [judgeResolve, hn, ht, hl, hp]

variable (hl : ResolveLooksUp u w1 b) (hf : Fetched u answers b l x rest)
include hl hf

/-- A RESOLVE of a board that is not UNCERTAIN (R161, check 5). -/
theorem judgeResolve_certain (h : l.words.hw.state ≠ .uncertain) :
    judgeResolve w1 (Run.start u answers) = (.refuse .serviceState b.refs, Run.start x rest) := by
  obtain ⟨hn, hp, ht, hload, hlt⟩ := hl
  obtain ⟨target, ht⟩ := (targetNamed_iff _).1 ht
  have hst : (Run.start u answers).st = u := rfl
  simp only [judgeResolve, hn, ht, hst, hload, hp, hlt, if_true, fetch_found hf, if_neg h]

variable (hu : l.words.hw.state = .uncertain) {target : BoardState} (ht : target.target = true)
  (hk : cmdTarget w1 = target.code)
include hu ht hk

/-- A RESOLVE whose target does not fit the part's account (R162). -/
theorem judgeResolve_refused {cause : Cause} {refs : Refs} (h : judgeTarget b target w1 l x = .refuse cause refs) :
    judgeResolve w1 (Run.start u answers) = (.refuse cause refs, Run.start x rest) := by
  obtain ⟨hn, hp, -, hload, hlt⟩ := hl
  have ht : resolveTarget (cmdTarget w1) = some target := by rw [hk]; exact resolveTarget_code ht
  have hst : (Run.start u answers).st = u := rfl
  have hst' : (Run.start x rest).st = x := rfl
  simp only [judgeResolve, hn, ht, hst, hst', hload, hp, hlt, if_true, fetch_found hf, hu, h]

/-- A RESOLVE that passes its checks (R161, R162). -/
theorem judgeResolve_pass {r : Resolution} (h : judgeTarget b target w1 l x = .pass r) :
    judgeResolve w1 (Run.start u answers) = (.pass (b, r), Run.start x rest) := by
  obtain ⟨hn, hp, -, hload, hlt⟩ := hl
  have ht : resolveTarget (cmdTarget w1) = some target := by rw [hk]; exact resolveTarget_code ht
  have hst : (Run.start u answers).st = u := rfl
  have hst' : (Run.start x rest).st = x := rfl
  simp only [judgeResolve, hn, ht, hst, hst', hload, hp, hlt, if_true, fetch_found hf, hu, h]

end Resolve

/-! ### The checks of a target -/

section Target

variable {b : BoardRef} {w1 : Word} {l : CacheLine} {s : State}

theorem judgeTarget_derived {target : BoardState} (h : target = .intact ∨ target = .partCut ∨ target = .free) :
    judgeTarget b target w1 l s =
      if maskWithin (cmdMask w1) l.words.hw.tabs &&
          derivedState l.words.hw.tabs (cmdMask w1) == target then
        .pass (.derived target (cmdMask w1))
      else .refuse .serviceRange b.refs := by
  rcases h with rfl | rfl | rfl <;> rfl

theorem judgeTarget_derived_refused {target : BoardState}
    (h : target = .intact ∨ target = .partCut ∨ target = .free)
    (hm : 2 ^ l.words.hw.tabs ≤ (cmdMask w1).toNat ∨ derivedState l.words.hw.tabs (cmdMask w1) ≠ target) :
    judgeTarget b target w1 l s = .refuse .serviceRange b.refs := by
  rw [judgeTarget_derived h, if_neg]
  rcases hm with hm | hm
  · simp [maskWithin, Nat.not_lt.2 hm]
  · simp [hm]

theorem judgeHeld_range (h : 4 ≤ cmdCup w1) : judgeHeld b w1 s = .refuse .serviceRange b.refs := by
  unfold judgeHeld
  rw [asFin_none h]

theorem judgeHeld_cup {c : Fin 4} (h : cmdCup w1 = c.val) :
    judgeHeld b w1 s = if (s.cups.get c).takes b then .pass (.held c)
      else .refuse .serviceState (b.refsWithCup (some c)) := by
  unfold judgeHeld
  rw [asFin_val h]

theorem judgeStacked_range (h : 8 ≤ cmdStation w1) : judgeStacked b w1 s = .refuse .serviceRange b.refs := by
  unfold judgeStacked
  rw [asFin_none h]

variable {i : Fin 8} (hi : cmdStation w1 = i.val)
include hi

theorem judgeStacked_bare (hm : (s.stations.get i).magazine = none) :
    judgeStacked b w1 s = .refuse .serviceState { b.refs with station := some i } := by
  simp only [judgeStacked, asFin_val hi, hm]

theorem judgeStacked_beyond {m : Magazine} (hm : (s.stations.get i).magazine = some m)
    (h : m.slots[cmdSlot w1]? = none) :
    judgeStacked b w1 s = .refuse .serviceRange { b.refs with station := some i } := by
  simp only [judgeStacked, asFin_val hi, hm, h]

theorem judgeStacked_slot {m : Magazine} (hm : (s.stations.get i).magazine = some m) {y : SlotState}
    (h : m.slots[cmdSlot w1]? = some y) :
    judgeStacked b w1 s = if y.takesBoard then .pass (.stacked i (cmdSlot w1) m.serial)
      else .refuse .serviceState { b.refs with station := some i, slot := some (cmdSlot w1) } := by
  simp only [judgeStacked, asFin_val hi, hm, h]

end Target

theorem Cup.takes_iff (c : Cup) (b : BoardRef) : c.takes b = true ↔ c.state = .empty ∨ c = ⟨.suspect, some b⟩ := by
  obtain ⟨state, ref⟩ := c
  cases state <;> simp [Cup.takes]

theorem SlotState.takesBoard_iff (y : SlotState) : y.takesBoard = true ↔ y = .free ∨ y = .suspect := by
  cases y <;> decide

/-- Settles O30. -/
theorem stationAndBoardCommandsAreRefusedInOrder : Obligations.StationAndBoardCommandsAreRefusedInOrder := by
  unfold Obligations.StationAndBoardCommandsAreRefusedInOrder
  intro s tag q kind c answers hp hk hrow ha w1 v refused
  obtain ⟨p, he⟩ := serving_of_held hp.inHand
  have hb : s.Beside v := s.waited_beside answers 3
  have hstations : v.stations = s.stations := hb.stations he
  have refuse {cause refs} (hj : ∀ r : Run, r.st = v → kind.judge w1 r = (.refuse cause refs, r)) :
      refused cause refs := service_refused hp hk hrow ha hj
  refine ⟨fun hkind => ⟨fun h => refuse fun r hr => ?_, fun i hi => ⟨fun h hs => refuse fun r hr => ?_, fun h => ?_⟩⟩,
    fun hkind => ?_⟩
  · rcases hkind with rfl | rfl
    · exact judging_eq hr (judgeStationReset_range v h)
    · exact judging_eq hr (judgeSlotSet_range h)
  · subst h
    refine judging_eq hr (judgeStationReset_refused hi ?_)
    rw [hstations]
    refine hs.imp_right ?_
    rintro ⟨j, e, d, hj, hf, hkd, hd, hst, hin⟩
    refine ⟨j, e, d, by rw [hb.entries he]; exact hj, hf, hkd, hd, hst, ?_⟩
    rw [State.inPlace, hstations]
    exact hin
  · subst h
    have hnamed (h : cmdTarget w1 = SlotState.free.code ∨ cmdTarget w1 = SlotState.blocked.code) :
        ∃ target, slotTarget (cmdTarget w1) = some target :=
      h.elim (fun h => ⟨.free, slotTarget_some.2 ⟨.inl rfl, h⟩⟩) fun h => ⟨.blocked, slotTarget_some.2 ⟨.inr rfl, h⟩⟩
    refine ⟨fun hn => refuse fun r hr => judging_eq hr (judgeSlotSet_unnamed hi hn),
      fun hn hm => refuse fun r hr => ?_, fun m hn hm hlt => refuse fun r hr => ?_,
      fun m hn hm hx => refuse fun r hr => ?_⟩
    · obtain ⟨target, ht⟩ := hnamed hn
      exact judging_eq hr (judgeSlotSet_bare hi ht (by rw [hstations]; exact hm))
    · obtain ⟨target, ht⟩ := hnamed hn
      exact judging_eq hr (judgeSlotSet_beyond hi ht (by rw [hstations]; exact hm) (List.getElem?_eq_none hlt))
    · obtain ⟨target, ht⟩ := hnamed hn
      have hm' : (v.stations.get i).magazine = some m := by rw [hstations]; exact hm
      rcases hx with hx | hx
      · exact judging_eq hr (judgeSlotSet_slot hi ht hm' hx)
      · exact judging_eq hr (judgeSlotSet_slot hi ht hm' hx)
  · subst hkind
    refine ⟨fun hn => refuse fun r _ => judgeResolve_none r hn, fun n hn => ⟨fun ht => refuse fun r _ =>
      judgeResolve_unnamed r hn ht, fun ht hl => refuse fun r hr => judgeResolve_unloaded hn ht ?_,
      fun ht hl hpos => refuse fun r hr => judgeResolve_position hn ht ?_ ?_⟩, fun b l x rest hlook hf => ?_⟩
    · rw [hr, hb.nest_state he]; exact hl
    · rw [hr, hb.nest_state he]; exact hl
    · rw [hr, hb.boardCount he]; exact hpos
    · have hx : s.Beside x := hb.trans (fetched_beside hf)
      have hlook' : ResolveLooksUp v w1 b := hb.resolveLooksUp he hlook
      intro refs h refusedThen
      have refuse {cause refs} (hj : judgeResolve w1 (Run.start v (answers.drop 3)) =
          (.refuse cause refs, Run.start x rest)) : refusedThen cause refs :=
        postRefused_of_judged hp ha (by simp [kindFits, hk]) (serves_service hp.inHand hp.cls hk hrow)
          ((hx.mode he).trans hp.guarded) (hx.engine he) hj
      refine ⟨fun hs => refuse (judgeResolve_certain hlook' hf hs), fun target hs htarget hcode hmask => ?_,
        fun hs hcode => ⟨fun hc => ?_, fun k hc hne hsus => ?_⟩, fun hs hcode => ⟨fun hst => ?_, fun i hst => ?_⟩⟩
      · exact refuse (judgeResolve_refused hlook' hf hs (target := target)
          (by rcases htarget with rfl | rfl | rfl <;> rfl) hcode (judgeTarget_derived_refused htarget hmask))
      · exact refuse (judgeResolve_refused hlook' hf hs (target := .held) rfl hcode (judgeHeld_range hc))
      · refine refuse (judgeResolve_refused hlook' hf hs (target := .held) rfl hcode
          ((judgeHeld_cup hc).trans (if_neg ?_)))
        rw [Cup.takes_iff, hx.cups he]
        exact fun h => h.elim hne hsus
      · exact refuse (judgeResolve_refused hlook' hf hs (target := .stacked) rfl hcode (judgeStacked_range hst))
      · have hsx : x.stations = s.stations := hx.stations he
        refine ⟨fun hm => ?_, fun m hm hlt => ?_, fun m y hm hy hfree hsus => ?_⟩
        · exact refuse (judgeResolve_refused hlook' hf hs (target := .stacked) rfl hcode
            (judgeStacked_bare hst (by rw [hsx]; exact hm)))
        · exact refuse (judgeResolve_refused hlook' hf hs (target := .stacked) rfl hcode
            (judgeStacked_beyond hst (by rw [hsx]; exact hm) (List.getElem?_eq_none hlt)))
        · refine refuse (judgeResolve_refused hlook' hf hs (target := .stacked) rfl hcode
            ((judgeStacked_slot hst (by rw [hsx]; exact hm) hy).trans (if_neg ?_)))
          rw [SlotState.takesBoard_iff]
          exact fun h => h.elim hfree hsus

end Sys2Proof.Machine
end

section
/-! PROOF. CUT, PICK, PLACE and DISCARD as the first failing check refuses them (R39, R44, R84, R86, R87, R90,
R92 to R94, R98). -/

namespace Sys2Proof.Machine

open Sys2Proof.Claims

/-! ### Ordered checks -/

/-- A check of the model says what an entry of an ordered table says. -/
def CheckSays (check : Bool × Cause) (entry : Prop × Cause) : Prop :=
  (check.1 = true ↔ entry.1) ∧ check.2 = entry.2

theorem firstFailing_of_firstFails {checks : List (Bool × Cause)} {table : List (Prop × Cause)} {cause : Cause}
    (h : List.Forall₂ CheckSays checks table) (hf : FirstFails table cause) :
    firstFailing checks = some cause := by
  induction h with
  | nil => exact hf.elim
  | @cons check entry checks table hsays _ ih =>
    obtain ⟨passes, c⟩ := check
    obtain ⟨hiff, hcause⟩ := hsays
    rw [firstFailing_cons]
    rcases hf with ⟨hn, rfl⟩ | ⟨hp, hrest⟩
    · rw [if_neg fun h => hn (hiff.1 h)]
      exact congrArg some hcause
    · rw [if_pos (hiff.2 hp)]
      exact ih hrest

theorem firstFailing_of_allHold {checks : List (Bool × Cause)} {table : List (Prop × Cause)}
    (h : List.Forall₂ CheckSays checks table) (ha : AllHold table) : firstFailing checks = none := by
  induction h with
  | nil => rfl
  | @cons check entry checks table hsays _ ih =>
    obtain ⟨passes, c⟩ := check
    obtain ⟨hp, hrest⟩ := ha
    rw [firstFailing_cons, if_pos (hsays.1.2 hp)]
    exact ih hrest

theorem CheckSays.intro {passes : Bool} {holds : Prop} {cause : Cause} (h : passes = true ↔ holds) :
    CheckSays (passes, cause) (holds, cause) := ⟨h, rfl⟩

/-! ### What the checks look at -/

theorem BoardState.gone_iff (x : BoardState) : x.gone = true ↔ Away x := by
  cases x <;> simp [BoardState.gone, Away]

theorem State.freeEntries_nonempty_iff (s : State) : s.freeEntries.isEmpty = false ↔ RoomForOne s := by
  rw [List.isEmpty_eq_false_iff_exists_mem, RoomForOne]
  simp [State.freeEntries, Table.mem_indices]

/-- Two entries are free when the list of the free ones has two. -/
theorem State.freeEntries_two_iff (s : State) : (∃ i j rest, s.freeEntries = i :: j :: rest) ↔ RoomForTwo s := by
  have hmem (i : Fin 32) : i ∈ s.freeEntries ↔ s.entries.get i = none := by
    simp [State.freeEntries, Table.mem_indices]
  constructor
  · rintro ⟨i, j, rest, h⟩
    have hn : (i :: j :: rest).Nodup := h ▸ Table.nodup_indices _ _
    exact ⟨i, j, fun e => (List.nodup_cons.1 hn).1 (by simp [e]), (hmem i).1 (by simp [h]), (hmem j).1 (by simp [h])⟩
  · rintro ⟨i, j, hij, hi, hj⟩
    have hi := (hmem i).2 hi
    have hj := (hmem j).2 hj
    match hf : s.freeEntries with
    | [] => rw [hf] at hi; cases hi
    | [k] =>
      rw [hf, List.mem_singleton] at hi hj
      exact absurd (hi.trans hj.symm) hij
    | a :: b :: rest => exact ⟨a, b, rest, rfl⟩

theorem effectiveSpan_isSome_iff (written : Span) (mask : BitVec 12) :
    (effectiveSpan written mask).isSome = true ↔
      ∃ k, written.first ≤ k ∧ k < written.first + written.count ∧ tabCut mask k = false := by
  rw [← Bool.not_eq_false, Option.isSome_eq_false_iff, Option.isNone_iff_eq_none, effectiveSpan_none_iff,
    List.eq_nil_iff_forall_not_mem, not_forall]
  simp only [mem_uncutTabs, not_not]

theorem State.slotNamed_iff (s : State) (ring : CmdRing) (slot : Nat) :
    s.slotNamed ring slot = true ↔ ∃ i e, s.entries.get i = some e ∧ e.ring = ring ∧ e.slot = slot := by
  simp [State.slotNamed, Table.any_iff, Option.any_eq_true]

/-! ### CUT and PICK -/

theorem cutChecks_say (s : State) (l : CacheLine) (w1 : Word) :
    List.Forall₂ CheckSays (s.cutChecks l (cmdSpan w1)) (cutTable s l w1) := by
  refine .cons (.intro ?_) (.cons (.intro ?_) (.cons (.intro ?_) (.cons (.intro ?_) (.cons (.intro ?_)
    (.cons (.intro ?_) (.cons (.intro ?_) (.cons (.intro ?_) (.cons (.intro ?_) (.cons (.intro ?_) .nil)))))))))
  · simpa using s.boardBusy_false_iff l.board
  · simp
  · simp
  · simp
  · rw [← BoardState.gone_iff]; simp
  · simp
  · simp
  · exact effectiveSpan_isSome_iff _ _
  · simp
  · simpa using s.freeEntries_nonempty_iff

/-- The checks of a PICK before its cup, the last of the table being the cup's own. -/
theorem pickChecks_say (s : State) (l : CacheLine) (w1 : Word) :
    List.Forall₂ CheckSays (s.pickChecks l ++ [((asFin 4 (cmdCup w1)).isSome, .cupRange)]) (pickTable s l w1) := by
  refine .cons (.intro ?_) (.cons (.intro ?_) (.cons (.intro ?_) (.cons (.intro ?_) (.cons (.intro ?_)
    (.cons (.intro ?_) (.cons (.intro ?_) (.cons (.intro ?_) (.cons (.intro ?_) .nil))))))))
  · simpa using s.boardBusy_false_iff l.board
  · simp
  · simp
  · simp
  · simp
  · simp
  · rw [← BoardState.gone_iff]; simp
  · simp
  · unfold asFin; split <;> simp [*]

theorem firstFailing_append (xs ys : List (Bool × Cause)) :
    firstFailing (xs ++ ys) = (firstFailing xs).or (firstFailing ys) := by
  induction xs with
  | nil => rfl
  | cons c xs ih =>
    obtain ⟨passes, cause⟩ := c
    rw [List.cons_append, firstFailing_cons, firstFailing_cons, ih]
    cases passes <;> rfl

/-- The nest checks fail with the cause that R86 gives. -/
theorem nestChecks_refuses {s : State} {w1 : Word} {cause : Cause} (h : NestRefuses s w1 cause) :
    s.nestChecks w1 = .error cause := by
  unfold NestRefuses at h
  unfold State.nestChecks
  cases hn : Nest.ofCode (cmdNest w1) with
  | none => rw [hn] at h; cases h; rfl
  | some n =>
    rw [hn] at h
    cases hs : (s.nest n).state
    case active =>
      simp only [hs] at h
      obtain ⟨hp, rfl⟩ := h
      simp [hs, NestState.refusal, hp]
    all_goals
      simp only [hs] at h
      cases h
      simp only [hs, NestState.refusal]

section Fetched

variable {u x : State} {answers rest : List MemAnswer} {w1 : Word} {b : BoardRef} {l : CacheLine}
  (h : Fetched u answers b l x rest)
include h

/-- A CUT whose board is found is judged by its checks (R87). -/
theorem judgeCut_refused {cause : Cause} (hf : FetchesBoard u .cut w1 b)
    (hc : FirstFails (cutTable x l w1) cause) :
    judgeCut w1 (Run.start u answers) = (.refuse cause b.refs, Run.start x rest) := by
  obtain ⟨hn, hp, hs, hlt⟩ := hf
  have hst : (Run.start u answers).st = u := rfl
  have hst' : (Run.start x rest).st = x := rfl
  simp only [judgeCut, hst, hst', nestChecks_ok hn hp hs hlt, fetch_found h,
    firstFailing_of_firstFails (cutChecks_say x l w1) hc]

/-- A PICK whose board is found and whose checks fail before its cup (R90). -/
theorem judgePick_checks {cause : Cause} (hf : FetchesBoard u .pick w1 b)
    (hc : firstFailing (x.pickChecks l) = some cause) :
    judgePick w1 (Run.start u answers) = (.refuse cause b.refs, Run.start x rest) := by
  obtain ⟨hn, hp, hs, hlt⟩ := hf
  have hst : (Run.start u answers).st = u := rfl
  have hst' : (Run.start x rest).st = x := rfl
  simp only [judgePick, hst, hst', nestChecks_ok hn hp hs hlt, fetch_found h, hc]

/-- A PICK whose board is found and whose checks hold before its cup (R90). -/
theorem judgePick_cup (hf : FetchesBoard u .pick w1 b) (hc : firstFailing (x.pickChecks l) = none) :
    judgePick w1 (Run.start u answers) = (judgePickCup b w1 x, Run.start x rest) := by
  obtain ⟨hn, hp, hs, hlt⟩ := hf
  have hst : (Run.start u answers).st = u := rfl
  have hst' : (Run.start x rest).st = x := rfl
  simp only [judgePick, hst, hst', nestChecks_ok hn hp hs hlt, fetch_found h, hc]

theorem judgePick_refused {cause : Cause} (hf : FetchesBoard u .pick w1 b)
    (hc : FirstFails (pickTable x l w1) cause) :
    judgePick w1 (Run.start u answers) = (.refuse cause b.refs, Run.start x rest) := by
  have hff := firstFailing_of_firstFails (pickChecks_say x l w1) hc
  rw [firstFailing_append] at hff
  cases hcheck : firstFailing (x.pickChecks l) with
  | some cause' =>
    rw [hcheck] at hff
    cases hff
    exact judgePick_checks h hf hcheck
  | none =>
    rw [hcheck, Option.none_or, firstFailing_cons] at hff
    rw [judgePick_cup h hf hcheck, judgePickCup]
    cases hcup : asFin 4 (cmdCup w1) with
    | some c => rw [hcup, Option.isSome_some, if_pos rfl] at hff; cases hff
    | none => rw [hcup, Option.isSome_none, if_neg nofun] at hff; cases hff; rfl

end Fetched

/-- The checks of a PICK from its cup's state on (R39, R90). -/
theorem judgePickCup_refused {x : State} {w1 : Word} {b : BoardRef} {c : Fin 4} {cause : Cause}
    (hc : cmdCup w1 = c.val) (hf : FirstFails (pickCupTable x b.nest c) cause) :
    judgePickCup b w1 x = .refuse cause (b.refsWithCup (some c)) := by
  unfold judgePickCup
  rw [asFin_val hc]
  obtain ⟨hn, rfl⟩ | ⟨hbusy, ⟨hn, rfl⟩ | ⟨hsus, ⟨hn, rfl⟩ | ⟨hclaim, ⟨hn, rfl⟩ | ⟨-, h⟩⟩⟩⟩ := hf
  · cases hs : (x.cups.get c).state <;> simp_all [CupState.pickRefusal]
  · have hs : (x.cups.get c).state = .suspect := not_not.1 hn
    simp [hs, CupState.pickRefusal]
  all_goals
    have hs : (x.cups.get c).state = .empty := by
      cases hs : (x.cups.get c).state <;> simp_all
  · have hr : (x.nest b.nest).claim = .router := not_not.1 hn
    simp [hs, hr, CupState.pickRefusal]
  · have hfree : x.freeEntries = [] := by
      rw [← State.freeEntries_nonempty_iff, Bool.not_eq_false, List.isEmpty_iff] at hn
      exact hn
    simp [hs, hclaim, hfree, CupState.pickRefusal]
  · exact h.elim

/-- A post of a physical kind that its judgement refuses. -/
theorem physical_refused {s x : State} {ring : CmdRing} {tag : Tag} {q : Request} {kind : Physical} {c : Instr}
    {answers rest : List MemAnswer} {cause : Cause} {refs : Refs} {p : Fin 18} (hp : Posted s ring tag q)
    (hk : physicalKind ring (ringKind q.data) = some kind) (hrow : postRow ring q.data answers = some c)
    (ha : Answered answers 3) (hg : x.mode = .guarded) (he : x.engine = .serving p)
    (hj : kind.judge (word1 s answers q) (Run.start (s.waited answers 3) (answers.drop 3)) =
      (.refuse cause refs, Run.start x rest)) :
    PostRefused c s x tag q rest cause refs := by
  obtain ⟨hfits, -⟩ := serves_post hp.inHand hp.cls
    (by rcases physicalKind_ring hk with ⟨rfl, -⟩ | ⟨rfl, -⟩ <;> decide) hrow
  exact postRefused_of_judged hp ha hfits (serves_physical hp.inHand hp.cls hk hrow) hg he hj

theorem judgeCut_nest {r : Run} {w1 : Word} {cause : Cause} (h : NestRefuses r.st w1 cause) :
    judgeCut w1 r = (.refuse cause {}, r) := by
  simp only [judgeCut, nestChecks_refuses h]

theorem judgePick_nest {r : Run} {w1 : Word} {cause : Cause} (h : NestRefuses r.st w1 cause) :
    judgePick w1 r = (.refuse cause {}, r) := by
  simp only [judgePick, nestChecks_refuses h]

theorem State.Beside.nestRefuses {s t : State} {p : Fin 18} (h : s.Beside t) (e : s.engine = .serving p)
    {w1 : Word} {cause : Cause} (hr : NestRefuses s w1 cause) : NestRefuses t w1 cause := by
  unfold NestRefuses at hr ⊢
  cases hn : Nest.ofCode (cmdNest w1) with
  | none => rw [hn] at hr; exact hr
  | some n =>
    rw [hn] at hr
    simp only [h.nest_state e, h.boardCount e] at hr ⊢
    exact hr

/-- Settles O16. -/
theorem cutAndPickAreRefusedInOrder : Obligations.CutAndPickAreRefusedInOrder := by
  unfold Obligations.CutAndPickAreRefusedInOrder
  intro s tag q ring kind c answers hp hk hkind hrow ha w1 v
  obtain ⟨p, he⟩ := serving_of_held hp.inHand
  have hb : s.Beside v := s.waited_beside answers 3
  refine ⟨fun cause hn => ?_, fun b l x rest cause hf hfound => ?_⟩
  · have hn' : NestRefuses v w1 cause := hb.nestRefuses he hn
    refine physical_refused hp hk hrow ha ((hb.mode he).trans hp.guarded) (hb.engine he) ?_
    rcases hkind with rfl | rfl
    · exact judgeCut_nest (r := Run.start v _) hn'
    · exact judgePick_nest (r := Run.start v _) hn'
  · have hx : s.Beside x := hb.trans (fetched_beside hfound)
    have hf' : FetchesBoard v kind w1 b := hb.fetchesBoard he hf
    have refuse {cause refs} (hj : kind.judge w1 (Run.start v (answers.drop 3)) =
        (.refuse cause refs, Run.start x rest)) : PostRefused c s x tag q rest cause refs :=
      physical_refused hp hk hrow ha ((hx.mode he).trans hp.guarded) (hx.engine he) hj
    intro refs
    refine ⟨fun h hc => ?_, fun h hc => ?_, fun cup h hhold hcup hc => ?_⟩
    · subst h
      exact refuse (judgeCut_refused hfound hf' hc)
    · subst h
      exact refuse (judgePick_refused hfound hf' hc)
    · subst h
      have hnone := firstFailing_of_allHold (pickChecks_say x l w1) hhold
      rw [firstFailing_append, Option.or_eq_none_iff] at hnone
      exact refuse ((judgePick_cup hfound hf' hnone.1).trans (congrArg (·, Run.start x rest) (judgePickCup_refused hcup hc)))

end Sys2Proof.Machine
end

section
/-! PROOF. An OPEN lane has a slot to place into (R144, R147), and PLACE and DISCARD as the first failing check
refuses them (R39, R44, R92 to R94, R98). -/

namespace Sys2Proof.Machine

open Sys2Proof.Claims

/-! ### The selection of a slot (R147) -/

theorem Lane.mem_positions {l : Lane} {k : Nat} (h : k < l.stations.length) : k ∈ l.positions := by
  refine List.mem_map.2 ⟨(k + l.stations.length - l.current % l.stations.length) % l.stations.length,
    List.mem_range.2 (Nat.mod_lt _ (by omega)), ?_⟩
  have hc : l.current % l.stations.length < l.stations.length := Nat.mod_lt _ (by omega)
  rw [Nat.add_mod_mod, Nat.add_mod, Nat.add_mod_mod]
  generalize l.stations.length = n at *
  generalize l.current % n = c at *
  have : c + (k + n - c) = k + n := by omega
  rw [this, Nat.add_mod_right, Nat.mod_eq_of_lt h]

theorem freeSlot_isSome {order : LaneOrder} {slots : List SlotState} (h : SlotState.free ∈ slots) :
    ∃ k, freeSlot order slots = some k := by
  obtain ⟨k, hk⟩ := List.mem_iff_getElem?.1 h
  obtain ⟨hlt, hfree⟩ := List.getElem?_eq_some_iff.1 hk
  have hne : (List.range slots.length).filter (fun k => slots[k]? == some .free) ≠ [] := by
    intro hnil
    have : k ∈ (List.range slots.length).filter (fun k => slots[k]? == some .free) := by simp [hfree, hlt]
    rw [hnil] at this
    cases this
  unfold freeSlot
  cases order with
  | up => exact ⟨_, List.head?_eq_some_head hne⟩
  | down => exact ⟨_, List.getLast?_eq_some_getLast hne⟩

/-- A lane with a usable station has a slot to place into. -/
theorem State.select_of_someUsable {s : State} {i : Fin 16} (h : s.someUsable (s.lanes.get i) = true) :
    ∃ sel, s.select i = some sel := by
  obtain ⟨j, hj, hu⟩ := List.any_eq_true.1 h
  obtain ⟨k, hk⟩ := List.mem_iff_getElem?.1 hj
  have hlt : k < (s.lanes.get i).stations.length := (List.getElem?_eq_some_iff.1 hk).1
  have hat : (s.selectAt i k).isSome = true := by
    have hu' := hu
    obtain ⟨-, hm⟩ := Bool.and_eq_true_iff.1 hu'
    obtain ⟨m, hm, hfree⟩ := Option.any_eq_true _ _ |>.1 hm
    obtain ⟨-, hfree⟩ := Bool.and_eq_true_iff.1 hfree
    obtain ⟨slot, hslot⟩ := freeSlot_isSome (order := (s.lanes.get i).order) (List.contains_iff_mem.1 hfree)
    have hslots : (s.stations.get j).slots = m.slots := by simp [Station.slots, hm]
    simp [State.selectAt, hk, hu, hm, hslots, hslot]
  cases hsel : s.select i with
  | some sel => exact ⟨sel, rfl⟩
  | none =>
    rw [State.select, List.findSome?_eq_none_iff] at hsel
    rw [hsel k (Lane.mem_positions hlt)] at hat
    cases hat

theorem LanesSettled.select {s : State} (h : LanesSettled s) {i : Fin 16} (ho : (s.lanes.get i).state = .isOpen) :
    ∃ sel, s.select i = some sel := State.select_of_someUsable ((h i).1 ho).1

/-! ### A command that names a cup -/

section Cup

variable {α : Type} {judge : Fin 4 → CacheLine → Run → Judged α × Run} {w1 : Word} {r : Run}

theorem withCup_range (h : 4 ≤ cmdCup w1) : withCup w1 judge r = (.refuse .cupRange {}, r) := by
  unfold withCup
  rw [asFin_none h]

variable {c : Fin 4} (hc : cmdCup w1 = c.val)
include hc

theorem withCup_state {cause : Cause} (h : (r.st.cups.get c).state.putRefusal = some cause) :
    withCup w1 judge r = (.refuse cause (cupRefs c), r) := by
  simp only [withCup, asFin_val hc, h]

theorem withCup_loaded {b : BoardRef} (h : r.st.cups.get c = ⟨.loaded, some b⟩) :
    withCup w1 judge r = fetch b (cupRefs c) (judge c) r := by
  simp only [withCup, asFin_val hc, h, CupState.putRefusal]

end Cup

theorem NestState.not_loaded {x : NestState} {cause : Cause} (h : NotCachedRefuses x cause) :
    x.loaded = false ∧ x.refusal = some cause := by
  rcases h with ⟨rfl, rfl⟩ | ⟨rfl, rfl⟩ | ⟨rfl, rfl⟩ | ⟨rfl, rfl⟩ <;> exact ⟨rfl, rfl⟩

/-- A board that no entry holds, in a nest that is not loaded (R44). -/
theorem fetch_notCached {α : Type} {b : BoardRef} {refs : Refs} {judge : CacheLine → Run → Judged α × Run} {r : Run}
    {cause : Cause} (hl : r.st.lineOf b = none) (h : NotCachedRefuses (r.st.nest b.nest).state cause) :
    fetch b refs judge r = (.refuse cause refs, r) := by
  obtain ⟨hload, href⟩ := NestState.not_loaded h
  have hlook : r.lookup b = (.notCached, r) := by simp [Run.lookup, hl, hload]
  simp only [fetch, hlook, href, Option.getD_some]

/-! ### DISCARD and PLACE from their board on -/

theorem judgeDiscardBoard_refused {s : State} {c : Fin 4} {l : CacheLine} {cause : Cause}
    (h : FirstFails (discardTable s l) cause) : judgeDiscardBoard c l s = .refuse cause (cupRefs c) := by
  unfold judgeDiscardBoard
  obtain ⟨hn, rfl⟩ | ⟨hgrade, ⟨hn, rfl⟩ | ⟨-, h⟩⟩ := h
  · rw [if_pos (not_not.1 hn)]
  · have hfree : s.freeEntries = [] := by
      rw [← State.freeEntries_nonempty_iff, Bool.not_eq_false, List.isEmpty_iff] at hn
      exact hn
    rw [if_neg hgrade, hfree]
  · exact h.elim

theorem laneKindFits_iff (grade : Option Grade) (kind : LaneKind) :
    laneKindFits grade kind = true ↔
      (grade = some .good ∧ kind = .normal) ∨ ((grade = some .reject ∨ grade = some .xout) ∧ kind = .reject) := by
  cases kind <;> rcases grade with - | (- | - | -) <;> decide

/-- The checks of a PLACE on its grade, its lane's number and its lane's kind say what the tables say. -/
theorem placeChecks_say (s : State) (l : CacheLine) (w1 : Word) :
    List.Forall₂ CheckSays ((s.placeChecks l (cmdLane w1)).take 3)
      (placeGradeTable s l ++ (placeLaneTable s l w1).take 2) := by
  refine .cons (.intro ?_) (.cons (.intro ?_) (.cons (.intro ?_) .nil))
  · simp [imp_iff_not_or]
  · simp
  · exact laneKindFits_iff _ _

theorem firstFails_append {xs ys : List (Prop × Cause)} {cause : Cause} (h : FirstFails (xs ++ ys) cause) :
    FirstFails xs cause ∨ (AllHold xs ∧ FirstFails ys cause) := by
  induction xs with
  | nil => exact .inr ⟨trivial, h⟩
  | cons x xs ih =>
    obtain ⟨holds, name⟩ := x
    rcases h with h | ⟨hx, h⟩
    · exact .inl (.inl h)
    · exact (ih h).imp (fun h => .inr ⟨hx, h⟩) fun ⟨ha, h⟩ => ⟨⟨hx, ha⟩, h⟩

theorem firstFails_of_prefix {xs ys : List (Prop × Cause)} {cause : Cause} (ha : AllHold xs)
    (h : FirstFails ys cause) : FirstFails (xs ++ ys) cause := by
  induction xs with
  | nil => exact h
  | cons x xs ih =>
    obtain ⟨hx, ha⟩ := ha
    exact .inr ⟨hx, ih ha⟩

theorem allHold_append {xs ys : List (Prop × Cause)} (hx : AllHold xs) (hy : AllHold ys) : AllHold (xs ++ ys) := by
  induction xs with
  | nil => exact hy
  | cons x xs ih =>
    obtain ⟨h, hx⟩ := hx
    exact ⟨h, ih hx⟩

theorem placeChecks_split (s : State) (l : CacheLine) (lane : Nat) :
    s.placeChecks l lane = (s.placeChecks l lane).take 3 ++
      [((s.lanes.get (s.effectiveLane l)).state.refusal.isNone,
        (s.lanes.get (s.effectiveLane l)).state.refusal.getD .laneClosed)] := rfl

theorem judgePlaceBoard_checks {s : State} {w1 : Word} {c : Fin 4} {l : CacheLine} {cause : Cause}
    (h : firstFailing (s.placeChecks l (cmdLane w1)) = some cause) :
    judgePlaceBoard w1 c l s = .refuse cause (placeRefs c (s.effectiveLane l) cause) := by
  simp only [judgePlaceBoard, h]

theorem firstFails_grade {s : State} {l : CacheLine} {cause : Cause} (h : FirstFails (placeGradeTable s l) cause) :
    cause = .xoutDiscard := by
  obtain ⟨-, h⟩ | ⟨-, h⟩ := h
  · exact h
  · exact h.elim

theorem judgePlaceBoard_grade {s : State} {w1 : Word} {c : Fin 4} {l : CacheLine} {cause : Cause}
    (h : FirstFails (placeGradeTable s l) cause) : judgePlaceBoard w1 c l s = .refuse cause (cupRefs c) := by
  have hc := firstFails_grade h
  subst hc
  have hsay : List.Forall₂ CheckSays ((s.placeChecks l (cmdLane w1)).take 1) (placeGradeTable s l) :=
    List.forall₂_take 1 (placeChecks_say s l w1)
  refine judgePlaceBoard_checks ?_
  rw [← List.take_append_drop 1 (s.placeChecks l (cmdLane w1)), firstFailing_append,
    firstFailing_of_firstFails hsay h]
  rfl

/-- The references of a PLACE that has reached its lane. -/
theorem placeRefs_lane {c : Fin 4} {lane : Fin 16} {cause : Cause} (h : cause ≠ .xoutDiscard) :
    placeRefs c lane cause = { cupRefs c with lane := some lane } := if_neg h

/-- The checks of a PLACE from its lane on: the lane's number, kind and state, the stacker ring and the table
(R92, R94). -/
theorem judgePlaceBoard_lane {s : State} {w1 : Word} {c : Fin 4} {l : CacheLine} {cause : Cause}
    (hsettled : LanesSettled s) (hgrade : AllHold (placeGradeTable s l))
    (h : FirstFails (placeLaneTable s l w1) cause) :
    judgePlaceBoard w1 c l s = .refuse cause { cupRefs c with lane := some (s.effectiveLane l) } := by
  have hsay := placeChecks_say s l w1
  rw [← List.take_append_drop 2 (placeLaneTable s l w1)] at h
  rcases firstFails_append h with h | ⟨hfirst, h⟩
  · have hc : cause ≠ .xoutDiscard := by
      obtain ⟨-, rfl⟩ | ⟨-, ⟨-, rfl⟩ | ⟨-, h⟩⟩ := h
      · exact nofun
      · exact nofun
      · exact h.elim
    rw [judgePlaceBoard_checks (cause := cause), placeRefs_lane hc]
    rw [placeChecks_split, firstFailing_append, firstFailing_of_firstFails hsay (firstFails_of_prefix hgrade h)]
    rfl
  · have hthree := firstFailing_of_allHold hsay (allHold_append hgrade hfirst)
    have hlane {cause : Cause} (hr : (s.lanes.get (s.effectiveLane l)).state.refusal = some cause)
        (hc : cause ≠ .xoutDiscard) :
        judgePlaceBoard w1 c l s = .refuse cause { cupRefs c with lane := some (s.effectiveLane l) } := by
      rw [judgePlaceBoard_checks (cause := cause), placeRefs_lane hc]
      rw [placeChecks_split, firstFailing_append, hthree, hr]
      rfl
    obtain ⟨hn, rfl⟩ | ⟨hclosed, ⟨hn, rfl⟩ | ⟨hpaused, ⟨hn, rfl⟩ | ⟨hstopped, ⟨hn, rfl⟩ | ⟨hexh, h⟩⟩⟩⟩ := h
    · exact hlane (by rw [not_not.1 hn]; rfl) nofun
    · exact hlane (by rw [not_not.1 hn]; rfl) nofun
    · exact hlane (by rw [not_not.1 hn]; rfl) nofun
    · exact hlane (by rw [not_not.1 hn]; rfl) nofun
    · have ho : (s.lanes.get (s.effectiveLane l)).state = .isOpen := by
        cases hs : (s.lanes.get (s.effectiveLane l)).state with
        | isOpen => rfl
        | closed => exact absurd hs hclosed
        | paused => exact absurd hs hpaused
        | stopped => exact absurd hs hstopped
        | exhausted => exact absurd hs hexh
      obtain ⟨sel, hsel⟩ := hsettled.select ho
      have hnone : firstFailing (s.placeChecks l (cmdLane w1)) = none := by
        rw [placeChecks_split, firstFailing_append, hthree, ho]
        rfl
      have hring : s.slotNamed .stacker (s.cursor .stacker) = true ↔
          ¬∀ i e, s.entries.get i = some e → ¬(e.ring = .stacker ∧ e.slot = s.cursor .stacker) := by
        rw [State.slotNamed_iff]
        push Not
        rfl
      obtain ⟨hn, rfl⟩ | ⟨hfree, ⟨hn, rfl⟩ | ⟨-, h⟩⟩ := h
      · simp only [judgePlaceBoard, hnone, hsel, if_pos (hring.2 hn)]
        rfl
      · have hnr : ¬s.slotNamed .stacker (s.cursor .stacker) = true := fun h => hring.1 h hfree
        simp only [judgePlaceBoard, hnone, hsel, if_neg hnr]
        split
        · next hf => exact absurd ((s.freeEntries_two_iff).1 ⟨_, _, _, hf⟩) hn
        · rfl
      · exact h.elim

theorem State.Beside.lanesSettled {s t : State} {p : Fin 18} (h : s.Beside t) (e : s.engine = .serving p)
    (hs : LanesSettled s) : LanesSettled t := by
  intro i
  simp only [h.lanes e, State.someUsable_congr (h.stations e), State.currentUsable_congr (h.stations e)]
  exact hs i

/-- Settles O17. -/
theorem placeAndDiscardAreRefusedInOrder : Obligations.PlaceAndDiscardAreRefusedInOrder := by
  unfold Obligations.PlaceAndDiscardAreRefusedInOrder
  intro s tag q kind c answers hp hk hkind hrow ha hsettled w1 v refused
  obtain ⟨p, he⟩ := serving_of_held hp.inHand
  have hb : s.Beside v := s.waited_beside answers 3
  have hcups : v.cups = s.cups := hb.cups he
  have refuse {x rest cause refs} (hx : s.Beside x)
      (hj : kind.judge w1 (Run.start v (answers.drop 3)) = (.refuse cause refs, Run.start x rest)) :
      PostRefused c s x tag q rest cause refs :=
    physical_refused hp hk hrow ha ((hx.mode he).trans hp.guarded) (hx.engine he) hj
  refine ⟨fun hc => refuse hb ?_, fun cup hc => ?_⟩
  · rcases hkind with rfl | rfl
    · exact withCup_range hc
    · exact withCup_range hc
  · have hstate {cause} (h : (s.cups.get cup).state.putRefusal = some cause) : refused cause (cupRefs cup) := by
      refine refuse hb ?_
      rw [← hcups] at h
      rcases hkind with rfl | rfl
      · exact withCup_state hc h
      · exact withCup_state hc h
    refine ⟨fun h => hstate (by rw [h]; rfl), fun h => hstate (by rcases h with h | h <;> rw [h] <;> rfl),
      fun h => hstate (by rw [h]; rfl), fun b cause hcup hnone hrefuses => refuse hb ?_,
      fun b l x rest cause hcup hfound => ?_⟩
    · rw [← hcups] at hcup
      rw [← hb.nest_state he] at hrefuses
      rcases hkind with rfl | rfl
      · exact (withCup_loaded hc hcup).trans (fetch_notCached hnone hrefuses)
      · exact (withCup_loaded hc hcup).trans (fetch_notCached hnone hrefuses)
    · have hx : s.Beside x := hb.trans (fetched_beside hfound)
      rw [← hcups] at hcup
      refine ⟨fun h hf => ?_, fun h hf => ?_, fun h hgrade hf => ?_⟩
      · subst h
        exact refuse hx (((withCup_loaded hc hcup).trans (fetch_found hfound _ _)).trans
          (congrArg (·, Run.start x rest) (judgeDiscardBoard_refused hf)))
      · subst h
        exact refuse hx (((withCup_loaded hc hcup).trans (fetch_found hfound _ _)).trans
          (congrArg (·, Run.start x rest) (judgePlaceBoard_grade hf)))
      · subst h
        exact refuse hx (((withCup_loaded hc hcup).trans (fetch_found hfound _ _)).trans
          (congrArg (·, Run.start x rest) (judgePlaceBoard_lane (hx.lanesSettled he hsettled) hgrade hf)))

end Sys2Proof.Machine
end

section
/-! PROOF. A lookup hits, fills, fails to fill, or finds none (R42, R44, R45, R46, R51). -/

namespace Sys2Proof.Machine

open Sys2Proof.Claims

theorem State.Beside.boardAddr {s t : State} {p : Fin 18} (h : s.Beside t) (e : s.engine = .serving p)
    (b : BoardRef) : t.boardAddr b = s.boardAddr b := by
  rw [State.boardAddr, State.boardAddr, h.nest e b.nest]

theorem Table.set_get {n : Nat} {α : Type} (t : Table n α) (i : Fin n) : t.set i (t.get i) = t := by
  refine Table.ext_get fun j => ?_
  rw [Table.get_set]
  split
  · next h => rw [h]
  · rfl

/-- Every place before the first one that passes a test fails it. -/
theorem Table.firstIndex_before {n : Nat} {α : Type} {t : Table n α} {p : α → Bool} {i j : Fin n}
    (h : t.firstIndex p = some i) (hj : j.val < i.val) : p (t.get j) = false := by
  obtain ⟨-, k, hk, hget, hbefore⟩ := List.find?_eq_some_iff_getElem.1 h
  rw [List.getElem_finRange] at hget
  have hki : k = i.val := congrArg Fin.val hget
  have := hbefore j.val (by omega)
  rw [List.getElem_finRange] at this
  simpa using this

/-! ### The victim -/

/-- The writes that make room at a place of the cache: the record of a dirty entry goes back (R46, step 1). -/
def State.wayOut (s : State) (i : Fin 64) : List (Nat × Word) :=
  match s.cache.get i with
  | some l => if l.dirty then l.words.writeBack (s.boardAddr l.board) else []
  | none => []

theorem State.invalidate_idle {s : State} (h : RecencyListed s) {i : Fin 64} (hi : s.cache.get i = none) :
    s.invalidate i = s := by
  have hr : i ∉ s.recency := fun hm => by
    have := (h.2 i).1 hm
    rw [hi] at this
    cases this
  have hc : s.cache.set i none = s.cache := by rw [← hi, Table.set_get]
  unfold State.invalidate State.setLine
  rw [hc, List.erase_of_not_mem hr]

section Evict

variable {s : State} {answers : List MemAnswer} {i : Fin 64}

theorem evict_done (h : RecencyListed s) (ha : Answered answers (s.wayOut i).length) :
    (Run.start s answers).evict i =
      (true, Run.start ((s.wroteAll answers (s.wayOut i)).invalidate i) (answers.drop (s.wayOut i).length)) := by
  unfold Run.evict
  cases hi : s.cache.get i with
  | none =>
    have hw : s.wayOut i = [] := by simp [State.wayOut, hi]
    have hst : (Run.start s answers).st = s := rfl
    simp only [hst, hi, hw]
    rw [show s.wroteAll answers [] = s from rfl, State.invalidate_idle h hi]
    rfl
  | some l =>
    have hw : s.wayOut i = if l.dirty then l.words.writeBack (s.boardAddr l.board) else [] := by
      simp [State.wayOut, hi]
    have hst : (Run.start s answers).st = s := rfl
    rw [hw] at ha
    simp only [hst, hi, hw, Run.writes_done (r := Run.start s answers) ha]
    rfl

theorem evict_hard {k : Nat} (hk : k < (s.wayOut i).length) (ha : Answered answers k)
    (hn : ¬Answered answers (k + 1)) :
    (Run.start s answers).evict i =
      (false, (Run.start (brokenOff s answers (s.wayOut i) k) (answers.drop (k + 1))).raise .memory) := by
  unfold Run.evict
  cases hi : s.cache.get i with
  | none =>
    have hw : s.wayOut i = [] := by simp [State.wayOut, hi]
    rw [hw] at hk
    cases hk
  | some l =>
    have hw : s.wayOut i = if l.dirty then l.words.writeBack (s.boardAddr l.board) else [] := by
      simp [State.wayOut, hi]
    have hst : (Run.start s answers).st = s := rfl
    rw [hw] at hk
    simp only [hst, hi, hw, Run.writes_hard (r := Run.start s answers) hk ha hn]
    rfl

end Evict

/-! ### The fill -/

/-- The entry that a fill puts in place, by the words it has read (R46, step 4). -/
def filledLine (b : BoardRef) (words : List Word) : CacheLine :=
  ⟨b, ⟨wordAt words 0, wordAt words 1, wordAt words 2, wordAt words 3⟩, false, false⟩

section Fill

variable {s : State} {answers rest : List MemAnswer} {b : BoardRef} {i : Fin 64} {v : State}
  (hv : s.victim = some i)
include hv

theorem fill_done (he : (Run.start s answers).evict i = (true, Run.start v rest)) (ha : Answered rest 4) :
    (Run.start s answers).fill b =
      (.found (filledLine b (v.wordsRead rest (v.boardAddr b) 4)),
        Run.start (((v.waited rest 4).setLine i (some (filledLine b (v.wordsRead rest (v.boardAddr b) 4)))).touch i)
          (rest.drop 4)) := by
  have hst : (Run.start s answers).st = s := rfl
  have hst' : (Run.start v rest).st = v := rfl
  simp only [Run.fill, hst, hst', hv, he, Run.reads_done (r := Run.start v rest) ha]
  rfl

theorem fill_evict_hard {r : Run} (he : (Run.start s answers).evict i = (false, r)) :
    (Run.start s answers).fill b = (.failed, r) := by
  have hst : (Run.start s answers).st = s := rfl
  simp only [Run.fill, hst, hv, he]

theorem fill_read_hard (he : (Run.start s answers).evict i = (true, Run.start v rest)) {k : Nat} (hk : k < 4)
    (ha : Answered rest k) (hn : ¬Answered rest (k + 1)) :
    (Run.start s answers).fill b =
      (.failed, (Run.start (v.waited rest (k + 1)) (rest.drop (k + 1))).raise .memory) := by
  have hst : (Run.start s answers).st = s := rfl
  have hst' : (Run.start v rest).st = v := rfl
  simp only [Run.fill, hst, hst', hv, he, Run.reads_hard (r := Run.start v rest) hk ha hn]
  rfl

end Fill

/-! ### The lookup -/

theorem lookup_hit {s : State} {b : BoardRef} {i : Fin 64} {l : CacheLine} (hi : s.lineOf b = some i)
    (hl : s.cache.get i = some l) (answers : List MemAnswer) : Fetched s answers b l (s.touch i) answers := by
  have hst : (Run.start s answers).st = s := rfl
  simp only [Fetched, Run.lookup, hst, hi, hl]
  rfl

theorem lookup_unloaded {s : State} {b : BoardRef} (hi : s.lineOf b = none)
    (hl : (s.nest b.nest).state.loaded = false) (answers : List MemAnswer) :
    Run.lookup (Run.start s answers) b = (.notCached, Run.start s answers) := by
  have hst : (Run.start s answers).st = s := rfl
  simp [Run.lookup, hst, hi, hl]

theorem lookup_miss {s : State} {b : BoardRef} (hi : s.lineOf b = none)
    (hl : (s.nest b.nest).state.loaded = true) (answers : List MemAnswer) :
    Run.lookup (Run.start s answers) b = (Run.start s answers).fill b := by
  have hst : (Run.start s answers).st = s := rfl
  simp [Run.lookup, hst, hi, hl]

/-- The victim is the lowest invalid entry, or the least recent that may be taken (R45). -/
theorem State.victim_some {s : State} {i : Fin 64} (h : s.victim = some i) :
    (s.cache.get i = none ∧ ∀ j, j.val < i.val → s.cache.get j ≠ none) ∨
      ((∀ j, s.cache.get j ≠ none) ∧ s.evictable i = true ∧
        ∃ older newer, s.recency = newer ++ i :: older ∧ ∀ j ∈ older, s.evictable j = false) := by
  unfold State.victim at h
  split at h
  · next k hk =>
    cases h
    refine .inl ⟨by simpa using Table.firstIndex_some hk, fun j hj hnone => ?_⟩
    have := Table.firstIndex_before hk hj
    simp [hnone] at this
  · next hk =>
    obtain ⟨hi, newer, older, hsplit, hbefore⟩ := List.find?_eq_some_iff_append.1 h
    refine .inr ⟨fun j hnone => ?_, hi, newer.reverse, older.reverse, ?_, fun j hj => ?_⟩
    · have := Table.firstIndex_none.1 hk j
      simp [hnone] at this
    · rw [← s.recency.reverse_reverse, hsplit]
      simp
    · simpa using hbefore j (List.mem_reverse.1 hj)

/-- Settles O18. -/
theorem lookupHitsOrFills : Obligations.LookupHitsOrFills := by
  unfold Obligations.LookupHitsOrFills
  intro s answers b hlisted
  refine ⟨fun i l hi hl => lookup_hit hi hl answers, fun hi hl => lookup_unloaded hi hl answers,
    fun i p he hi hl hvictim => ?_, fun i => State.victim_some⟩
  intro back u v rest w words l
  have hback : back = s.wayOut i := rfl
  have hv : v = (s.wroteAll answers (s.wayOut i)).invalidate i := rfl
  have haddr : v.boardAddr b = s.boardAddr b := by
    have hb : s.Beside v := (s.wroteAll_beside answers (s.wayOut i)).trans (.of_eq rfl)
    exact hb.boardAddr he b
  have hmiss := lookup_miss hi hl answers
  have hevict (ha : Answered answers back.length) :
      (Run.start s answers).evict i = (true, Run.start v rest) := evict_done hlisted ha
  refine ⟨fun ha => ?_, fun k hk ha hn => ?_, fun k hk ha hn => ?_⟩
  · obtain ⟨hout, hin⟩ := Answered.add_iff.1 ha
    have hfill := fill_done (b := b) hvictim (hevict hout) hin
    rw [haddr] at hfill
    exact hmiss.trans hfill
  · exact hmiss.trans (fill_evict_hard hvictim (evict_hard hk ha hn))
  · obtain ⟨hout, hin⟩ := Answered.add_iff.1 ha
    exact hmiss.trans (fill_read_hard hvictim (hevict hout) hk hin (not_answered_drop hout hn))

end Sys2Proof.Machine
end

section
/-! PROOF. Service commands that pass their checks: what every kind shares (R158), and the commands that act on a
nest (R65 to R69, R71, R73, R74). -/

namespace Sys2Proof.Machine

open Sys2Proof.Claims

/-! ### The nest: count and drain -/

theorem NestContext.same_withNest (s : State) (n : Nest) : s.withNest n (s.nest n) = s := by cases n <;> rfl

/-- A nest that enters STOPPED or COMPLETE, its flag with it. -/
def State.settledNest (u : State) (n : Nest) (c : NestContext) : State :=
  { u.withNest n c with flags := u.flags ||| nestFlags n (u.nest n).state c.state }

theorem State.settledNest_same (u : State) (n : Nest) : u.settledNest n (u.nest n) = u := by
  have hf : nestFlags n (u.nest n).state (u.nest n).state = 0 := by simp [nestFlags]
  unfold State.settledNest
  rw [NestContext.same_withNest, hf]
  simp

theorem State.settledNest_withNest (u : State) (n : Nest) (c d : NestContext) :
    (u.withNest n c).settledNest n d =
      { u.withNest n d with flags := u.flags ||| nestFlags n c.state d.state } := by
  cases n <;> rfl

theorem drained_of_named {c : NestContext} : drained true c = c := by simp [drained]

/-- The drain test, by whether an entry names the nest (R67). -/
theorem Run.Made.drainTest {r : Run} {u : State} {ids : List ImageId} (h : r.Made u ids) (n : Nest) :
    ∃ more, (r.drainTest n).Made (u.settledNest n (drained (u.nestNamed n) (u.nest n))) (ids ++ more) ∧
      ∀ id ∈ more, id = .nest n ∨ id = .status := by
  unfold Run.drainTest
  rw [h.shape]
  by_cases hd : ((u.nest n).state == .stopping && !u.nestNamed n) = true
  · obtain ⟨hs, hn⟩ := Bool.and_eq_true_iff.1 hd
    have hs : (u.nest n).state = .stopping := by simpa using hs
    have hn : u.nestNamed n = false := by simpa using hn
    have hc : drained (u.nestNamed n) (u.nest n) = { u.nest n with state := .stopped } := by
      simp [drained, hs, hn]
    have hm := (h.setNest n { u.nest n with state := .stopped }).raise (.nestStopped n)
    rw [if_pos hd, hc]
    refine ⟨_, (hm.at_state ?_).congr (fun id => by rw [List.append_assoc]), fun id hid => ?_⟩
    · simp [State.settledNest, nestFlags, hs]
    · simp only [List.mem_append, List.mem_ite_nil_left, List.mem_singleton] at hid
      exact hid.imp And.right And.right
  · have hc : drained (u.nestNamed n) (u.nest n) = u.nest n := by
      unfold drained
      rw [if_neg]
      simpa using hd
    rw [if_neg hd, hc, State.settledNest_same]
    exact ⟨[], h.congr (by simp), by simp⟩

theorem Run.Free.drainTest {r : Run} (h : r.Free) (n : Nest) : (r.drainTest n).Free := by
  unfold Run.drainTest
  simp only
  split
  · exact (h.setNest n _).raise _
  · exact h

/-! ### The end of a request, its images within bounds -/

theorem ended_of_ends {u u' t : State} {tag : Tag} {changed must may : List ImageId}
    (h : Ends u t tag .done changed) (he : u = u') (hmust : ∀ id ∈ must, id ∈ changed)
    (hmay : ∀ id ∈ changed, id ∈ may) : Ended u' t tag must may := ⟨changed, hmust, hmay, he ▸ h⟩

/-! ### What every accepted service command shares (R158) -/

/-- The state in which an accepted service command takes effect: the verdict and word 0 are written. -/
def serviced (s : State) (answers : List MemAnswer) (q : Request) : State :=
  (s.waited answers 3).wroteAll (answers.drop 3)
    [(q.word 3, verdictAdmitted none (s.waited answers 3).time), (q.word 0, q.data)]

theorem serviced_beside (s : State) (answers : List MemAnswer) (q : Request) : s.Beside (serviced s answers q) :=
  (s.waited_beside answers 3).trans ((s.waited answers 3).wroteAll_beside _ _)

theorem accepted_eq (s : State) (answers : List MemAnswer) (q : Request) :
    accepted s answers q = { serviced s answers q with cursors := advanced s .service } := rfl

theorem Ring.slotOf_lt {ring : Ring} {a k : Nat} (h : ring.slotOf a = some k) : k < ring.slots := by
  unfold Ring.slotOf offsetIn at h
  split at h
  · next hin =>
    cases h
    have hsize : ring.size = 32 * ring.slots := rfl
    show (a - ring.base.toNat) / 32 < ring.slots
    omega
  · cases h

theorem Cursors.get_set (c : Cursors) (ring : CmdRing) (k : Nat) : (c.set ring k).get ring = k := by
  cases ring <;> rfl

/-- The cursor of a ring of 16 slots or more moves. -/
theorem advanced_ne {s : State} {ring : CmdRing} {tag : Tag} {q : Request} (h : Posted s ring tag q) :
    s.cursors ≠ advanced s ring := by
  intro he
  have hk : s.cursor ring = (s.ring ring).after (s.cursor ring) := by
    have := congrArg (fun c => Cursors.get c ring) he
    simp only [advanced, Cursors.get_set] at this
    exact this
  have hlt := Ring.slotOf_lt h.atCursor
  have hsize := h.sized
  unfold Ring.after at hk
  split at hk <;> omega

/-- A post moves its cursor: the status block is collected with what it has collected before. -/
theorem Run.Made.advance {s u : State} {ring : CmdRing} {tag : Tag} {q : Request} (hp : Posted s ring tag q)
    {r : Run} {ids : List ImageId} (h : r.Made u ids) (hc : u.cursors = s.cursors) (hr : u.rings = s.rings) :
    (r.advance ring).Made { u with cursors := advanced s ring } (ids ++ [.status]) := by
  have ha : u.cursors.set ring ((u.ring ring).after (u.cursor ring)) = advanced s ring := by
    unfold State.ring State.cursor advanced State.ring State.cursor
    rw [hc, hr]
  have hm := h.setCursors (advanced s ring)
  unfold Run.advance
  rw [h.shape, ha]
  rwa [hc, if_neg (advanced_ne hp)] at hm

theorem Run.Free.advance {r : Run} (h : r.Free) (ring : CmdRing) : (r.advance ring).Free := h.setCursors _

theorem grantService_done {α : Type} (apply : α → Run → Run) (q : Request) (x : α) {v : State}
    {rest : List MemAnswer} (ha : Answered rest 2) :
    grantService apply q x (Run.start v rest) = (.done, (apply x (Run.start
      (v.wroteAll rest [(q.word 3, verdictAdmitted none v.time), (q.word 0, q.data)]) (rest.drop 2))).advance
      .service) :=
  Run.writing_done (r := Run.start v rest)
    (ws := [(q.word 3, verdictAdmitted none v.time), (q.word 0, q.data)]) ha _

section Accepted

variable {s : State} {tag : Tag} {q : Request} {answers : List MemAnswer} {kind : ServiceKind} {x : kind.Plan}
  (hp : Posted s .service tag q) (hrow : postRow .service q.data answers = some (kind.row answers))
  (ha : Answered answers 5)
  (hj : ∀ r : Run, r.st = s.waited answers 3 → kind.judge (word1 s answers q) r = (.pass x, r))
include hp hrow ha hj

/-- An accepted service command takes effect once its verdict and word 0 are written. -/
theorem service_accepted :
    exec (kind.row answers) s = .next (Served
      (.done, (kind.effect x (Run.start (serviced s answers q) (answers.drop 5))).advance .service) tag) := by
  obtain ⟨p, he⟩ := serving_of_held hp.inHand
  obtain ⟨hk, ht⟩ := serviceKind_of_row hrow
  obtain ⟨hread, hwrite⟩ := Answered.add_iff (n := 3) (k := 2) |>.1 ha
  have hx := ServiceKind.serves_row (answers := answers) hp.inHand hp.cls hk ht
  unfold Serves at hx
  rw [servePost_judged he hread (posted_postChecks hp (by simp [kindFits, hk])), hj _ rfl] at hx
  rw [hx]
  show Host.Outcome.next (Served (grantService _ q x _) tag) = _
  rw [grantService_done kind.effect q x hwrite, List.drop_drop]
  rfl

/-- An accepted service command whose effects leave no duty for its end. -/
theorem service_ends {u : State} {ids : List ImageId}
    (h : (kind.effect x (Run.start (serviced s answers q) (answers.drop 5))).Made u ids)
    (hf : (kind.effect x (Run.start (serviced s answers q) (answers.drop 5))).Free)
    (hc : u.cursors = (serviced s answers q).cursors) (hr : u.rings = (serviced s answers q).rings) :
    ∃ t, exec (kind.row answers) s = .next t ∧
      Ends { u with cursors := advanced s .service } t tag .done (ids ++ [.status]) := by
  obtain ⟨p, he⟩ := serving_of_held hp.inHand
  have hb := serviced_beside s answers q
  exact ⟨_, service_accepted hp hrow ha hj,
    (h.advance hp (hc.trans (hb.cursors he)) (hr.trans (hb.rings he))).ends (hf.advance _) (by simp) tag .done⟩

end Accepted

theorem serviced_made {s : State} {p : Fin 18} (hg : s.mode = .guarded) (he : s.engine = .serving p)
    (answers : List MemAnswer) (q : Request) (rest : List MemAnswer) :
    (Run.start (serviced s answers q) rest).Made (serviced s answers q) [] :=
  .start (r := Run.start (serviced s answers q) rest) (((serviced_beside s answers q).mode he).trans hg) rfl

/-! ### NEST_STOP and NEST_RESUME -/

theorem NestState.runs_iff (x : NestState) : x.runs = true ↔ x = .active ∨ x = .stopping ∨ x = .stopped := by
  cases x <;> decide

theorem State.nestNamed_congr {s t : State} (h : t.entries = s.entries) (n : Nest) : t.nestNamed n = s.nestNamed n := by
  rw [State.nestNamed, State.nestNamed, h]

theorem State.nestNamed_withNest (s : State) (n m : Nest) (c : NestContext) :
    (s.withNest n c).nestNamed m = s.nestNamed m := State.nestNamed_congr (by simp) m

/-- A nest that stops: ACTIVE to STOPPING, and to STOPPED at once when it is drained (R67, R68). -/
theorem Run.Made.stopNest {r : Run} {u : State} {ids : List ImageId} (h : r.Made u ids) (n : Nest) :
    ∃ more, (r.stopNest n).Made (u.settledNest n (if (u.nest n).state = .active then
        drained (u.nestNamed n) { u.nest n with state := .stopping } else u.nest n)) (ids ++ more) ∧
      ∀ id ∈ more, id = .nest n ∨ id = .status := by
  unfold Run.stopNest
  rw [h.shape]
  by_cases ha : (u.nest n).state = .active
  · rw [if_pos ha, if_pos ha]
    obtain ⟨more, hm, hmore⟩ := (h.setNest n { u.nest n with state := .stopping }).drainTest n
    rw [State.nest_withNest_self, State.nestNamed_withNest] at hm
    refine ⟨_, (hm.at_state ?_).congr fun id => by rw [List.append_assoc], fun id hid => ?_⟩
    · rw [State.settledNest_withNest, State.settledNest, ha]
      generalize hd : drained (u.nestNamed n) { u.nest n with state := .stopping } = d
      have hds : d.state = .stopping ∨ d.state = .stopped := by
        rw [← hd, drained]
        split
        · exact .inr rfl
        · exact .inl rfl
      have hflags : nestFlags n .stopping d.state = nestFlags n .active d.state := by
        rcases hds with hs | hs <;> rw [hs] <;> rfl
      rw [← hflags]
    · rcases List.mem_append.1 hid with hid | hid
      · simp only [List.mem_ite_nil_left, List.mem_singleton] at hid
        exact .inl hid.2
      · exact hmore id hid
  · rw [if_neg ha, if_neg ha, State.settledNest_same]
    exact ⟨[], h.congr (by simp), by simp⟩

theorem Run.Free.stopNest {r : Run} (h : r.Free) (n : Nest) : (r.stopNest n).Free := by
  unfold Run.stopNest
  split
  · exact (h.setNest n _).drainTest n
  · exact h

/-- Settles O25. -/
theorem nestStopsAndResumes : Obligations.NestStopsAndResumes := by
  unfold Obligations.NestStopsAndResumes
  intro s tag q answers n hp ha hn hstate u
  obtain ⟨p, he⟩ := serving_of_held hp.inHand
  have hv : s.Beside (s.waited answers 3) := s.waited_beside answers 3
  have hw := serviced_beside s answers q
  have hnest : (serviced s answers q).nest n = u.nest n := by cases n <;> rfl
  have hruns : ((s.waited answers 3).nest n).state.runs = true := by
    rw [hv.nest_state he]; exact (NestState.runs_iff _).2 hstate
  have hm := serviced_made hp.guarded he answers q (answers.drop 5)
  have hf := Run.Free.start (serviced s answers q) (answers.drop 5)
  refine ⟨fun hrow hc => ?_, fun hrow => ?_⟩
  · intro c
    obtain ⟨more, hm, hmore⟩ := hm.stopNest n
    obtain ⟨t, hx, hends⟩ := service_ends (kind := .nestStop) hp hrow ha
      (fun r hr => judging_eq hr ((judgeNestStop_state hn hc).trans (if_pos hruns)))
      hm (hf.stopNest n) (by simp [State.settledNest]) (by simp [State.settledNest])
    have hc : (if ((serviced s answers q).nest n).state = .active then
        drained ((serviced s answers q).nestNamed n) { (serviced s answers q).nest n with state := .stopping }
        else (serviced s answers q).nest n) = c := by
      rw [hw.nest_state he, State.nestNamed_congr (hw.entries he), hnest]
    rw [hc] at hends
    refine ⟨t, hx, ended_of_ends hends ?_ (by simp) fun id hid => ?_⟩
    · unfold State.settledNest
      rw [hw.nest_state he]
      cases n <;> rfl
    · simp only [List.nil_append, List.mem_append, List.mem_singleton] at hid
      simp only [List.mem_cons, List.not_mem_nil, or_false]
      exact hid.elim (hmore id) .inr
  · have hm := hm.setNest n { (serviced s answers q).nest n with state := .active }
    obtain ⟨t, hx, hends⟩ := service_ends (kind := .nestResume) hp hrow ha
      (fun r hr => judging_eq hr ((judgeNestResume_some hn).trans (if_pos hruns)))
      hm (hf.setNest n _) (by simp) (by simp)
    refine ⟨t, hx, ended_of_ends hends (by cases n <;> rfl) (by simp) fun id hid => ?_⟩
    simp only [List.nil_append, List.mem_append, List.mem_ite_nil_left, List.mem_singleton] at hid
    simp only [List.mem_cons, List.not_mem_nil, or_false]
    exact hid.imp And.right (fun h => h)

/-! ### NEST_SYNC and NEST_RELEASE -/

theorem Run.Made.queueJob {r : Run} {u : State} {ids : List ImageId} (h : r.Made u ids) (job : Job) :
    (r.queueJob job).Made { u with jobs := u.jobs ++ [job] } ids :=
  h.modify (f := fun s => { s with jobs := s.jobs ++ [job] }) h.guarded

theorem Run.Free.queueJob {r : Run} (h : r.Free) (job : Job) : (r.queueJob job).Free := h.modify _

theorem not_syncExists {v : State} {n : Nest} (h : .sync n ∉ v.jobs ∧ (∀ j, v.walker = .running j → j.job ≠ .sync n) ∧
    ∀ clean failed, v.walker ≠ .waiting (.sync n clean failed)) : ¬SyncExists v n := by
  obtain ⟨hjobs, hrun, hwait⟩ := h
  rintro (h | ⟨j, hj, h⟩ | ⟨clean, failed, h⟩)
  · exact hjobs h
  · exact hrun j hj h
  · exact hwait clean failed h

theorem Job.loads_iff (job : Job) (n : Nest) : job.loads n = true ↔ ∃ d, job = .load n d := by
  cases job <;> simp [Job.loads]

/-- A cancelled LOAD job keeps its place, and is marked (R54). -/
theorem RunningJob.cancel_keeps (j : RunningJob) :
    j.cancel.job = j.job ∧ j.cancel.scan = j.scan ∧ j.cancel.cancelled = true := by
  unfold RunningJob.cancel
  split <;> exact ⟨rfl, rfl, rfl⟩

/-- The walker once the LOAD job of a nest is cancelled, or its completion withdrawn (R74). -/
def walkerWithout (n : Nest) : Walker → Walker
  | .idle => .idle
  | .running j => if j.job.loads n then .running j.cancel else .running j
  | .waiting (.load m result count) => if m = n then .idle else .waiting (.load m result count)
  | .waiting c => .waiting c

theorem State.cancelLoad_eq (s : State) (n : Nest) :
    s.cancelLoad n = { s with
      jobs := s.jobs.filter fun job => !job.loads n, walker := walkerWithout n s.walker } := by
  have hw (w : Walker) (h : s.walker = w) : s = { s with walker := w } := by rw [← h]
  unfold State.cancelLoad walkerWithout
  cases h : s.walker with
  | idle => rw [hw _ h]
  | running j =>
    simp only
    split
    · rfl
    · rw [hw _ h]
  | waiting c =>
    cases c with
    | load m result count =>
      simp only
      split
      · rfl
      · rw [hw _ h]
    | sync m clean failed => rw [hw _ h]
    | release m failed => rw [hw _ h]

theorem walkerWithout_waiting {n : Nest} {result : LoadEnd} {count : Nat} :
    walkerWithout n (.waiting (.load n result count)) = .idle := if_pos rfl

theorem walkerWithout_running {n : Nest} {j : RunningJob} {d : Descriptor} (h : j.job = .load n d) :
    walkerWithout n (.running j) = .running j.cancel := if_pos ((Job.loads_iff _ n).2 ⟨d, h⟩)

theorem walkerWithout_other {n : Nest} {w : Walker} (hr : ∀ j d, w = .running j → j.job ≠ .load n d)
    (hw : ∀ result count, w ≠ .waiting (.load n result count)) : walkerWithout n w = w := by
  unfold walkerWithout
  split
  · rfl
  · next j =>
    rw [if_neg]
    rw [Job.loads_iff]
    rintro ⟨d, hd⟩
    exact hr j d rfl hd
  · next m result count =>
    rw [if_neg]
    rintro rfl
    exact hw result count rfl
  · rfl

/-- A nest as an accepted release leaves it, but for a LOADING one (R73). -/
def NestContext.releasing (c : NestContext) : NestContext :=
  { c with state := .releasing, claim := .none, remaining := 0, typesValid := false }

/-- A release of a nest that is not LOADING (R73). -/
theorem Run.Made.releaseNest {r : Run} {u : State} {ids : List ImageId} (h : r.Made u ids) {n : Nest}
    (hl : (u.nest n).state ≠ .loading) (hr : (u.nest n).state ≠ .releasing) :
    (r.releaseNest n).Made { u.withNest n (u.nest n).releasing with jobs := u.jobs ++ [.release n] }
      (ids ++ [.nest n]) := by
  unfold Run.releaseNest
  rw [h.shape, if_neg hl]
  have hm := (h.setNest n (u.nest n).releasing).queueJob (.release n)
  rw [if_neg fun he => hr (by rw [he]; rfl)] at hm
  exact hm.at_state (by rw [State.withNest_jobs])

/-- A release of a LOADING nest (R74). -/
theorem Run.Made.releaseLoading {r : Run} {u : State} {ids : List ImageId} (h : r.Made u ids) {n : Nest}
    (hl : (u.nest n).state = .loading) :
    (r.releaseNest n).Made { u.withNest n (u.nest n).emptied with
        jobs := u.jobs.filter fun job => !job.loads n, walker := walkerWithout n u.walker }
      (ids ++ [.nest n]) := by
  unfold Run.releaseNest
  rw [h.shape, if_pos hl]
  have hcancel : (u.cancelLoad n).mode = .guarded := by rw [State.cancelLoad_eq]; exact h.guarded
  have hnest : (u.cancelLoad n).nest n = u.nest n := by rw [State.cancelLoad_eq]; rfl
  have hm := (h.modify (f := fun s => s.cancelLoad n) hcancel).setNest n (u.nest n).emptied
  have hne : u.nest n ≠ (u.nest n).emptied := fun he => by
    have hs := congrArg NestContext.state he
    rw [hl] at hs
    cases hs
  rw [hnest, if_neg hne] at hm
  exact hm.at_state (by rw [State.cancelLoad_eq]; cases n <;> rfl)

theorem Run.Free.releaseNest {r : Run} (h : r.Free) (n : Nest) : (r.releaseNest n).Free := by
  unfold Run.releaseNest
  split
  · exact (h.modify _).setNest n _
  · exact (h.setNest n _).queueJob _

theorem ends_at {u u' t : State} {tag : Tag} {ack : Ack} {changed : List ImageId} (h : Ends u t tag ack changed)
    (he : u = u') : Ends u' t tag ack changed := he ▸ h

/-- Settles O26. -/
theorem syncAndReleaseReachTheWalker : Obligations.SyncAndReleaseReachTheWalker := by
  unfold Obligations.SyncAndReleaseReachTheWalker
  intro s tag q answers n hp ha hn v u noSync state
  obtain ⟨p, he⟩ := serving_of_held hp.inHand
  have hv : s.Beside v := s.waited_beside answers 3
  have hw := serviced_beside s answers q
  have hstate : ((serviced s answers q).nest n).state = state := hw.nest_state he n
  have hvstate : (v.nest n).state = state := hv.nest_state he n
  have hm := serviced_made hp.guarded he answers q (answers.drop 5)
  have hf := Run.Free.start (serviced s answers q) (answers.drop 5)
  refine ⟨fun hrow hno hs => ?_, fun hrow hno hs hentries hcups => ?_, fun hrow hs => ?_⟩
  · have hpass : ((v.nest n).state.syncs && !v.syncExists n) = true := by
      have hx : v.syncExists n = false := by
        rw [← Bool.not_eq_true, v.syncExists_iff]
        exact not_syncExists hno
      rw [hvstate, hx]
      rcases hs with hs | hs | hs | hs | hs <;> rw [hs] <;> rfl
    exact service_ends (kind := .nestSync) hp hrow ha
      (fun r hr => judging_eq hr ((judgeNestSync_some hn).trans (if_pos hpass)))
      (hm.queueJob (.sync n)) (hf.queueJob _) rfl rfl
  · have hfree : v.nestFree n = true := by
      rw [v.nestFree_iff, hv.entries he, hv.cups he]
      rintro (h | ⟨i, e, hi, h⟩ | ⟨k, b, hk, h⟩)
      · exact not_syncExists hno h
      · exact hentries i e hi h
      · exact hcups k b hk h
    have hpass : v.releasable n = true := by
      unfold State.releasable
      rw [hvstate]
      rcases hs with hs | hs | hs <;> rw [hs] <;> exact hfree
    have hnot : state ≠ .loading ∧ state ≠ .releasing := by
      rcases hs with hs | hs | hs <;> rw [hs] <;> decide
    obtain ⟨t, hx, hends⟩ := service_ends (kind := .nestRelease) hp hrow ha
      (fun r hr => judging_eq hr ((judgeNestRelease_some hn).trans (if_pos hpass)))
      (hm.releaseNest (hstate ▸ hnot.1) (hstate ▸ hnot.2)) (hf.releaseNest n) (by simp) (by simp)
    exact ⟨t, hx, ends_at hends (by cases n <;> rfl)⟩
  · have hpass : v.releasable n = true := by
      unfold State.releasable
      rw [hvstate, hs]
    obtain ⟨t, hx, hends⟩ := service_ends (kind := .nestRelease) hp hrow ha
      (fun r hr => judging_eq hr ((judgeNestRelease_some hn).trans (if_pos hpass)))
      (hm.releaseLoading (hstate.trans hs)) (hf.releaseNest n) (by simp) (by simp)
    have hwalker : t.walker = walkerWithout n u.walker := ends_same hends fun u => u.walker
    have hjobs : t.jobs = u.jobs.filter fun job => !job.loads n := ends_same hends fun u => u.jobs
    refine ⟨t, hx, ends_at hends ?_, ?_, fun result count hwait => ?_, fun j d hj hd => ?_, fun hr hwait => ?_⟩
    · rw [hwalker, hjobs]
      cases n <;> rfl
    · rw [hjobs]
      refine ⟨List.filter_sublist, fun job => ?_⟩
      rw [List.mem_filter, Bool.not_eq_true', ← Bool.not_eq_true, Job.loads_iff, not_exists]
    · rw [hwalker, hwait, walkerWithout_waiting]
    · obtain ⟨hjob, hscan, hcan⟩ := j.cancel_keeps
      exact ⟨j.cancel, by rw [hwalker, hj, walkerWithout_running hd], hjob, hscan, hcan⟩
    · rw [hwalker, walkerWithout_other hr hwait]

end Sys2Proof.Machine
end

section
/-! PROOF. The removal of an entry and the EMPTY mark that it leaves (R66, R80, R121), and the commands that remove
one entry or empty one cup (R165, R166). -/

namespace Sys2Proof.Machine

open Sys2Proof.Claims

/-! ### What a run still owes at its end -/

/-- A run has the duties of another: the same answers to come, EMPTY marks, events and lanes to look at. -/
structure Run.Spares (r r' : Run) : Prop where
  rest  : r.SameRest r'
  lanes : r'.lanes = r.lanes

namespace Run.Spares

theorem refl (r : Run) : r.Spares r := ⟨.refl r, rfl⟩

theorem trans {a b c : Run} (h : a.Spares b) (k : b.Spares c) : a.Spares c :=
  ⟨h.rest.trans k.rest, k.lanes.trans h.lanes⟩

theorem image (r : Run) (id : ImageId) : r.Spares (r.image id) := ⟨r.image_rest id, r.image_lanes id⟩
theorem modify (r : Run) (f : State → State) : r.Spares (r.modify f) := ⟨⟨rfl, rfl, rfl⟩, rfl⟩
theorem setNest (r : Run) (n : Nest) (c : NestContext) : r.Spares (r.setNest n c) :=
  ⟨r.setNest_rest n c, r.setNest_lanes n c⟩
theorem setCup (r : Run) (i : Fin 4) (c : Cup) : r.Spares (r.setCup i c) := ⟨r.setCup_rest i c, r.setCup_lanes i c⟩
theorem setLane (r : Run) (i : Fin 16) (l : Lane) : r.Spares (r.setLane i l) :=
  ⟨r.setLane_rest i l, r.setLane_lanes i l⟩
theorem setEntry (r : Run) (i : Fin 32) (e : Option Entry) : r.Spares (r.setEntry i e) :=
  ⟨r.setEntry_rest i e, r.setEntry_lanes i e⟩
theorem setCursors (r : Run) (c : Cursors) : r.Spares (r.setCursors c) :=
  ⟨r.setCursors_rest c, r.setCursors_lanes c⟩
theorem raise (r : Run) (f : Flag) : r.Spares (r.raise f) := ⟨r.raise_rest f, r.raise_lanes f⟩

theorem drainTest (r : Run) (n : Nest) : r.Spares (r.drainTest n) := by
  unfold Run.drainTest
  simp only
  split
  · exact (Spares.setNest r n _).trans (.raise _ _)
  · exact .refl r

theorem reclaim (r : Run) (n : Nest) : r.Spares (r.reclaim n) := .setNest r n _

theorem advance (r : Run) (ring : CmdRing) : r.Spares (r.advance ring) := .setCursors r _

theorem foldl {α : Type} {f : Run → α → Run} (hf : ∀ (r : Run) x, r.Spares (f r x)) (l : List α) (r : Run) :
    r.Spares (l.foldl f r) := by
  induction l generalizing r with
  | nil => exact .refl r
  | cons x l ih => exact (hf r x).trans (ih _)

theorem free {r r' : Run} (h : r.Spares r') (hf : r.Free) : r'.Free := hf.rest h.rest h.lanes

end Run.Spares

/-! ### The EMPTY marks (R80) -/

/-- The marks that a run owes, in order, with their places. -/
def Run.marks (r : Run) (ring : Ring) : List (Nat × Word) :=
  r.empties.map fun p => (ring.slotAddr p.1, presentWord0 0 p.2)

theorem emptied_beside (s : State) (answers : List MemAnswer) (w : Nat × Word) : s.Beside (emptied s answers w) := by
  unfold emptied
  split
  · exact (s.awaitNext_beside answers).trans (.of_eq rfl)
  · exact s.wrote_beside answers w

theorem emptiedAll_beside (s : State) (answers : List MemAnswer) (ws : List (Nat × Word)) :
    s.Beside (emptiedAll s answers ws) := by
  induction ws generalizing s answers with
  | nil => exact .refl s
  | cons w ws ih => exact (emptied_beside s answers w).trans (ih _ _)

theorem State.Beside.stackerRing {s t : State} {p : Fin 18} (h : s.Beside t) (e : s.engine = .serving p) :
    t.stackerRing = s.stackerRing := by
  rw [State.stackerRing, State.stackerRing, h.rings e]

/-- A mark is written, or memory answers it HARD and MEMORY is raised. -/
theorem Run.Made.write {r : Run} {u : State} {ids : List ImageId} (h : r.Made u ids) {p : Fin 18}
    (he : u.engine = .serving p) (a : Nat) (w : Word) :
    ∃ more, (r.write a w).2.Made (emptied u r.answers (a, w)) (ids ++ more) ∧
      (∀ id ∈ more, id = .status) ∧
      (r.write a w).2.answers = r.answers.tail ∧ (r.write a w).2.empties = r.empties ∧
      (r.write a w).2.events = r.events ∧ (r.write a w).2.lanes = r.lanes := by
  have hw (u' : State) (hb : u.Beside u') :
      Run.Made { r with answers := r.answers.tail, st := u' } u' ids :=
    ⟨rfl, h.images, (hb.mode he).trans h.guarded⟩
  unfold emptied
  by_cases ha : Answered r.answers 1
  · rw [Run.write_done ha, ha.next, if_neg nofun, h.shape]
    exact ⟨[], (hw _ (u.wrote_beside _ _)).congr (by simp), by simp, rfl, rfl, rfl, rfl⟩
  · rw [Run.write_hard ha, Answered.next_not ha, if_pos rfl, h.shape]
    have hm := (hw _ (u.awaitNext_beside r.answers)).raise .memory
    have hs := Run.Spares.raise { r with answers := r.answers.tail, st := u.awaitNext r.answers } .memory
    refine ⟨_, hm, fun id hid => ?_, hs.rest.answers, hs.rest.empties, hs.rest.events, hs.lanes⟩
    simp only [List.mem_ite_nil_left, List.mem_singleton] at hid
    exact hid.2

/-- The EMPTY marks are written in order. -/
theorem Run.Made.emptySlots {r : Run} {u : State} {ids : List ImageId} (h : r.Made u ids) {p : Fin 18}
    (he : u.engine = .serving p) :
    ∃ more, r.emptySlots.Made (emptiedAll u r.answers (r.marks u.stackerRing)) (ids ++ more) ∧
      (∀ id ∈ more, id = .status) ∧ r.emptySlots.empties = [] ∧ r.emptySlots.events = r.events ∧
      r.emptySlots.lanes = r.lanes := by
  have fold (ps : List (Nat × BitVec 8)) : ∀ (r : Run) (u : State) (ids : List ImageId), r.Made u ids →
      u.engine = .serving p →
      let r' := ps.foldl (fun r p => (r.write (r.st.stackerRing.slotAddr p.1) (presentWord0 0 p.2)).2) r
      ∃ more, r'.Made (emptiedAll u r.answers (ps.map fun p => (u.stackerRing.slotAddr p.1, presentWord0 0 p.2)))
          (ids ++ more) ∧
        (∀ id ∈ more, id = .status) ∧ r'.empties = r.empties ∧ r'.events = r.events ∧ r'.lanes = r.lanes := by
    induction ps with
    | nil => exact fun r u ids h _ => ⟨[], h.congr (by simp), by simp, rfl, rfl, rfl⟩
    | cons q ps ih =>
      intro r u ids h he
      obtain ⟨more, hm, hmore, hans, hempt, hev, hl⟩ := h.write he (u.stackerRing.slotAddr q.1) (presentWord0 0 q.2)
      have hb := emptied_beside u r.answers (u.stackerRing.slotAddr q.1, presentWord0 0 q.2)
      obtain ⟨more', hm', hmore', hempt', hev', hl'⟩ := ih _ _ _ hm (hb.engine he)
      rw [hans, hb.stackerRing he] at hm'
      rw [List.foldl_cons, h.shape]
      refine ⟨more ++ more', hm'.congr fun id => by rw [List.append_assoc], fun id hid => ?_,
        hempt'.trans hempt, hev'.trans hev, hl'.trans hl⟩
      exact (List.mem_append.1 hid).elim (hmore id) (hmore' id)
  exact fold r.empties { r with empties := [] } u ids (h.rest rfl rfl) he

theorem Run.conclude_emptySlots {r : Run} (h : r.lanes = false) : r.conclude = r.emptySlots.conclude := by
  have hs : r.settleLanes = r := by simp [Run.settleLanes, h]
  have hfold (ps : List (Nat × BitVec 8)) : ∀ r : Run, r.lanes = false → r.empties = [] →
      let r' := ps.foldl (fun r p => (r.write (r.st.stackerRing.slotAddr p.1) (presentWord0 0 p.2)).2) r
      r'.lanes = false ∧ r'.empties = [] := by
    induction ps with
    | nil => exact fun r hl he => ⟨hl, he⟩
    | cons q ps ih =>
      intro r hl he
      have hw : (r.write (r.st.stackerRing.slotAddr q.1) (presentWord0 0 q.2)).2.lanes = r.lanes ∧
          (r.write (r.st.stackerRing.slotAddr q.1) (presentWord0 0 q.2)).2.empties = r.empties := by
        unfold Run.write
        split
        · exact ⟨Run.raise_lanes _ _, (Run.raise_rest _ _).empties⟩
        · exact ⟨rfl, rfl⟩
      exact ih _ (hw.1.trans hl) (hw.2.trans he)
  obtain ⟨hl, he⟩ := hfold r.empties { r with empties := [] } h rfl
  have hsettle : r.emptySlots.settleLanes = r.emptySlots := by
    unfold Run.settleLanes
    rw [if_neg]
    rw [show r.emptySlots.lanes = false from hl]
    exact nofun
  have hempty : r.emptySlots.emptySlots = r.emptySlots := by
    have he' : r.emptySlots.empties = [] := he
    generalize r.emptySlots = y at he'
    unfold Run.emptySlots
    cases y
    simp_all
  rw [Run.conclude, Run.conclude, hs, hsettle, hempty]

/-- A request that has EMPTY marks to write, and nothing else to see to, ends with its images queued. -/
theorem Run.Made.endsEmptied {r : Run} {u : State} {ids : List ImageId} (h : r.Made u ids) {p : Fin 18}
    (he : u.engine = .serving p) (hl : r.lanes = false) (hv : r.events = []) (hs : .status ∈ ids) (tag : Tag)
    (a : Ack) : Ends (emptiedAll u r.answers (r.marks u.stackerRing)) (r.conclude.finishHeld tag a) tag a ids := by
  obtain ⟨more, hm, hmore, hempties, hevents, hlanes⟩ := h.emptySlots he
  rw [Run.conclude_emptySlots hl]
  have hm' := hm.congr (ids' := ids) fun id => by
    rw [List.mem_append]
    exact ⟨fun h => h.elim (fun h => h) fun h => hmore id h ▸ hs, .inl⟩
  exact hm'.ends ⟨hlanes.trans hl, hempties, hevents.trans hv⟩ (fun hn => by rw [hn] at hs; cases hs) tag a

/-! ### The removal of an entry -/

/-- The EMPTY mark that the removal of an entry leaves to be written (R80). -/
def Entry.mark (e : Entry) : List (Nat × BitVec 8) := if e.kind = .present then [(e.slot, e.sequence)] else []

/-- What the removal of entries leaves of a run's duties. -/
structure Run.Removes (r r' : Run) (marks : List (Nat × BitVec 8)) : Prop where
  answers : r'.answers = r.answers
  empties : r'.empties = r.empties ++ marks
  events  : r'.events = r.events
  lanes   : r'.lanes = r.lanes

theorem Run.Removes.spares {r r' r'' : Run} {marks : List (Nat × BitVec 8)} (h : r.Removes r' marks)
    (k : r'.Spares r'') : r.Removes r'' marks :=
  ⟨k.rest.answers.trans h.answers, k.rest.empties.trans h.empties, k.rest.events.trans h.events,
    k.lanes.trans h.lanes⟩

/-- An entry leaves the list, and a mark is owed for it. -/
def Run.unlisted (r : Run) (i : Fin 32) (marks : List (Nat × BitVec 8)) : Run :=
  { r.modify fun s => { s with order := s.order.erase i, due := s.due.erase i } with empties := r.empties ++ marks }

theorem Run.freeEntry_eq {r : Run} {i : Fin 32} {e : Entry} (he : r.st.entries.get i = some e) :
    r.freeEntry i = (r.unlisted i e.mark).setEntry i none := by
  unfold Run.freeEntry Run.unlisted Entry.mark
  rw [he]
  by_cases hk : e.kind = .present
  · simp only [beq_iff_eq, hk, if_true]
    rfl
  · simp only [beq_iff_eq, hk, if_false, List.append_nil]
    rfl

/-- One entry becomes free (R80, R121). -/
theorem Run.Made.freeEntry {r : Run} {u : State} {ids : List ImageId} (h : r.Made u ids) {i : Fin 32} {e : Entry}
    (he : u.entries.get i = some e) :
    (r.freeEntry i).Made (without u i) (ids ++ [.entry i]) ∧ r.Removes (r.freeEntry i) e.mark := by
  have hm : (r.unlisted i e.mark).Made { u with order := u.order.erase i, due := u.due.erase i } ids :=
    (h.modify (f := fun s => { s with order := s.order.erase i, due := s.due.erase i }) h.guarded).rest rfl rfl
  have hs := Run.setEntry_rest (r.unlisted i e.mark) i none
  rw [Run.freeEntry_eq (h.shape ▸ he)]
  exact ⟨hm.setEntry i none, hs.answers, hs.empties, hs.events, Run.setEntry_lanes _ _ _⟩

theorem EntryKind.claims_iff (k : EntryKind) : k.claims = true ↔ k = .cut ∨ k = .pick := by cases k <;> decide

theorem State.claimedBy_one {s : State} {i : Fin 32} {e : Entry} (he : s.entries.get i = some e) :
    s.claimedBy [i] = if e.kind = .cut ∨ e.kind = .pick then [e.board.nest] else [] := by
  have hk := EntryKind.claims_iff e.kind
  simp only [State.claimedBy, List.any_cons, List.any_nil, Bool.or_false, he, Option.any_some]
  by_cases hc : e.kind = .cut ∨ e.kind = .pick
  · rw [if_pos hc, hk.2 hc]
    cases e.board.nest <;> rfl
  · have hf : e.kind.claims = false := Bool.eq_false_iff.2 fun h => hc (hk.1 h)
    rw [if_neg hc, hf]
    rfl

theorem State.claimOf_congr {s t : State} (h : t.entries = s.entries) (n : Nest) : t.claimOf n = s.claimOf n := by
  rw [State.claimOf, State.claimOf, State.kindNames, State.kindNames, State.kindNames, State.kindNames, h]

/-- The context of its nest once an entry is removed: the claim of a CUT or PICK is re-evaluated (R66). -/
def unclaimed (u : State) (i : Fin 32) (e : Entry) : NestContext :=
  { u.nest e.board.nest with
    claim := if e.kind = .cut ∨ e.kind = .pick then (without u i).claimOf e.board.nest
      else (u.nest e.board.nest).claim }

theorem Run.Made.reclaim {r : Run} {u : State} {ids : List ImageId} (h : r.Made u ids) (n : Nest) :
    ∃ more, (r.reclaim n).Made (u.withNest n { u.nest n with claim := u.claimOf n }) (ids ++ more) ∧
      ∀ id ∈ more, id = .nest n := by
  unfold Run.reclaim
  rw [h.shape]
  refine ⟨_, h.setNest n _, fun id hid => ?_⟩
  simp only [List.mem_ite_nil_left, List.mem_singleton] at hid
  exact hid.2

/-- An entry is removed, and the claim of its nest re-evaluated (R66, R80, R121). -/
theorem Run.Made.removeEntry {r : Run} {u : State} {ids : List ImageId} (h : r.Made u ids) {i : Fin 32} {e : Entry}
    (he : u.entries.get i = some e) :
    ∃ more, (r.removeEntries [i]).Made ((without u i).withNest e.board.nest (unclaimed u i e))
        (ids ++ .entry i :: more) ∧
      (∀ id ∈ more, id = .nest e.board.nest) ∧ r.Removes (r.removeEntries [i]) e.mark := by
  obtain ⟨hm, hr⟩ := h.freeEntry he
  have hnests : r.st.claimedBy [i] = if e.kind = .cut ∨ e.kind = .pick then [e.board.nest] else [] := by
    rw [h.shape]; exact State.claimedBy_one he
  unfold Run.removeEntries unclaimed
  simp only [List.foldl_cons, List.foldl_nil, hnests]
  by_cases hk : e.kind = .cut ∨ e.kind = .pick
  · obtain ⟨more, hm', hmore⟩ := hm.reclaim e.board.nest
    simp only [if_pos hk, List.foldl_cons, List.foldl_nil]
    exact ⟨more, hm'.congr fun id => by simp, hmore, hr.spares (.reclaim _ _)⟩
  · simp only [if_neg hk, List.foldl_nil]
    refine ⟨[], (hm.at_state ?_).congr fun id => by simp, by simp, hr⟩
    exact (NestContext.same_withNest (without u i) e.board.nest).symm

/-! ### FORGET and CUP_CLEAR -/

theorem judgeForget_range {w1 : Word} (s : State) (h : 32 ≤ cmdEntry w1) :
    judgeForget w1 s = .refuse .serviceRange {} := by
  unfold judgeForget
  rw [asFin_none h]

theorem judgeForget_named {w1 : Word} {s : State} {i : Fin 32} (h : cmdEntry w1 = i.val) :
    judgeForget w1 s = if (s.entries.get i).any fun e => !e.inFlight then .pass i
      else .refuse .serviceState { entry := some i } := by
  unfold judgeForget
  rw [asFin_val h]

theorem judgeCupClear_range {w1 : Word} (s : State) (h : 4 ≤ cmdCup w1) :
    judgeCupClear w1 s = .refuse .serviceRange {} := by
  unfold judgeCupClear
  rw [asFin_none h]

theorem judgeCupClear_refused {w1 : Word} {s : State} {k : Fin 4} (h : cmdCup w1 = k.val)
    (hs : (s.cups.get k).state = .reserved ∨ (s.cups.get k).state = .loaded ∨
      (s.cups.get k).state = .reservedOut) : judgeCupClear w1 s = .refuse .serviceState (cupRefs k) := by
  unfold judgeCupClear
  rw [asFin_val h]
  rcases hs with hs | hs | hs <;> simp only [hs]

theorem judgeCupClear_pass {w1 : Word} {s : State} {k : Fin 4} (h : cmdCup w1 = k.val)
    (hs : (s.cups.get k).state = .suspect ∨ (s.cups.get k).state = .empty) : judgeCupClear w1 s = .pass k := by
  unfold judgeCupClear
  rw [asFin_val h]
  rcases hs with hs | hs <;> simp only [hs]

/-- The effects of a FORGET, but for the EMPTY mark and the cursor (R165). -/
theorem Run.Made.forget {r : Run} {u : State} {ids : List ImageId} (h : r.Made u ids) {i : Fin 32} {e : Entry}
    (he : u.entries.get i = some e) :
    ∃ more, (applyForget i r).Made ((without u i).settledNest e.board.nest
        (drained ((without u i).nestNamed e.board.nest) (unclaimed u i e))) (ids ++ .entry i :: more) ∧
      (∀ id ∈ more, id = .nest e.board.nest ∨ id = .status) ∧ r.Removes (applyForget i r) e.mark := by
  obtain ⟨more, hm, hmore, hr⟩ := h.removeEntry he
  obtain ⟨more', hm', hmore'⟩ := hm.drainTest e.board.nest
  have happly : applyForget i r = (r.removeEntries [i]).drainTest e.board.nest := by
    simp only [applyForget, h.shape, he]
  rw [happly]
  rw [State.nest_withNest_self, State.nestNamed_withNest, State.settledNest_withNest] at hm'
  refine ⟨more ++ more', (hm'.at_state ?_).congr fun id => by simp, fun id hid => ?_,
    hr.spares (.drainTest _ _)⟩
  · rfl
  · exact (List.mem_append.1 hid).elim (fun h => .inl (hmore id h)) (hmore' id)

/-- An accepted service command that owes EMPTY marks at most. -/
theorem service_endsEmptied {s : State} {tag : Tag} {q : Request} {answers : List MemAnswer} {kind : ServiceKind}
    {x : kind.Plan} (hp : Posted s .service tag q)
    (hrow : postRow .service q.data answers = some (kind.row answers)) (ha : Answered answers 5)
    (hj : ∀ r : Run, r.st = s.waited answers 3 → kind.judge (word1 s answers q) r = (.pass x, r))
    {u : State} {ids : List ImageId} {marks : List (Nat × BitVec 8)}
    (h : (kind.effect x (Run.start (serviced s answers q) (answers.drop 5))).Made u ids)
    (hr : (Run.start (serviced s answers q) (answers.drop 5)).Removes
      (kind.effect x (Run.start (serviced s answers q) (answers.drop 5))) marks)
    (heng : u.engine = s.engine) (hcur : u.cursors = s.cursors) (hring : u.rings = s.rings) :
    ∃ t, exec (kind.row answers) s = .next t ∧
      Ends (emptiedAll { u with cursors := advanced s .service } (answers.drop 5)
        (marks.map fun p => (s.stackerRing.slotAddr p.1, presentWord0 0 p.2))) t tag .done (ids ++ [.status]) := by
  obtain ⟨p, he⟩ := serving_of_held hp.inHand
  have hm := h.advance hp hcur hring
  have hd := hr.spares (.advance _ .service)
  refine ⟨_, service_accepted hp hrow ha hj, ?_⟩
  have hends := hm.endsEmptied (p := p) (heng.trans he) hd.lanes hd.events (by simp) tag .done
  have hmarks : ((kind.effect x (Run.start (serviced s answers q) (answers.drop 5))).advance .service).marks
      ({ u with cursors := advanced s .service } : State).stackerRing =
        marks.map fun p => (s.stackerRing.slotAddr p.1, presentWord0 0 p.2) := by
    have hstack : ({ u with cursors := advanced s .service } : State).stackerRing = s.stackerRing := by
      rw [State.stackerRing, State.stackerRing, ← hring]
    rw [Run.marks, hd.empties, hstack]
    rfl
  rw [hmarks, hd.answers] at hends
  exact hends

/-- A nest settled once an entry is removed, and the cursors then. -/
theorem settledNest_cursors (w : State) (i : Fin 32) (n : Nest) (c : NestContext) (k : Cursors) :
    ({ (without w i).settledNest n c with cursors := k } : State) =
      { State.withNest (without { w with cursors := k } i) n c with
        flags := w.flags ||| nestFlags n (w.nest n).state c.state } := by
  cases n <;> rfl

/-- Settles O32. -/
theorem forgetAndCupClearRelease : Obligations.ForgetAndCupClearRelease := by
  unfold Obligations.ForgetAndCupClearRelease
  intro s tag q answers hp w1 a refused
  obtain ⟨p, he⟩ := serving_of_held hp.inHand
  have hv : s.Beside (s.waited answers 3) := s.waited_beside answers 3
  have hw := serviced_beside s answers q
  have hm := serviced_made hp.guarded he answers q (answers.drop 5)
  have hf := Run.Free.start (serviced s answers q) (answers.drop 5)
  refine ⟨fun c hrow hk ha => ⟨fun h => ?_, fun i hi hfly => ?_⟩, fun i e cause hrow ha hi hentry hexp => ?_,
    fun c hrow hk ha => ⟨fun h => ?_, fun k hc hs => ?_⟩, fun k hrow ha hc => ⟨fun hs => ?_, fun hs => ?_⟩⟩
  · exact service_refused hp hk hrow ha fun r hr => judging_eq hr (judgeForget_range _ h)
  · refine service_refused hp hk hrow ha fun r hr => judging_eq hr ((judgeForget_named hi).trans (if_neg ?_))
    rw [hv.entries he, Option.any_eq_true]
    rintro ⟨e, hentry, hnot⟩
    rw [hfly e hentry] at hnot
    cases hnot
  · have hpass : ((s.waited answers 3).entries.get i).any (fun e => !e.inFlight) = true := by
      rw [hv.entries he, hentry]
      simp [Entry.inFlight, hexp]
    have hwe : (serviced s answers q).entries.get i = some e := by rw [hw.entries he]; exact hentry
    obtain ⟨more, hm, hmore, hr⟩ := hm.forget hwe
    have hentries : (without (serviced s answers q) i).entries = (without s i).entries := by
      show (serviced s answers q).entries.set i none = s.entries.set i none
      rw [hw.entries he]
    intro n v c u
    obtain ⟨t, hx, hends⟩ := service_endsEmptied (kind := .forget) hp hrow ha
      (fun r hr => judging_eq hr ((judgeForget_named hi).trans (if_pos hpass))) hm hr
      (by simp [State.settledNest, without, hw.engine he, he]) (by simp [State.settledNest, without, hw.cursors he])
      (by simp [State.settledNest, without, hw.rings he])
    have hshape : ({ (without (serviced s answers q) i).settledNest n
        (drained ((without (serviced s answers q) i).nestNamed n) (unclaimed (serviced s answers q) i e)) with
          cursors := advanced s .service } : State) = u := by
      have hc : drained ((without (serviced s answers q) i).nestNamed n) (unclaimed (serviced s answers q) i e) = c := by
        rw [State.nestNamed_congr hentries, unclaimed, State.claimOf_congr hentries, hw.nest_claim he]
        rfl
      rw [hc, settledNest_cursors, hw.nest_state he]
      rfl
    rw [hshape] at hends
    refine ⟨t, hx, ended_of_ends hends ?_ (by simp) fun id hid => ?_⟩
    · unfold Entry.mark emptyMark
      split <;> rfl
    · simp only [List.nil_append, List.cons_append, List.mem_cons, List.mem_append, List.not_mem_nil,
        or_false] at hid ⊢
      rcases hid with hid | hid | hid
      · exact .inl hid
      · exact .inr (hmore id hid)
      · exact .inr (.inr hid)
  · exact service_refused hp hk hrow ha fun r hr => judging_eq hr (judgeCupClear_range _ h)
  · refine service_refused hp hk hrow ha fun r hr => judging_eq hr (judgeCupClear_refused hc ?_)
    rw [hv.cups he]
    exact hs
  · have hpass := judgeCupClear_pass (w1 := w1) (s := s.waited answers 3) hc (by rw [hv.cups he]; exact .inl hs)
    have hm := hm.setCup k ⟨.empty, none⟩
    have hne : (serviced s answers q).cups.get k ≠ ⟨.empty, none⟩ := by
      rw [hw.cups he]
      intro h
      rw [h] at hs
      cases hs
    rw [if_neg hne] at hm
    have heffect : ServiceKind.effect .cupClear k (Run.start (serviced s answers q) (answers.drop 5)) =
        (Run.start (serviced s answers q) (answers.drop 5)).setCup k ⟨.empty, none⟩ :=
      if_pos (by rw [show (Run.start (serviced s answers q) (answers.drop 5)).st = serviced s answers q from rfl,
        hw.cups he]; exact hs)
    rw [← heffect] at hm
    obtain ⟨t, hx, hends⟩ := service_ends (kind := .cupClear) hp hrow ha (fun r hr => judging_eq hr hpass) hm
      (heffect ▸ hf.setCup _ _) rfl rfl
    exact ⟨t, hx, ends_at hends (by rw [hw.cups he]; rfl)⟩
  · have hpass := judgeCupClear_pass (w1 := w1) (s := s.waited answers 3) hc (by rw [hv.cups he]; exact .inr hs)
    have heffect : ServiceKind.effect .cupClear k (Run.start (serviced s answers q) (answers.drop 5)) =
        Run.start (serviced s answers q) (answers.drop 5) := by
      refine if_neg ?_
      rw [show (Run.start (serviced s answers q) (answers.drop 5)).st = serviced s answers q from rfl,
        hw.cups he, hs]
      exact nofun
    exact service_ends (kind := .cupClear) hp hrow ha (fun r hr => judging_eq hr hpass) (by rw [heffect]; exact hm)
      (by rw [heffect]; exact hf) rfl rfl

end Sys2Proof.Machine
end

section
/-! PROOF. The lanes of a request: what one lane's announcement and the re-evaluation of all make of the state, with
the flags and the images (R144, R146). -/

namespace Sys2Proof.Machine

open Sys2Proof.Claims

/-! ### Flags -/

/-- The flags in the order of their numbers (R177). -/
def Flag.table : List Flag :=
  [.capture .proc, .capture .router, .capture .picker, .capture .stacker, .hard .proc, .hard .router, .hard .picker,
    .hard .stacker, .guard, .memory, .loadDone, .nestReady .a, .nestReady .b, .nestStopped .a, .nestStopped .b,
    .nestComplete .a, .nestComplete .b, .nestSynced .a, .nestSynced .b, .laneStopped, .laneExhausted,
    .stationChange, .relocated, .uncertain]

theorem Flag.table_number (f : Flag) : Flag.table[f.number]? = some f := by
  cases f with
  | capture src => cases src <;> rfl
  | hard src => cases src <;> rfl
  | nestReady n => cases n <;> rfl
  | nestStopped n => cases n <;> rfl
  | nestComplete n => cases n <;> rfl
  | nestSynced n => cases n <;> rfl
  | guard => rfl
  | memory => rfl
  | loadDone => rfl
  | laneStopped => rfl
  | laneExhausted => rfl
  | stationChange => rfl
  | relocated => rfl
  | uncertain => rfl

theorem Flag.number_inj {f g : Flag} : f.number = g.number ↔ f = g :=
  ⟨fun h => Option.some.inj (by rw [← f.table_number, ← g.table_number, h]), fun h => by rw [h]⟩

/-- Which flags are set once one is raised. -/
theorem State.flag_raised {s t : State} {f : Flag} (h : t.flags = s.flags ||| f.bits) (g : Flag) :
    t.flag g = true ↔ s.flag g = true ∨ g = f := by
  rw [State.flag, State.flag, h, State.flag_or, Bool.or_eq_true, decide_eq_true_eq, Flag.number_inj]
  exact or_congr_right eq_comm

theorem State.flag_congr {s t : State} (h : t.flags = s.flags) (g : Flag) : t.flag g = s.flag g := by
  rw [State.flag, State.flag, h]

/-- Two sets of flags with the same flags. -/
theorem flags_ext {s t : State} (h : ∀ f : Flag, t.flag f = s.flag f) : t.flags = s.flags := by
  refine BitVec.eq_of_getLsbD_eq fun i hi => ?_
  have hall : ∀ k : Fin 24, ∃ f ∈ Flag.table, f.number = k.val := by decide
  obtain ⟨f, -, rfl⟩ := hall ⟨i, hi⟩
  exact h f

/-! ### One lane -/

theorem Lane.announces_iff (l : Lane) :
    l.announces = true ↔ l.stop ≠ none ∧ (noticed l).stop = none ∧ (noticed l).state = .stopped := by
  unfold Lane.announces noticed
  cases hq : l.stop with
  | none => simp
  | some q =>
    by_cases hs : l.state = .stopped
    · by_cases hn : q.notice = .atStop ∨ l.pending = 0 <;> simp [hs, hn, hq]
    · simp [hs, hq]

/-- A lane is replaced, its notice looked at (R146). -/
theorem Run.Made.announce {r : Run} {u : State} {ids : List ImageId} (h : r.Made u ids) (i : Fin 16) (l : Lane) :
    (r.announce i l).Made { u with
        lanes := u.lanes.set i (noticed l)
        flags := if l.announces = true then u.flags ||| Flag.laneStopped.bits else u.flags }
      ((ids ++ if u.lanes.get i = noticed l then [] else [.lane i]) ++
        if l.announces = true ∧ u.flag .laneStopped = false then [.status] else []) := by
  have hn : noticed l = if l.announces = true then { l with stop := none } else l := by
    unfold noticed Lane.announces
    cases l.stop <;> simp
  unfold Run.announce
  rw [hn]
  by_cases ha : l.announces = true
  · simp only [ha, if_true, true_and]
    refine ((h.setLane i { l with stop := none }).raise .laneStopped).congr fun id => ?_
    have hf : ({ u with lanes := u.lanes.set i { l with stop := none } } : State).flag .laneStopped =
        u.flag .laneStopped := rfl
    rw [hf]
    cases u.flag .laneStopped <;> simp
  · simp only [ha, Bool.false_eq_true, if_false, false_and, List.append_nil]
    exact h.setLane i l

theorem Run.Spares.announce (r : Run) (i : Fin 16) (l : Lane) : r.Spares (r.announce i l) := by
  unfold Run.announce
  split
  · exact (Spares.setLane r i _).trans (.raise _ _)
  · exact .setLane r i l

/-- The lanes of a run have changed, with their flags and images (R144, R146). -/
structure Relaned (u z : State) (more : List ImageId) : Prop where
  shape  : z = { u with lanes := z.lanes, flags := z.flags }
  flags  : LaneFlags u z u.lanes.get
  others : FlagsBut u z [.laneStopped, .laneExhausted]
  must   : ∀ k, z.lanes.get k ≠ u.lanes.get k → .lane k ∈ more
  may    : ∀ id ∈ more, id = .status ∨ ∃ k, id = .lane k ∧ z.lanes.get k ≠ u.lanes.get k
  status : (∃ f, z.flag f ≠ u.flag f) → .status ∈ more

/-- A lane announces its stop: it has left STOPPED its request (R146). -/
def Lane.Announces (old new : Lane) : Prop := old.stop ≠ none ∧ new.stop = none ∧ new.state = .stopped

/-- A lane enters EXHAUSTED (R144). -/
def Lane.Exhausts (old new : Lane) : Prop := old.state ≠ .exhausted ∧ new.state = .exhausted

theorem Lane.not_announces (l : Lane) : ¬l.Announces l := fun ⟨h, h', _⟩ => h h'

theorem Lane.not_exhausts (l : Lane) : ¬l.Exhausts l := fun ⟨h, h'⟩ => h h'

theorem laneFlags_iff {u t : State} {old : Fin 16 → Lane} :
    LaneFlags u t old ↔
      (t.flag .laneStopped = true ↔ u.flag .laneStopped = true ∨ ∃ k, (old k).Announces (t.lanes.get k)) ∧
        (t.flag .laneExhausted = true ↔ u.flag .laneExhausted = true ∨ ∃ k, (old k).Exhausts (t.lanes.get k)) :=
  ⟨fun h => ⟨h.stopped, h.exhausted⟩, fun h => ⟨h.1, h.2⟩⟩

/-- One lane replaced: what is so of some lane is so of that one. -/
theorem exists_set_iff {t : Table 16 Lane} {i : Fin 16} {l : Lane} {P : Lane → Lane → Prop} (hP : ∀ l, ¬P l l) :
    (∃ k, P (t.get k) ((t.set i l).get k)) ↔ P (t.get i) l := by
  constructor
  · rintro ⟨k, hk⟩
    rw [Table.get_set] at hk
    split at hk
    · next h => rw [h] at hk; exact hk
    · exact absurd hk (hP _)
  · exact fun h => ⟨i, by rw [Table.get_set_self]; exact h⟩

theorem Relaned.refl (u : State) : Relaned u u [] where
  shape := rfl
  flags := laneFlags_iff.2 ⟨⟨.inl, fun h => h.elim id fun ⟨k, hk⟩ => absurd hk (Lane.not_announces _)⟩,
    ⟨.inl, fun h => h.elim id fun ⟨k, hk⟩ => absurd hk (Lane.not_exhausts _)⟩⟩
  others := fun _ _ => rfl
  must := fun k h => absurd rfl h
  may := fun id h => by cases h
  status := fun ⟨f, h⟩ => absurd rfl h

/-- Two changes of lanes, no lane changed twice. -/
theorem Relaned.trans {u x z : State} {m m' : List ImageId} (h : Relaned u x m) (k : Relaned x z m')
    (apart : ∀ i, x.lanes.get i = u.lanes.get i ∨ z.lanes.get i = x.lanes.get i) : Relaned u z (m ++ m') := by
  have both {P : Lane → Lane → Prop} (hP : ∀ l, ¬P l l) :
      ((∃ i, P (u.lanes.get i) (x.lanes.get i)) ∨ ∃ i, P (x.lanes.get i) (z.lanes.get i)) ↔
        ∃ i, P (u.lanes.get i) (z.lanes.get i) := by
    constructor
    · rintro (⟨i, hi⟩ | ⟨i, hi⟩)
      · rcases apart i with e | e
        · rw [e] at hi; exact absurd hi (hP _)
        · exact ⟨i, e ▸ hi⟩
      · rcases apart i with e | e
        · exact ⟨i, e ▸ hi⟩
        · rw [e] at hi; exact absurd hi (hP _)
    · rintro ⟨i, hi⟩
      rcases apart i with e | e
      · exact .inr ⟨i, e.symm ▸ hi⟩
      · exact .inl ⟨i, e ▸ hi⟩
  obtain ⟨hs, he⟩ := laneFlags_iff.1 h.flags
  obtain ⟨ks, ke⟩ := laneFlags_iff.1 k.flags
  refine ⟨?_, laneFlags_iff.2 ⟨?_, ?_⟩, fun f hf => (k.others f hf).trans (h.others f hf), fun i hi => ?_,
    fun id hid => ?_, fun ⟨f, hf⟩ => ?_⟩
  · rw [k.shape, h.shape]
  · rw [ks, hs, or_assoc, both Lane.not_announces]
  · rw [ke, he, or_assoc, both Lane.not_exhausts]
  · rcases apart i with e | e
    · exact List.mem_append.2 (.inr (k.must i (e ▸ hi)))
    · exact List.mem_append.2 (.inl (h.must i (e ▸ hi)))
  · rcases List.mem_append.1 hid with hid | hid
    · refine (h.may id hid).imp_right fun ⟨i, hi, hne⟩ => ⟨i, hi, ?_⟩
      rcases apart i with e | e
      · exact absurd e hne
      · exact e ▸ hne
    · refine (k.may id hid).imp_right fun ⟨i, hi, hne⟩ => ⟨i, hi, ?_⟩
      rcases apart i with e | e
      · exact e ▸ hne
      · exact absurd e hne
  · by_cases hx : x.flag f = u.flag f
    · exact List.mem_append.2 (.inr (k.status ⟨f, hx ▸ hf⟩))
    · exact List.mem_append.2 (.inl (h.status ⟨f, hx⟩))

/-! ### The re-evaluation of one lane -/

theorem State.judgeLane_stop (s : State) (l : Lane) : (s.judgeLane l).1.stop = l.stop := by
  unfold State.judgeLane
  split
  · split
    · rfl
    · split <;> rfl
  · split <;> rfl
  · rfl
  · rfl
  · rfl

/-- A lane announced: its flag follows its notice (R146). -/
theorem relaned_announce (u : State) (i : Fin 16) {l : Lane} (hq : l.stop = (u.lanes.get i).stop)
    (hx : l.state = .exhausted → (u.lanes.get i).state = .exhausted) :
    Relaned u { u with
        lanes := u.lanes.set i (noticed l)
        flags := if l.announces = true then u.flags ||| Flag.laneStopped.bits else u.flags }
      ((if u.lanes.get i = noticed l then [] else [.lane i]) ++
        if l.announces = true ∧ u.flag .laneStopped = false then [.status] else []) := by
  have ha : l.announces = true ↔ (u.lanes.get i).Announces (noticed l) := by
    rw [l.announces_iff, hq]; rfl
  have hflag (f : Flag) : ({ u with
      lanes := u.lanes.set i (noticed l)
      flags := if l.announces = true then u.flags ||| Flag.laneStopped.bits else u.flags } : State).flag f = true ↔
        u.flag f = true ∨ l.announces = true ∧ f = .laneStopped := by
    by_cases h : l.announces = true
    · rw [State.flag_raised (s := u) (f := .laneStopped) (by simp [h])]
      simp [h]
    · rw [State.flag_congr (s := u) (by simp [h])]
      simp [h]
  refine ⟨rfl, laneFlags_iff.2 ⟨?_, ?_⟩, fun f hf => ?_, fun k hk => ?_, fun id hid => ?_, fun ⟨f, hf⟩ => ?_⟩
  · rw [hflag, exists_set_iff Lane.not_announces, ha]
    simp
  · rw [hflag, exists_set_iff Lane.not_exhausts]
    have hnot : ¬(u.lanes.get i).Exhausts (noticed l) := fun ⟨h, h'⟩ => h (hx ((noticed_state l).symm.trans h'))
    simp [hnot]
  · rw [Bool.eq_iff_iff, hflag]
    simp only [List.mem_cons, List.not_mem_nil, or_false, not_or] at hf
    simp [hf.1]
  · simp only [Table.get_set] at hk
    split at hk
    · next h =>
      subst h
      rw [if_neg fun e => hk e.symm]
      simp
    · exact absurd rfl hk
  · simp only [List.mem_append, List.mem_ite_nil_left, List.mem_ite_nil_right, List.mem_singleton] at hid
    exact hid.elim (fun h => .inr ⟨i, h.2, by rw [Table.get_set_self]; exact fun e => h.1 e.symm⟩) fun h => .inl h.2
  · have hn : l.announces = true ∧ u.flag .laneStopped = false := by
      rw [Ne, Bool.eq_iff_iff, hflag] at hf
      refine ⟨?_, ?_⟩
      · by_contra hn
        exact hf (by simp [hn])
      · by_contra hu
        refine hf ⟨fun h => h.elim (fun h => h) fun ⟨_, h⟩ => ?_, .inl⟩
        rw [h]
        simpa using hu
    simp [hn]

/-- A lane exhausted: the flag follows (R144). -/
theorem relaned_exhaust (u : State) (i : Fin 16) {l : Lane} (hx : (u.lanes.get i).Exhausts l) :
    Relaned u { u with lanes := u.lanes.set i l, flags := u.flags ||| Flag.laneExhausted.bits }
      ([.lane i] ++ if u.flag .laneExhausted = true then [] else [.status]) := by
  have hflag (f : Flag) : ({ u with
      lanes := u.lanes.set i l, flags := u.flags ||| Flag.laneExhausted.bits } : State).flag f = true ↔
        u.flag f = true ∨ f = .laneExhausted := State.flag_raised rfl f
  refine ⟨rfl, laneFlags_iff.2 ⟨?_, ?_⟩, fun f hf => ?_, fun k hk => ?_, fun id hid => ?_, fun ⟨f, hf⟩ => ?_⟩
  · rw [hflag, exists_set_iff Lane.not_announces]
    simp [Lane.Announces, hx.2]
  · rw [hflag, exists_set_iff Lane.not_exhausts]
    simp [hx]
  · rw [Bool.eq_iff_iff, hflag]
    simp only [List.mem_cons, List.not_mem_nil, or_false, not_or] at hf
    simp [hf.2]
  · simp only [Table.get_set] at hk
    split at hk
    · next h => simp [h]
    · exact absurd rfl hk
  · simp only [List.mem_append, List.mem_ite_nil_left, List.mem_singleton] at hid
    refine hid.elim (fun h => .inr ⟨i, h, fun e => hx.1 ?_⟩) fun h => .inl h.2
    rw [Table.get_set_self] at e
    rw [← e]
    exact hx.2
  · have hn : u.flag .laneExhausted = false := by
      by_contra hu
      rw [Ne, Bool.eq_iff_iff, hflag] at hf
      refine hf ⟨fun h => h.elim (fun h => h) fun h => ?_, .inl⟩
      rw [h]
      simpa using hu
    simp [hn]

theorem Run.Made.reevaluateLane {r : Run} {u : State} {ids : List ImageId} (h : r.Made u ids) (i : Fin 16) :
    ∃ z more, (r.reevaluateLane i).Made z (ids ++ more) ∧ Relaned u z more ∧
      z.lanes = u.lanes.set i (reevaluated u (u.lanes.get i)) := by
  unfold Run.reevaluateLane
  rw [h.shape]
  rcases Run.judgeLane_cases u (u.lanes.get i) with ⟨hj, he⟩ | ⟨hj, hn, hx⟩
  · simp only [if_pos hj]
    exact ⟨u, [], h.congr (by simp), .refl u, by rw [he, Table.set_get_self]⟩
  · simp only [if_neg fun e => hj (congrArg Lane.state e)]
    by_cases hex : (u.judgeLane (u.lanes.get i)).2 = true
    · have hstate := hx.1 hex
      have hexh : (u.lanes.get i).Exhausts (u.judgeLane (u.lanes.get i)).1 := ⟨fun e => hj (hstate.trans e.symm), hstate⟩
      have hne : u.lanes.get i ≠ (u.judgeLane (u.lanes.get i)).1 := fun e => hj (congrArg Lane.state e.symm)
      have hm := (h.setLane i (u.judgeLane (u.lanes.get i)).1).raise .laneExhausted
      rw [if_neg hne] at hm
      rw [if_pos hex]
      refine ⟨_, _, hm.congr fun id => by rw [List.append_assoc]; rfl, relaned_exhaust u i hexh, ?_⟩
      rw [← hn, noticed_of_running (by simp [hstate])]
    · rw [if_neg hex]
      refine ⟨_, _, (h.announce i _).congr fun id => by rw [List.append_assoc],
        relaned_announce u i (u.judgeLane_stop _) fun e => absurd (hx.2 e) hex, by rw [← hn]⟩

theorem Run.Spares.reevaluateLane (r : Run) (i : Fin 16) : r.Spares (r.reevaluateLane i) := by
  unfold Run.reevaluateLane
  simp only
  split
  · exact .refl r
  · split
    · exact (Spares.setLane r i _).trans (.raise _ _)
    · exact .announce r i _

/-! ### The re-evaluation of all lanes -/

theorem Relaned.stations {u z : State} {more : List ImageId} (h : Relaned u z more) : z.stations = u.stations := by
  rw [h.shape]

theorem Run.Made.reevaluateAll {r : Run} {u : State} {ids : List ImageId} (h : r.Made u ids) (l : List (Fin 16))
    (hl : l.Nodup) :
    ∃ z more, (l.foldl Run.reevaluateLane r).Made z (ids ++ more) ∧ Relaned u z more ∧
      ∀ k, z.lanes.get k = if k ∈ l then reevaluated u (u.lanes.get k) else u.lanes.get k := by
  induction l generalizing r u ids with
  | nil => exact ⟨u, [], h.congr (by simp), .refl u, by simp⟩
  | cons i l ih =>
    obtain ⟨hi, hl⟩ := List.nodup_cons.1 hl
    obtain ⟨x, m, hm, hx, hlanes⟩ := h.reevaluateLane i
    obtain ⟨z, m', hm', hz, hget⟩ := ih hm hl
    have hxget (k : Fin 16) (hk : k ≠ i) : x.lanes.get k = u.lanes.get k := by rw [hlanes, Table.get_set_ne _ _ hk]
    refine ⟨z, m ++ m', hm'.congr fun id => by rw [List.append_assoc], hx.trans hz fun k => ?_, fun k => ?_⟩
    · by_cases hk : k = i
      · subst hk
        exact .inr (by rw [hget, if_neg hi])
      · exact .inl (hxget k hk)
    · rw [hget]
      by_cases hk : k = i
      · subst hk
        rw [if_neg hi, if_pos (by simp), hlanes, Table.get_set_self]
      · rw [hxget k hk, reevaluated_congr hx.stations]
        simp [hk]

/-- The lanes settle at the end of a request that calls for it (R144, R146). -/
theorem Run.Made.settleLanes {r : Run} {u : State} {ids : List ImageId} (h : r.Made u ids) (hl : r.lanes = true) :
    ∃ z more, r.settleLanes.Made z (ids ++ more) ∧ Relaned u z more ∧
      (∀ k, z.lanes.get k = reevaluated u (u.lanes.get k)) ∧
      r.settleLanes.lanes = false ∧ r.SameRest r.settleLanes := by
  obtain ⟨z, more, hm, hz, hget⟩ := h.reevaluateAll (List.finRange 16) (List.nodup_finRange 16)
  have hspare : r.Spares r.reevaluate := .foldl Run.Spares.reevaluateLane (List.finRange 16) r
  have hm : r.reevaluate.Made z (ids ++ more) := by unfold Run.reevaluate; exact hm
  unfold Run.settleLanes
  rw [if_pos hl]
  generalize r.reevaluate = y at hm hspare
  exact ⟨z, more, hm.rest rfl rfl, hz, fun k => by rw [hget, if_pos (List.mem_finRange k)], rfl,
    hspare.rest.answers, hspare.rest.empties, hspare.rest.events⟩

theorem Run.conclude_settleLanes {r : Run} : r.conclude = r.settleLanes.conclude := by
  have hl : r.settleLanes.lanes = false := by
    unfold Run.settleLanes
    split
    · rfl
    · next h => simpa using h
  have : r.settleLanes.settleLanes = r.settleLanes := by
    generalize r.settleLanes = y at hl
    simp [Run.settleLanes, hl]
  rw [Run.conclude, Run.conclude, this]

/-- A request that owes the settling of the lanes, and nothing else, ends with its images queued. -/
theorem Run.Made.endsSettled {r : Run} {u : State} {ids : List ImageId} (h : r.Made u ids) (hl : r.lanes = true)
    (he : r.empties = []) (hv : r.events = []) (hn : ids ≠ []) (tag : Tag) (a : Ack) :
    ∃ z more, Ends z (r.conclude.finishHeld tag a) tag a (ids ++ more) ∧ Relaned u z more ∧
      ∀ k, z.lanes.get k = reevaluated u (u.lanes.get k) := by
  obtain ⟨z, more, hm, hz, hget, hlanes, hrest⟩ := h.settleLanes hl
  rw [Run.conclude_settleLanes]
  exact ⟨z, more, hm.ends ⟨hlanes, hrest.empties.trans he, hrest.events.trans hv⟩ (by simp [hn]) tag a, hz, hget⟩

theorem Relaned.resettled {u z : State} {more : List ImageId} (h : Relaned u z more)
    (hget : ∀ k, z.lanes.get k = reevaluated u (u.lanes.get k)) : Resettled u z :=
  ⟨h.shape, fun k => (hget k).trans (reevaluated_congr h.stations _).symm, h.flags, h.others⟩

/-! ### Lanes that are settled -/

theorem State.reevaluated_of_settles {s : State} {l : Lane} (h : s.settles l) : reevaluated s l = l := by
  obtain ⟨hopen, hex⟩ := h
  unfold reevaluated
  cases hs : l.state with
  | isOpen =>
    obtain ⟨hsome, hcur⟩ := hopen hs
    have hstop : ¬(l.stopsAtStationEnd = true ∧ s.currentUsable l = false) := fun ⟨h, h'⟩ => by
      rw [hcur h] at h'; cases h'
    simp only [if_neg hstop, if_pos hsome]
  | exhausted =>
    have hnot : ¬s.someUsable l = true := by rw [(hex hs).1]; exact nofun
    simp only [if_neg hnot]
  | closed => rfl
  | paused => rfl
  | stopped => rfl

/-- A re-evaluation that finds every lane settled changes nothing. -/
theorem Relaned.settled {u z : State} {more : List ImageId} (h : Relaned u z more)
    (hget : ∀ k, z.lanes.get k = reevaluated u (u.lanes.get k)) (hs : LanesSettled u) : z = u := by
  have hlanes : z.lanes = u.lanes := Table.ext_get fun k => by rw [hget, State.reevaluated_of_settles (hs k)]
  have hflag (f : Flag) : z.flag f = u.flag f := by
    by_cases hf : f ∈ [Flag.laneStopped, .laneExhausted]
    · obtain ⟨hstop, hex⟩ := laneFlags_iff.1 h.flags
      rw [hlanes] at hstop hex
      simp only [List.mem_cons, List.not_mem_nil, or_false] at hf
      rw [Bool.eq_iff_iff]
      rcases hf with rfl | rfl
      · rw [hstop]
        exact ⟨fun h => h.elim id fun ⟨k, hk⟩ => absurd hk (Lane.not_announces _), .inl⟩
      · rw [hex]
        exact ⟨fun h => h.elim id fun ⟨k, hk⟩ => absurd hk (Lane.not_exhausts _), .inl⟩
    · exact h.others f hf
  rw [h.shape, hlanes, flags_ext hflag]

end Sys2Proof.Machine
end

section
/-! PROOF. The service commands that act on a lane or a station (R138, R144, R146, R150 to R154). -/

namespace Sys2Proof.Machine

open Sys2Proof.Claims

/-! ### The slots of a station (R138) -/

theorem slotsState_eq (slots : List SlotState) : slotsState slots = stateBySlots slots := by
  unfold slotsState stateBySlots
  simp

theorem Station.slots_of_magazine {st : Station} {m : Magazine} (h : st.magazine = some m) : st.slots = m.slots := by
  simp [Station.slots, h]

theorem Station.withSlots_eq {st : Station} {m : Magazine} (h : st.magazine = some m) (slots : List SlotState) :
    st.withSlots slots = reslotted st m slots := by
  unfold Station.withSlots reslotted
  rw [h, slotsState_eq]
  cases st.state <;> rfl

/-- A station replaced, with STATION_CHANGE when it enters FULL (R138). -/
def State.restationed (u : State) (i : Fin 8) (new : Station) : State :=
  { u with
    stations := u.stations.set i new
    flags := if new.state = .full ∧ (u.stations.get i).state ≠ .full then u.flags ||| Flag.stationChange.bits
      else u.flags }

theorem State.restationed_flag (u : State) (i : Fin 8) (new : Station) (f : Flag) :
    (u.restationed i new).flag f = true ↔
      u.flag f = true ∨ ((new.state = .full ∧ (u.stations.get i).state ≠ .full) ∧ f = .stationChange) := by
  by_cases h : new.state = .full ∧ (u.stations.get i).state ≠ .full
  · rw [State.flag_raised (s := u) (f := .stationChange) (by rw [State.restationed, if_pos h])]
    simp [h]
  · rw [State.flag_congr (s := u) (by rw [State.restationed, if_neg h])]
    simp [h]

theorem Run.Made.setSlots {r : Run} {u : State} {ids : List ImageId} (h : r.Made u ids) (i : Fin 8)
    (f : List SlotState → List SlotState) {new : Station}
    (hnew : (u.stations.get i).withSlots (f (u.stations.get i).slots) = new) :
    ∃ more, (r.setSlots i f).Made (u.restationed i new) (ids ++ more) ∧
      (∀ id ∈ more, id = .station i ∨ id = .status) ∧ (u.stations.get i ≠ new → .station i ∈ more) ∧
      (r.setSlots i f).lanes = if u.stations.get i = new then r.lanes else true := by
  have hm := h.setStation i new
  have hlanes : (r.setStation i new).lanes = if u.stations.get i = new then r.lanes else true := by
    unfold Run.setStation
    rw [h.shape]
    split <;> rfl
  unfold Run.setSlots State.restationed
  simp only [h.shape, hnew]
  by_cases hc : new.state = .full ∧ (u.stations.get i).state ≠ .full
  · rw [if_pos (by simp [hc.1, hc.2]), if_pos hc]
    refine ⟨_, (hm.raise .stationChange).congr fun id => by rw [List.append_assoc], fun id hid => ?_, fun hne => ?_,
      by rw [Run.raise_lanes, hlanes]⟩
    · simp only [List.mem_append, List.mem_ite_nil_left, List.mem_singleton] at hid
      exact hid.imp And.right And.right
    · rw [if_neg hne]
      simp
  · rw [if_neg (by simpa using hc), if_neg hc]
    refine ⟨_, hm, fun id hid => ?_, fun hne => ?_, hlanes⟩
    · simp only [List.mem_ite_nil_left, List.mem_singleton] at hid
      exact .inl hid.2
    · rw [if_neg hne]
      simp

theorem Run.setSlots_rest (r : Run) (i : Fin 8) (f : List SlotState → List SlotState) :
    r.SameRest (r.setSlots i f) := by
  unfold Run.setSlots
  simp only
  split
  · exact (r.setStation_rest i _).trans (Run.raise_rest _ _)
  · exact r.setStation_rest i _

/-! ### An accepted command that re-evaluates the lanes -/

section Accepted

variable {s : State} {tag : Tag} {q : Request} {answers : List MemAnswer} {kind : ServiceKind} {x : kind.Plan}
  (hp : Posted s .service tag q) (hrow : postRow .service q.data answers = some (kind.row answers))
  (ha : Answered answers 5)
  (hj : ∀ r : Run, r.st = s.waited answers 3 → kind.judge (word1 s answers q) r = (.pass x, r))
  {u : State} {ids : List ImageId}
  (h : (kind.effect x (Run.start (serviced s answers q) (answers.drop 5))).Made u ids)
  (hl : (kind.effect x (Run.start (serviced s answers q) (answers.drop 5))).lanes = true)
  (hr : (Run.start (serviced s answers q) (answers.drop 5)).SameRest
    (kind.effect x (Run.start (serviced s answers q) (answers.drop 5))))
  (hc : u.cursors = (serviced s answers q).cursors) (hring : u.rings = (serviced s answers q).rings)
include hp hrow ha hj h hl hr hc hring

/-- An accepted service command after which the lanes are re-evaluated. -/
theorem service_endsSettled :
    ∃ t z more, exec (kind.row answers) s = .next t ∧ Ends z t tag .done ((ids ++ [.status]) ++ more) ∧
      Relaned { u with cursors := advanced s .service } z more ∧
      ∀ k, z.lanes.get k = reevaluated u (u.lanes.get k) := by
  obtain ⟨p, he⟩ := serving_of_held hp.inHand
  have hb := serviced_beside s answers q
  have hm := h.advance hp (hc.trans (hb.cursors he)) (hring.trans (hb.rings he))
  have hs := Run.Spares.advance (kind.effect x (Run.start (serviced s answers q) (answers.drop 5))) .service
  obtain ⟨z, more, hends, hz, hget⟩ := hm.endsSettled (hs.lanes.trans hl) (hs.rest.empties.trans hr.empties)
    (hs.rest.events.trans hr.events) (by simp) tag .done
  exact ⟨_, z, more, service_accepted hp hrow ha hj, hends, hz, fun k => (hget k).trans (reevaluated_congr rfl _)⟩

/-- An accepted service command that leaves the lanes settled. -/
theorem service_endsLanesSettled (hset : LanesSettled u) :
    ∃ t, exec (kind.row answers) s = .next t ∧
      Ends { u with cursors := advanced s .service } t tag .done (ids ++ [.status]) := by
  obtain ⟨t, z, more, hx, hends, hz, hget⟩ := service_endsSettled hp hrow ha hj h hl hr hc hring
  have hzu := hz.settled (fun k => (hget k).trans (reevaluated_congr rfl _)) (fun k => hset k)
  subst hzu
  refine ⟨t, hx, ?_⟩
  obtain ⟨waits, images, ht, hwaits, himages⟩ := hends
  have hmore (id : ImageId) : id ∈ (ids ++ [.status]) ++ more ↔ id ∈ ids ++ [.status] := by
    rw [List.mem_append]
    refine ⟨fun h => h.elim (fun h => h) fun h => ?_, .inl⟩
    rcases hz.may id h with rfl | ⟨k, -, hk⟩
    · simp
    · exact absurd rfl hk
  exact ⟨waits, images, ht, fun id => (hwaits id).trans (hmore id),
    fun id => (himages id).trans (or_congr_right (hmore id))⟩

end Accepted

/-! ### LANE_STOP and LANE_RESUME -/

theorem Run.Made.stopLane {r : Run} {u : State} {ids : List ImageId} (h : r.Made u ids) (i : Fin 16)
    (q : StopRequest) (hs : (u.lanes.get i).state ≠ .stopped) :
    ∃ more, (r.stopLane i q).Made { u with
        lanes := u.lanes.set i (noticed (u.stopped (u.lanes.get i) q))
        flags := if (u.stopped (u.lanes.get i) q).announces = true then u.flags ||| Flag.laneStopped.bits
          else u.flags } (ids ++ .lane i :: more) ∧ ∀ id ∈ more, id = .lane i ∨ id = .status := by
  have hm := ((h.announce i (u.stopped (u.lanes.get i) q)).image (.lane i)).touchLanes
  unfold Run.stopLane
  simp only [h.shape, if_neg hs]
  refine ⟨_, hm.congr (ids' := ids ++ .lane i ::
    ((if u.lanes.get i = noticed (u.stopped (u.lanes.get i) q) then [] else [.lane i]) ++
      if (u.stopped (u.lanes.get i) q).announces = true ∧ u.flag .laneStopped = false then [.status] else []))
    fun id => by simp only [List.mem_append, List.mem_cons, List.not_mem_nil, or_false]; tauto, fun id hid => ?_⟩
  simp only [List.mem_append, List.mem_ite_nil_left, List.mem_ite_nil_right, List.mem_singleton] at hid
  exact hid.imp And.right And.right

theorem Run.SameRest.touch {r r' : Run} (h : r.SameRest r') : r.SameRest r'.touchLanes :=
  ⟨h.answers, h.empties, h.events⟩

theorem Run.stopLane_spares (r : Run) (i : Fin 16) (q : StopRequest) :
    r.SameRest (r.stopLane i q) ∧ (r.stopLane i q).lanes = true := by
  unfold Run.stopLane
  simp only
  split
  · exact ⟨(r.image_rest _).touch, rfl⟩
  · have hs := (Run.Spares.announce r i (r.st.stopped (r.st.lanes.get i) q)).trans (.image _ (.lane i))
    exact ⟨hs.rest.touch, rfl⟩

theorem Run.resumeLane_spares (r : Run) (i : Fin 16) :
    r.SameRest (r.resumeLane i) ∧ (r.resumeLane i).lanes = true := by
  have hs := (Run.Spares.setLane r i (r.st.lanes.get i).resumed).trans (.image _ (.lane i))
  exact ⟨hs.rest.touch, rfl⟩

/-- A lane that takes a stop request, by its state (R151). -/
theorem State.stopped_asked {s : State} {l : Lane} {q : StopRequest} (hc : l.state ≠ .closed)
    (hs : l.state ≠ .stopped) :
    (s.stopped l q).stop = some q ∧ noticed (s.stopped l q) = match l.state with
      | .stopped => l
      | .isOpen =>
        if q.condition = .now ∨ s.currentUsable l = false then noticed { l with stop := some q, state := .stopped }
        else { l with stop := some q }
      | _ => noticed { l with stop := some q, state := .stopped } := by
  unfold State.stopped
  cases hl : l.state with
  | closed => exact absurd hl hc
  | stopped => exact absurd hl hs
  | isOpen =>
    simp only
    split
    · exact ⟨rfl, rfl⟩
    · exact ⟨rfl, noticed_of_running (by simp)⟩
  | exhausted => exact ⟨rfl, rfl⟩
  | paused => exact ⟨rfl, rfl⟩

/-- A settled lane that takes a stop request is settled. -/
theorem State.settles_stopped {s : State} {l : Lane} (q : StopRequest) (h : s.settles l) :
    s.settles (noticed (s.stopped l q)) := by
  have still {l : Lane} (hl : l.state = .stopped) : s.settles (noticed l) := by
    have hn : (noticed l).state = .stopped := by rw [noticed_state, hl]
    exact ⟨fun h => by rw [hn] at h; (cases h), fun h => by rw [hn] at h; (cases h)⟩
  unfold State.stopped
  cases hl : l.state with
  | closed => exact (noticed_of_running (l := l) (by simp [hl])).symm ▸ h
  | stopped => exact still hl
  | exhausted => exact still rfl
  | paused => exact still rfl
  | isOpen =>
    simp only
    split
    · exact still rfl
    · next hn =>
      rw [noticed_of_running (by simp)]
      push Not at hn
      exact ⟨fun _ => ⟨(h.1 hl).1, fun _ => by simpa [State.currentUsable] using hn.2⟩, nofun⟩

theorem lanesSettled_set {s t : State} (h : LanesSettled s) (hst : t.stations = s.stations) {i : Fin 16} {l : Lane}
    (hl : t.lanes = s.lanes.set i l) (hs : s.settles l) : LanesSettled t := by
  intro k
  refine (State.settles_congr hst _).2 ?_
  rw [hl, Table.get_set]
  split
  · exact hs
  · exact h k

/-- What re-evaluation makes of a resumed lane (R144, R152). -/
theorem reevaluated_resumed {s : State} {l : Lane} (h : s.settles l) (hc : l.state ≠ .closed) :
    reevaluated s l.resumed = { l with
      stop := none
      state := if l.state = .paused ∨ l.state = .stopped then (if s.someUsable l = true then .isOpen else .exhausted)
        else l.state } := by
  have hsome : s.someUsable l.resumed = s.someUsable l := rfl
  have hno : ¬(l.resumed.stopsAtStationEnd = true ∧ s.currentUsable l.resumed = false) := fun ⟨hx, _⟩ => nomatch hx
  cases hl : l.state with
  | closed => exact absurd hl hc
  | isOpen =>
    have hr : l.resumed.state = .isOpen := by simp [Lane.resumed, hl]
    unfold reevaluated
    simp only [hr, if_neg hno, hsome, (h.1 hl).1, if_true]
    simp [Lane.resumed, hl]
  | exhausted =>
    have hr : l.resumed.state = .exhausted := by simp [Lane.resumed, hl]
    unfold reevaluated
    simp only [hr, hsome, (h.2 hl).1]
    simp [Lane.resumed, hl]
  | paused =>
    have hr : l.resumed.state = .isOpen := by simp [Lane.resumed, hl]
    unfold reevaluated
    simp only [hr, if_neg hno, hsome]
    cases s.someUsable l <;> simp [Lane.resumed, hl]
  | stopped =>
    have hr : l.resumed.state = .isOpen := by simp [Lane.resumed, hl]
    unfold reevaluated
    simp only [hr, if_neg hno, hsome]
    cases s.someUsable l <;> simp [Lane.resumed, hl]

theorem ends_mem {u t : State} {tag : Tag} {ack : Ack} {changed changed' : List ImageId}
    (h : Ends u t tag ack changed) (hc : ∀ id, id ∈ changed ↔ id ∈ changed') : Ends u t tag ack changed' := by
  obtain ⟨waits, images, ht, hwaits, himages⟩ := h
  exact ⟨waits, images, ht, fun id => (hwaits id).trans (hc id), fun id => (himages id).trans (or_congr_right (hc id))⟩

/-- An accepted LANE_STOP (R146, R151). -/
theorem laneStop_ends {s : State} {tag : Tag} {q : Request} {answers : List MemAnswer} {l : Fin 16}
    (hp : Posted s .service tag q) (hrow : postRow .service q.data answers = some (.laneStop answers))
    (ha : Answered answers 5) (hset : LanesSettled s) (hl : cmdLane (word1 s answers q) = l.val)
    (hclosed : (s.lanes.get l).state ≠ .closed) {request : StopRequest}
    (hc : cmdCondition (word1 s answers q) = request.condition.code)
    (hn : cmdNotice (word1 s answers q) = request.notice.code) :
    ∃ t, exec (.laneStop answers) s = .next t ∧
      Ends { accepted s answers q with
        lanes := if (s.lanes.get l).state = .stopped then s.lanes else
          s.lanes.set l (noticed (s.stopped (s.lanes.get l) request))
        flags := if (s.lanes.get l).state ≠ .stopped ∧ (s.stopped (s.lanes.get l) request).announces = true then
          (accepted s answers q).flags ||| Flag.laneStopped.bits else (accepted s answers q).flags } t tag .done
        [.lane l, .status] := by
  obtain ⟨p, he⟩ := serving_of_held hp.inHand
  have hv : s.Beside (s.waited answers 3) := s.waited_beside answers 3
  have hw := serviced_beside s answers q
  have hlanes : (serviced s answers q).lanes = s.lanes := hw.lanes he
  have hm := serviced_made hp.guarded he answers q (answers.drop 5)
  have hwset := hw.lanesSettled he hset
  have hj (r : Run) (hr : r.st = s.waited answers 3) :
      ServiceKind.judge .laneStop (word1 s answers q) r = (.pass (l, request), r) :=
    judging_eq hr ((judgeLaneStop_named hl hc hn).trans (if_neg (by rw [hv.lanes he]; exact hclosed)))
  obtain ⟨hrest, htouch⟩ := (Run.start (serviced s answers q) (answers.drop 5)).stopLane_spares l request
  by_cases hs : (s.lanes.get l).state = .stopped
  · have heffect : (Run.start (serviced s answers q) (answers.drop 5)).stopLane l request =
        ((Run.start (serviced s answers q) (answers.drop 5)).image (.lane l)).touchLanes := by
      have hst : (Run.start (serviced s answers q) (answers.drop 5)).st = serviced s answers q := rfl
      simp only [Run.stopLane, hst, hlanes, hs, if_true]
    obtain ⟨t, hx, hends⟩ := service_endsLanesSettled (kind := .laneStop) hp hrow ha hj
      (heffect ▸ (hm.image (.lane l)).touchLanes) htouch hrest rfl rfl hwset
    refine ⟨t, hx, ends_at hends ?_⟩
    rw [if_pos hs, if_neg fun h => h.1 hs, ← hlanes]
    rfl
  · have hstopped : (serviced s answers q).stopped (s.lanes.get l) request = s.stopped (s.lanes.get l) request := by
      unfold State.stopped
      rw [State.currentUsable_congr (hw.stations he)]
    obtain ⟨more, hm, hmore⟩ := hm.stopLane l request (by rw [hlanes]; exact hs)
    rw [hlanes, hstopped] at hm
    have hset' : LanesSettled { serviced s answers q with
        lanes := s.lanes.set l (noticed (s.stopped (s.lanes.get l) request))
        flags := if (s.stopped (s.lanes.get l) request).announces = true then
          (serviced s answers q).flags ||| Flag.laneStopped.bits else (serviced s answers q).flags } :=
      lanesSettled_set hset (hw.stations he) rfl (State.settles_stopped request (hset l))
    obtain ⟨t, hx, hends⟩ := service_endsLanesSettled (kind := .laneStop) hp hrow ha hj hm htouch hrest rfl rfl hset'
    refine ⟨t, hx, ends_at (ends_mem hends fun id => ?_) ?_⟩
    · have := hmore id
      simp only [List.nil_append, List.cons_append, List.mem_cons, List.mem_append, List.not_mem_nil, or_false]
      tauto
    · simp only [ne_eq, hs, not_false_eq_true, true_and]
      rfl

/-- A lane as an accepted LANE_RESUME leaves it (R144, R152). -/
def State.afterResume (s : State) (l : Lane) : Lane :=
  { l with
    stop := none
    state := if l.state = .paused ∨ l.state = .stopped then (if s.someUsable l = true then .isOpen else .exhausted)
      else l.state }

/-- A resumed lane finds none of its stations usable (R144, R152). -/
abbrev State.resumesExhausted (s : State) (l : Lane) : Prop :=
  (l.state = .paused ∨ l.state = .stopped) ∧ s.someUsable l = false

theorem State.afterResume_exhausts {s : State} {l : Lane} :
    l.resumed.Exhausts (s.afterResume l) ↔ s.resumesExhausted l := by
  unfold Lane.Exhausts Lane.resumed State.afterResume State.resumesExhausted
  cases l.state <;> cases s.someUsable l <;> simp

/-- The flags after a lane is resumed and the lanes have settled. -/
theorem Relaned.resumed_flags {s u z : State} {more : List ImageId} {l : Fin 16} (h : Relaned u z more)
    (hu : u.lanes = s.lanes.set l (s.lanes.get l).resumed)
    (hz : z.lanes = s.lanes.set l (s.afterResume (s.lanes.get l))) :
    z.flags = if s.resumesExhausted (s.lanes.get l) then u.flags ||| Flag.laneExhausted.bits else u.flags := by
  have hone {P : Lane → Lane → Prop} (hP : ∀ l, ¬P l l) :
      (∃ k, P (u.lanes.get k) (z.lanes.get k)) ↔ P (s.lanes.get l).resumed (s.afterResume (s.lanes.get l)) := by
    rw [hu, hz]
    refine ⟨fun ⟨k, hk⟩ => ?_, fun h => ⟨l, by rw [Table.get_set_self, Table.get_set_self]; exact h⟩⟩
    rw [Table.get_set, Table.get_set] at hk
    by_cases hkl : k = l
    · simpa [hkl] using hk
    · simp only [hkl, if_false] at hk
      exact absurd hk (hP _)
  obtain ⟨hstop, hex⟩ := laneFlags_iff.1 h.flags
  rw [hone Lane.not_announces] at hstop
  rw [hone Lane.not_exhausts, State.afterResume_exhausts] at hex
  have hnot : ¬(s.lanes.get l).resumed.Announces (s.afterResume (s.lanes.get l)) := fun ⟨h, _⟩ => h rfl
  refine flags_ext (s := { u with flags := if s.resumesExhausted (s.lanes.get l) then
    u.flags ||| Flag.laneExhausted.bits else u.flags }) fun f => ?_
  have htarget : ({ u with flags := if s.resumesExhausted (s.lanes.get l) then
      u.flags ||| Flag.laneExhausted.bits else u.flags } : State).flag f = true ↔
        u.flag f = true ∨ s.resumesExhausted (s.lanes.get l) ∧ f = .laneExhausted := by
    by_cases hc : s.resumesExhausted (s.lanes.get l)
    · rw [State.flag_raised (s := u) (f := .laneExhausted) (if_pos hc)]
      exact or_congr_right ⟨fun h => ⟨hc, h⟩, And.right⟩
    · rw [State.flag_congr (s := u) (if_neg hc)]
      exact ⟨.inl, fun h => h.elim id fun h => absurd h.1 hc⟩
  rw [Bool.eq_iff_iff, htarget]
  by_cases hf : f = .laneStopped
  · subst hf
    rw [hstop]
    exact or_congr_right ⟨fun h => absurd h hnot, fun h => nomatch h.2⟩
  · by_cases hf' : f = .laneExhausted
    · subst hf'
      rw [hex]
      exact or_congr_right ⟨fun h => ⟨h, rfl⟩, And.left⟩
    · rw [h.others f (by simp [hf, hf'])]
      exact ⟨.inl, fun h => h.elim id fun h => absurd h.2 hf'⟩

/-- Settles O27. -/
theorem laneStopAndResumeActOnTheLane : Obligations.LaneStopAndResumeActOnTheLane := by
  unfold Obligations.LaneStopAndResumeActOnTheLane
  intro s tag q answers l hp ha hset hl hclosed old u
  obtain ⟨p, he⟩ := serving_of_held hp.inHand
  refine ⟨fun condition notice hrow hc hn => ?_, fun hrow => ?_⟩
  · intro asked new announced
    obtain ⟨t, hx, hends⟩ := laneStop_ends hp hrow ha hset hl hclosed (request := ⟨condition, notice⟩) hc hn
    refine ⟨t, hx, ends_at hends ?_⟩
    by_cases hs : old.state = .stopped
    · have hnew : new = old := by simp only [new, hs]
      have hann : ¬announced := fun h => h.1 hs
      rw [if_pos hs, if_neg (fun h => h.1 hs), if_neg hann, hnew, Table.set_get_self]
    · obtain ⟨hstop, hasked⟩ := State.stopped_asked (s := s) (q := ⟨condition, notice⟩) hclosed hs
      have hnew : noticed (s.stopped old ⟨condition, notice⟩) = new := hasked
      have hann : (old.state ≠ .stopped ∧ (s.stopped old ⟨condition, notice⟩).announces = true) ↔ announced := by
        rw [Lane.announces_iff, hnew]
        have hsome : (s.stopped old ⟨condition, notice⟩).stop ≠ none := by rw [hstop]; exact nofun
        exact and_congr_right fun _ => ⟨fun ⟨_, h, h'⟩ => ⟨h', h⟩, fun ⟨h, h'⟩ => ⟨hsome, h', h⟩⟩
      rw [if_neg hs, hnew]
      by_cases ha : announced
      · rw [if_pos ha, if_pos (hann.2 ha)]
      · rw [if_neg ha, if_neg fun h => ha (hann.1 h)]
  · intro held
    have hv : s.Beside (s.waited answers 3) := s.waited_beside answers 3
    have hw := serviced_beside s answers q
    have hlanes : (serviced s answers q).lanes = s.lanes := hw.lanes he
    have hm := (((serviced_made hp.guarded he answers q (answers.drop 5)).setLane l
      ((serviced s answers q).lanes.get l).resumed).image (.lane l)).touchLanes
    obtain ⟨hrest, htouch⟩ := (Run.start (serviced s answers q) (answers.drop 5)).resumeLane_spares l
    obtain ⟨t, z, more, hx, hends, hz, hget⟩ := service_endsSettled (kind := .laneResume) hp hrow ha
      (fun r hr => judging_eq hr ((judgeLaneResume_named hl).trans
        (if_neg (by rw [hv.lanes he]; exact hclosed)))) hm htouch hrest rfl rfl
    simp only [hlanes] at hz hget
    have hzlanes : z.lanes = s.lanes.set l (s.afterResume (s.lanes.get l)) := by
      refine Table.ext_get fun k => ?_
      refine (hget k).trans (Eq.trans (reevaluated_congr (s := s) ?_ _) ?_)
      · exact hw.stations he
      rw [Table.get_set, Table.get_set]
      split
      · exact reevaluated_resumed (hset l) hclosed
      · exact State.reevaluated_of_settles (hset k)
    refine ⟨t, hx, ends_at (ends_mem hends fun id => ?_)
      (hz.shape.trans (by rw [hzlanes, hz.resumed_flags rfl hzlanes]; rfl))⟩
    have hmore (h : id ∈ more) : id = .lane l ∨ id = .status := by
      rcases hz.may id h with rfl | ⟨k, rfl, hk⟩
      · exact .inr rfl
      · refine .inl (congrArg _ ?_)
        by_contra hkl
        rw [hzlanes, Table.get_set_ne _ _ hkl, Table.get_set_ne _ _ hkl] at hk
        exact hk rfl
    simp only [List.nil_append, List.mem_append, List.mem_ite_nil_left, List.mem_cons, List.not_mem_nil, or_false]
    tauto

/-! ### STATION_RESET and SLOT_SET -/

theorem Station.emptied_usable {st : Station} (h : st.state = .identifying ∨ ∃ c, st.state = .faulted c) :
    st.emptied.usable = st.usable := by
  have hold : st.usable = false := by
    rcases h with h | ⟨c, h⟩ <;> simp [Station.usable, h]
  rw [hold]
  simp [Station.usable, Station.emptied]

/-- Lanes that are settled stay so while no station becomes usable or stops being so. -/
theorem lanesSettled_usable {s t : State} (h : LanesSettled s) (hl : t.lanes = s.lanes)
    (hu : ∀ i, (t.stations.get i).usable = (s.stations.get i).usable) : LanesSettled t := by
  have hsome (l : Lane) : t.someUsable l = s.someUsable l := by simp only [State.someUsable, hu]
  have hcur (l : Lane) : t.currentUsable l = s.currentUsable l := by simp only [State.currentUsable, hu]
  intro k
  rw [hl]
  simp only [hsome, hcur]
  exact h k

theorem Run.markSlot_spares (r : Run) (i : Fin 8) (slot : Nat) (x : SlotState) :
    r.SameRest (r.markSlot i slot x) ∧ (r.markSlot i slot x).lanes = true :=
  ⟨((r.setSlots_rest i _).trans (Run.image_rest _ _)).touch, rfl⟩

/-- A station and the lanes that have settled after it, with their flags (R138, R144, R146). -/
theorem Relaned.restationed {s w t z : State} {i : Fin 8} {new : Station} {c : Cursors} {more : List ImageId}
    (hst : w.stations = s.stations) (hl : w.lanes = s.lanes)
    (hz : Relaned { w.restationed i new with cursors := c } z more)
    (hget : ∀ k, z.lanes.get k = reevaluated (w.restationed i new) ((w.restationed i new).lanes.get k))
    (htl : t.lanes = z.lanes) (htf : t.flags = z.flags) {u : State}
    (hu : u = { w with cursors := c, stations := s.stations.set i new }) :
    z = { u with lanes := t.lanes, flags := t.flags } ∧
      (∀ k, t.lanes.get k = reevaluated u (s.lanes.get k)) ∧ LaneFlags u t s.lanes.get ∧
      FlagsBut u t [.stationChange, .laneStopped, .laneExhausted] ∧
      (t.flag .stationChange = true ↔
        u.flag .stationChange = true ∨ (new.state = .full ∧ (s.stations.get i).state ≠ .full)) := by
  subst hu
  have hflag (f : Flag) : ({ w.restationed i new with cursors := c } : State).flag f = true ↔
      w.flag f = true ∨ ((new.state = .full ∧ (s.stations.get i).state ≠ .full) ∧ f = .stationChange) := by
    have := w.restationed_flag i new f
    rw [hst] at this
    exact this
  have hbefore (f : Flag) : ({ w with cursors := c, stations := s.stations.set i new } : State).flag f = w.flag f := rfl
  have htflag (f : Flag) : t.flag f = z.flag f := State.flag_congr htf f
  have hlanes : ({ w.restationed i new with cursors := c } : State).lanes = s.lanes := hl
  obtain ⟨hstop, hex⟩ := laneFlags_iff.1 hz.flags
  rw [hlanes, hflag] at hstop hex
  refine ⟨?_, fun k => ?_, laneFlags_iff.2 ⟨?_, ?_⟩, fun f hf => ?_, ?_⟩
  · rw [htl, htf, hz.shape, State.restationed, hst]
  · rw [htl, hget]
    refine Eq.trans (reevaluated_congr ?_ _) (congrArg _ (congrArg (fun t => Table.get t k) hl))
    rw [← hst]
    rfl
  · rw [htflag, hstop, hbefore, htl]
    simp
  · rw [htflag, hex, hbefore, htl]
    simp
  · simp only [List.mem_cons, List.not_mem_nil, or_false, not_or] at hf
    obtain ⟨hf1, hf2, hf3⟩ := hf
    rw [htflag, hz.others f (by simp [hf2, hf3]), Bool.eq_iff_iff, hflag, hbefore]
    simp [hf1]
  · rw [htflag, hz.others _ (by simp), hflag, hbefore]
    simp

/-- Settles O28. -/
theorem stationResetAndSlotSetActOnTheStation : Obligations.StationResetAndSlotSetActOnTheStation := by
  unfold Obligations.StationResetAndSlotSetActOnTheStation
  intro s tag q answers i hp ha hi old
  obtain ⟨p, he⟩ := serving_of_held hp.inHand
  have hv : s.Beside (s.waited answers 3) := s.waited_beside answers 3
  have hw := serviced_beside s answers q
  have hst : (serviced s answers q).stations = s.stations := hw.stations he
  have hm := serviced_made hp.guarded he answers q (answers.drop 5)
  refine ⟨fun hrow hset hstate hpair => ?_, fun m target hrow htarget hcode hmag hslot => ?_⟩
  · have hpass : (((s.waited answers 3).stations.get i).state.resets &&
        !(s.waited answers 3).pairInPlaceAt i) = true := by
      have hno : (s.waited answers 3).pairInPlaceAt i = false := by
        rw [← Bool.not_eq_true, State.pairInPlaceAt_iff]
        rintro ⟨j, e, d, hj, hf, hk, hd, hst', hin⟩
        refine hpair ⟨j, e, d, by rw [← hv.entries he]; exact hj, hf, hk, hd, hst', ?_⟩
        rw [State.inPlace, ← hv.stations he]
        exact hin
      rw [hno, hv.stations he]
      rcases hstate with h | ⟨c, h⟩ <;> rw [show (s.stations.get i).state = _ from h] <;> rfl
    have hne : s.stations.get i ≠ old.emptied := by
      intro h
      have hs : (s.stations.get i).state = if old.mask = 0 then .disabled else .vacant := congrArg Station.state h
      rcases hstate with h | ⟨c, h⟩ <;> rw [show (s.stations.get i).state = _ from h] at hs <;> split at hs <;> cases hs
    have hm := (hm.setStation i old.emptied).touchLanes
    rw [hst, if_neg hne] at hm
    have heffect : ServiceKind.effect .stationReset i (Run.start (serviced s answers q) (answers.drop 5)) =
        ((Run.start (serviced s answers q) (answers.drop 5)).setStation i old.emptied).touchLanes := by
      show ((Run.start (serviced s answers q) (answers.drop 5)).setStation i
        ((serviced s answers q).stations.get i).emptied).touchLanes = _
      rw [hst]
    have hset' : LanesSettled { serviced s answers q with stations := s.stations.set i old.emptied } := by
      refine lanesSettled_usable hset (hw.lanes he) fun j => ?_
      simp only [Table.get_set]
      split
      · next h => rw [h]; exact Station.emptied_usable hstate
      · rfl
    have htouch : (ServiceKind.effect .stationReset i (Run.start (serviced s answers q) (answers.drop 5))).lanes = true :=
      rfl
    have hrest : (Run.start (serviced s answers q) (answers.drop 5)).SameRest
        (ServiceKind.effect .stationReset i (Run.start (serviced s answers q) (answers.drop 5))) :=
      (Run.setStation_rest _ _ _).touch
    rw [← heffect] at hm
    exact service_endsLanesSettled (kind := .stationReset) hp hrow ha
      (fun r hr => judging_eq hr ((judgeStationReset_named hi).trans (if_pos hpass))) hm htouch hrest rfl rfl hset'
  · intro new u
    obtain ⟨x, hx, hset⟩ := hslot
    have hpass : judgeSlotSet (word1 s answers q) (s.waited answers 3) = .pass (i, cmdSlot (word1 s answers q), target) := by
      refine (judgeSlotSet_slot hi (slotTarget_some.2 ⟨htarget, hcode⟩) (by rw [hv.stations he]; exact hmag) hx).trans
        (if_pos ?_)
      rcases hset with rfl | rfl | rfl <;> rfl
    have hnew : ((serviced s answers q).stations.get i).withSlots
        (((serviced s answers q).stations.get i).slots.set (cmdSlot (word1 s answers q)) target) = new := by
      rw [hst, Station.slots_of_magazine hmag, Station.withSlots_eq hmag]
    obtain ⟨more, hm, hmore, hmust, -⟩ := hm.setSlots i (fun slots => slots.set (cmdSlot (word1 s answers q)) target) hnew
    have hm := (hm.image (.station i)).touchLanes
    obtain ⟨hrest, htouch⟩ := (Run.start (serviced s answers q) (answers.drop 5)).markSlot_spares i
      (cmdSlot (word1 s answers q)) target
    obtain ⟨t, z, more', hx, hends, hz, hget⟩ := service_endsSettled (kind := .slotSet) hp hrow ha
      (fun r hr => judging_eq hr hpass) hm htouch hrest rfl rfl
    have htl : t.lanes = z.lanes := ends_same hends fun u => u.lanes
    have htf : t.flags = z.flags := ends_same hends fun u => u.flags
    obtain ⟨hshape, hlanes, hflags, hothers, hchange⟩ :=
      hz.restationed (t := t) (u := u) hst (hw.lanes he) hget htl htf rfl
    refine ⟨t, hx, ended_of_ends hends hshape ?_ ?_, hlanes, hflags, hothers, hchange⟩
    · simp
    · intro id hid
      simp only [List.nil_append, List.mem_append, List.mem_cons, List.mem_map, List.mem_finRange,
        List.not_mem_nil, or_false, true_and] at hid ⊢
      rcases hid with ((hid | hid) | hid) | hid
      · exact (hmore id hid).imp_right .inl
      · exact .inl hid
      · exact .inr (.inl hid)
      · exact .inr ((hz.may id hid).imp_right fun ⟨k, hk, _⟩ => ⟨k, hk.symm⟩)

end Sys2Proof.Machine
end

section
/-! PROOF. The end of a request with its duties: the lanes, the EMPTY marks and the captures (R80, R113, R116,
R144); and the reports that are disputed and change nothing else (R117, R128, R134, R137). -/

namespace Sys2Proof.Machine

open Sys2Proof.Claims

theorem Run.Made.started {u : State} (hg : u.mode = .guarded) (rest : List MemAnswer) : (Run.start u rest).Made u [] :=
  .start hg rfl

/-! ### Disputes and expiries reach the Condition Unit (R113, R116) -/

/-- An event has been handed to the Condition Unit. -/
def State.handed (u : State) (ev : Event) : State := noted u ev.source ⟨ev.cause, ev.sect, ev.cycle, ev.refs, u.time⟩

/-- The images of the captures that events fill, in order. -/
def handedImages : List Event → State → List ImageId
  | [], _ => []
  | ev :: rest, u => notedImages u ev.source ++ handedImages rest (u.handed ev)

theorem Run.Made.noteEvent {r : Run} {u : State} {ids : List ImageId} (h : r.Made u ids) (ev : Event) :
    (r.noteEvent ev).Made (u.handed ev) (ids ++ notedImages u ev.source) := by
  unfold Run.noteEvent State.handed noted notedImages
  rw [h.shape, if_pos (u.guarded_iff.2 h.guarded)]
  cases u.captureOf ev.source with
  | none => exact h.fillCapture ev
  | some _ => exact h.congr (by simp)

theorem Run.Spares.fillCapture (r : Run) (ev : Event) : r.Spares (r.fillCapture ev) :=
  (((Spares.modify r _).trans (.image _ _)).trans (.raise _ _)).trans (.image _ _)

theorem Run.Spares.noteEvent (r : Run) (ev : Event) : r.Spares (r.noteEvent ev) := by
  unfold Run.noteEvent
  split
  · split
    · exact .fillCapture r ev
    · exact .refl r
  · exact .refl r

/-- The events of a run are handed to the Condition Unit in order. -/
theorem Run.Made.handEvents {r : Run} {u : State} {ids : List ImageId} (h : r.Made u ids) :
    r.handEvents.Made (r.events.foldl State.handed u) (ids ++ handedImages r.events u) := by
  have fold (evs : List Event) : ∀ (r : Run) (u : State) (ids : List ImageId), r.Made u ids →
      (evs.foldl Run.noteEvent r).Made (evs.foldl State.handed u) (ids ++ handedImages evs u) := by
    induction evs with
    | nil => exact fun r u ids h => h.congr (by simp [handedImages])
    | cons ev evs ih => exact fun r u ids h => (ih _ _ _ (h.noteEvent ev)).congr (by simp [handedImages])
  exact fold r.events { r with events := [] } u ids (h.rest rfl rfl)

theorem Run.handEvents_free {r : Run} (hl : r.lanes = false) (he : r.empties = []) : r.handEvents.Free := by
  have hs : ({ r with events := [] } : Run).Spares r.handEvents := .foldl Run.Spares.noteEvent r.events _
  exact hs.free ⟨hl, he, rfl⟩

theorem Run.conclude_handEvents {r : Run} (hl : r.lanes = false) (he : r.empties = []) :
    r.conclude = r.handEvents.conclude := by
  have hf := Run.handEvents_free hl he
  have hs : r.settleLanes = r := by simp [Run.settleLanes, hl]
  have hr : r.emptySlots = r := by
    cases r
    simp_all [Run.emptySlots]
  rw [Run.conclude, hs, hr, Run.conclude_idle hf.lanes hf.empties hf.events]

/-! ### The end of a request with its duties -/

/-- A run comes to its end in a state with images collected, whatever it owed. -/
def Run.Concludes (r : Run) (u : State) (ids : List ImageId) : Prop :=
  ∃ r' : Run, r.conclude = r'.conclude ∧ r'.Free ∧ r'.Made u ids

namespace Run.Concludes

variable {r : Run} {u : State} {ids : List ImageId} (h : r.Concludes u ids)
include h

theorem ends (hn : ids ≠ []) (t : Tag) (a : Ack) : Ends u (r.conclude.finishHeld t a) t a ids := by
  obtain ⟨r', hr, hf, hm⟩ := h
  rw [hr]
  exact hm.ends hf hn t a

theorem endsAtOnce (hn : ids = []) (t : Tag) (a : Ack) : EndsAtOnce u (r.conclude.finishHeld t a) t a := by
  obtain ⟨r', hr, hf, hm⟩ := h
  rw [hr]
  exact hm.endsAtOnce hf hn t a

theorem endsInternally : EndsInternally u r.conclude.finishInternal ids := by
  obtain ⟨r', hr, hf, hm⟩ := h
  rw [hr]
  exact hm.endsInternally hf

end Run.Concludes

/-- A run that owes events at most. -/
theorem Run.Made.concludes_events {r : Run} {u : State} {ids : List ImageId} (h : r.Made u ids)
    (hl : r.lanes = false) (he : r.empties = []) :
    r.Concludes (r.events.foldl State.handed u) (ids ++ handedImages r.events u) :=
  ⟨r.handEvents, Run.conclude_handEvents hl he, Run.handEvents_free hl he, h.handEvents⟩

/-- A run that owes EMPTY marks and events. -/
theorem Run.Made.concludes_marks {r : Run} {u : State} {ids : List ImageId} (h : r.Made u ids) {p : Fin 18}
    (e : u.engine = .serving p) (hl : r.lanes = false) :
    let x := emptiedAll u r.answers (r.marks u.stackerRing)
    ∃ more, r.Concludes (r.events.foldl State.handed x) (ids ++ more ++ handedImages r.events x) ∧
      ∀ id ∈ more, id = .status := by
  obtain ⟨more, hm, hmore, hempties, hevents, hlanes⟩ := h.emptySlots e
  obtain ⟨r', hr', hf, hm'⟩ := hm.concludes_events (hlanes.trans hl) hempties
  rw [hevents] at hm'
  exact ⟨more, ⟨r', (Run.conclude_emptySlots hl).trans hr', hf, hm'⟩, hmore⟩

/-- A run that owes the settling of the lanes, EMPTY marks and events. -/
theorem Run.Made.concludes {r : Run} {u : State} {ids : List ImageId} (h : r.Made u ids) {p : Fin 18}
    (e : u.engine = .serving p) :
    ∃ z more marked, r.Concludes (r.events.foldl State.handed (emptiedAll z r.answers (r.marks u.stackerRing)))
        (ids ++ more ++ marked ++
          handedImages r.events (emptiedAll z r.answers (r.marks u.stackerRing))) ∧
      Relaned u z more ∧ (r.lanes = true → ∀ k, z.lanes.get k = reevaluated u (u.lanes.get k)) ∧
      (r.lanes = false → z = u) ∧ ∀ id ∈ marked, id = .status := by
  by_cases hl : r.lanes = true
  · obtain ⟨z, more, hm, hz, hget, hlanes, hrest⟩ := h.settleLanes hl
    have hez : z.engine = .serving p := by rw [hz.shape]; exact e
    have hring : z.stackerRing = u.stackerRing := by rw [hz.shape]; rfl
    obtain ⟨marked, ⟨r', hr', hf, hm'⟩, hmarked⟩ := hm.concludes_marks hez hlanes
    rw [hrest.events, hrest.answers, Run.marks, hrest.empties, ← Run.marks, hring] at hm'
    exact ⟨z, more, marked, ⟨r', Run.conclude_settleLanes.trans hr', hf, hm'⟩, hz, fun _ => hget,
      fun hf => (by rw [hf] at hl; cases hl), hmarked⟩
  · have hl := Bool.eq_false_iff.2 hl
    obtain ⟨marked, hc, hmarked⟩ := h.concludes_marks e hl
    exact ⟨u, [], marked, by simpa using hc, .refl u, fun ht => (by rw [ht] at hl; cases hl), fun _ => rfl, hmarked⟩

/-! ### Reports -/

theorem appliedReport_beside (s : State) (answers : List MemAnswer) (q : Request) :
    s.Beside (appliedReport s answers q) := (s.waited_beside answers 2).trans (State.wroteAll_beside _ _ _)

theorem disputedReport_beside (s : State) (answers : List MemAnswer) (q : Request) (cause : Cause) :
    s.Beside (disputedReport s answers q cause) := (s.waited_beside answers 2).trans (State.wroteAll_beside _ _ _)

theorem serving_of_report {s : State} {ring : RepRing} {tag : Tag} {q : Request} (h : Reported s ring tag q) :
    ∃ p, s.engine = .serving p := serving_of_held h.inHand

theorem reportRing_of_report {s : State} {ring : RepRing} {tag : Tag} {q : Request} (h : Reported s ring tag q) :
    q.reportRing = ring := by rw [Request.reportRing, h.cls]

section ServedReport

variable {α : Type} {judge : Word → State → Verdict × α} {apply : Tag → Request → Word → α → Run → Run}
  {c : Instr} {s : State} {ring : RepRing} {tag : Tag} {q : Request} {answers : List MemAnswer}
  (hp : Reported s ring tag q) (hs : Serves c s answers tag (serveReport judge apply tag q))
  (ha : Answered answers 4) {x : α}

include hs ha in
/-- A report that its checks apply is carried out by its outcome (R116). -/
theorem report_applied (hj : judge (word1 s answers q) (s.waited answers 2) = (.applied, x)) :
    exec c s = .next (((apply tag q (word1 s answers q) x
      (Run.start (appliedReport s answers q) (answers.drop 4))).conclude).finishHeld tag .done) := by
  rw [hs, serveReport_done ha, hj]
  rfl

include hs ha in
/-- A report that is disputed is carried out by what the dispute does (R116). -/
theorem report_disputes {cause : Cause} (hj : judge (word1 s answers q) (s.waited answers 2) = (.disputed cause, x)) :
    exec c s = .next (((apply tag q (word1 s answers q) x
      (Run.start (disputedReport s answers q cause) (answers.drop 4))).conclude).finishHeld tag .done) := by
  rw [hs, serveReport_done ha, hj]
  rfl

include hp hs ha in
/-- A report that is disputed and does nothing else (R116). -/
theorem report_disputed {cause : Cause} {refs : Refs}
    (hj : judge (word1 s answers q) (s.waited answers 2) = (.disputed cause, x))
    (happly : ∀ r, apply tag q (word1 s answers q) x r = r.dispute tag q cause refs) :
    ∃ t, exec c s = .next t ∧ Disputed s t answers tag q ring cause refs := by
  obtain ⟨p, he⟩ := serving_of_report hp
  refine ⟨_, report_disputes hs ha hj, ?_⟩
  rw [happly]
  have hg : (disputedReport s answers q cause).mode = .guarded :=
    ((disputedReport_beside s answers q cause).mode he).trans hp.guarded
  have hm : ((Run.start (disputedReport s answers q cause) (answers.drop 4)).dispute tag q cause refs).Made
      (disputedReport s answers q cause) [] := (Run.Made.start hg rfl).rest rfl rfl
  have hc := hm.concludes_events rfl rfl
  unfold Disputed
  have hev : ((Run.start (disputedReport s answers q cause) (answers.drop 4)).dispute tag q cause refs).events =
      [⟨ring.source, cause, none, some ⟨tag, .write, q.addr⟩, refs⟩] := by
    rw [← reportRing_of_report hp]
    rfl
  rw [hev] at hc
  generalize (Run.start (disputedReport s answers q cause) (answers.drop 4)).dispute tag q cause refs = r at hc
  generalize disputedReport s answers q cause = u at hc
  simp only [List.foldl_cons, List.foldl_nil, handedImages, List.append_nil, List.nil_append, State.handed] at hc
  cases hcap : u.captureOf ring.source with
  | none =>
    simp only [hcap]
    exact hc.ends (by simp [notedImages, hcap]) tag .done
  | some held =>
    simp only [noted, notedImages, hcap] at hc ⊢
    exact hc.endsAtOnce rfl tag .done

end ServedReport

end Sys2Proof.Machine
end

section
/-! PROOF. The reports of a station (R128, R133 to R137). -/

namespace Sys2Proof.Machine

open Sys2Proof.Claims

/-! ### Which row serves a station report -/

theorem reportKind_of_arrived {ring : RepRing} {data : Word} {answers : List MemAnswer}
    (h : reportRow ring data answers = .arrived answers) : reportKind ring (ringKind data) = some .arrived := by
  unfold reportRow at h
  cases hk : reportKind ring (ringKind data) with
  | none => simp [hk] at h
  | some k => cases k <;> simp [hk] at h ⊢

theorem reportKind_of_removed {ring : RepRing} {data : Word} {answers : List MemAnswer}
    (h : reportRow ring data answers = .removed answers) : reportKind ring (ringKind data) = some .removed := by
  unfold reportRow at h
  cases hk : reportKind ring (ringKind data) with
  | none => simp [hk] at h
  | some k => cases k <;> simp [hk] at h ⊢

theorem stationReportRefs_none {q : Request} (h : 8 ≤ ringStation q.data) : stationReportRefs q = {} := by
  rw [stationReportRefs, asFin_none h]

theorem stationReportRefs_some {q : Request} {i : Fin 8} (h : ringStation q.data = i.val) :
    stationReportRefs q = { station := some i } := by
  rw [stationReportRefs, asFin_val h]

/-! ### The verdicts -/

theorem judgeArrived_range {q : Request} (s : State) (h : 8 ≤ ringStation q.data) :
    s.judgeArrived q = .disputed .stationDisabled := by
  rw [State.judgeArrived, asFin_none h]

theorem judgeRemoved_range {q : Request} (s : State) (h : 8 ≤ ringStation q.data) :
    s.judgeRemoved q = .disputed .stationDisabled := by
  rw [State.judgeRemoved, asFin_none h]

theorem judgeArrived_disabled {q : Request} {s : State} {i : Fin 8} (h : ringStation q.data = i.val)
    (hs : (s.stations.get i).state = .disabled) : s.judgeArrived q = .disputed .stationDisabled := by
  simp only [State.judgeArrived, asFin_val h, hs]

theorem judgeArrived_taken {q : Request} {s : State} {i : Fin 8} (h : ringStation q.data = i.val)
    (hs : (s.stations.get i).state = .ready ∨ (s.stations.get i).state = .filling ∨
      (s.stations.get i).state = .full ∨ ∃ c, (s.stations.get i).state = .faulted c) :
    s.judgeArrived q = .disputed .arrivalConflict := by
  rcases hs with hs | hs | hs | ⟨c, hs⟩ <;> simp only [State.judgeArrived, asFin_val h, hs]

theorem judgeArrived_applied {q : Request} {s : State} {i : Fin 8} (h : ringStation q.data = i.val)
    (hs : (s.stations.get i).state = .vacant ∨ (s.stations.get i).state = .identifying) :
    s.judgeArrived q = .applied := by
  rcases hs with hs | hs <;> simp only [State.judgeArrived, asFin_val h, hs]

theorem judgeRemoved_nothing {q : Request} {s : State} {i : Fin 8} (h : ringStation q.data = i.val)
    (hs : (s.stations.get i).state = .vacant ∨ (s.stations.get i).state = .disabled) :
    s.judgeRemoved q = .disputed .nothingToRemove := by
  rcases hs with hs | hs <;> simp only [State.judgeRemoved, asFin_val h, hs]

theorem judgeRemoved_applied {q : Request} {s : State} {i : Fin 8} (h : ringStation q.data = i.val)
    (hv : (s.stations.get i).state ≠ .vacant) (hd : (s.stations.get i).state ≠ .disabled) :
    s.judgeRemoved q = .applied := by
  rw [State.judgeRemoved, asFin_val h]
  cases hs : (s.stations.get i).state with
  | vacant => exact absurd hs hv
  | disabled => exact absurd hs hd
  | identifying => simp only [hs]
  | ready => simp only [hs]
  | filling => simp only [hs]
  | full => simp only [hs]
  | faulted c => simp only [hs]

/-! ### A station report that is served -/

/-- A station replaced by a report, with or without STATION_CHANGE. -/
def State.reported (u : State) (i : Fin 8) (new : Station) (change : Bool) : State :=
  { u with
    stations := u.stations.set i new
    flags := if change = true then u.flags ||| Flag.stationChange.bits else u.flags }

theorem State.reported_flag (u : State) (i : Fin 8) (new : Station) (change : Bool) (f : Flag) :
    (u.reported i new change).flag f = true ↔ u.flag f = true ∨ (change = true ∧ f = .stationChange) := by
  cases change with
  | false =>
    have h : (u.reported i new false).flag f = u.flag f := State.flag_congr rfl f
    simp [h]
  | true =>
    rw [State.flag_raised (s := u) (f := .stationChange) rfl]
    simp

/-- What a station report that replaces its station leaves (R134 to R137, R144). -/
structure StationReported (u t : State) (tag : Tag) (i : Fin 8) (new : Station) (change : Bool) : Prop where
  ended    : Ended { u with stations := u.stations.set i new, lanes := t.lanes, flags := t.flags } t tag [.station i]
    (.station i :: .status :: (List.finRange 16).map .lane)
  stations : t.stations = u.stations.set i new
  lanes    : ∀ k, t.lanes.get k = reevaluated t (u.lanes.get k)
  flags    : LaneFlags u t u.lanes.get
  others   : FlagsBut u t [.stationChange, .laneStopped, .laneExhausted]
  change   : t.flag .stationChange = true ↔ u.flag .stationChange = true ∨ change = true

/-- A run that has replaced a station settles the lanes at its end (R144). -/
theorem Run.Made.stationReported {r : Run} {u : State} {i : Fin 8} {new : Station} {change : Bool}
    {ids : List ImageId} (h : r.Made (u.reported i new change) ids) (hl : r.lanes = true) (he : r.empties = [])
    (hv : r.events = []) (hi : .station i ∈ ids) (hids : ∀ id ∈ ids, id = .station i ∨ id = .status) (tag : Tag) :
    StationReported u (r.conclude.finishHeld tag .done) tag i new change := by
  obtain ⟨z, more, hends, hz, hget⟩ := h.endsSettled hl he hv (List.ne_nil_of_mem hi) tag .done
  generalize r.conclude.finishHeld tag .done = t at hends
  have hts : t.stations = u.stations.set i new := (ends_same hends fun u => u.stations).trans hz.stations
  have htl : t.lanes = z.lanes := ends_same hends fun u => u.lanes
  have htf (f : Flag) : t.flag f = z.flag f := State.flag_congr (ends_same hends fun u => u.flags) f
  obtain ⟨hstop, hex⟩ := laneFlags_iff.1 hz.flags
  refine ⟨ended_of_ends hends ?_ ?_ fun id hid => ?_, hts, fun k => ?_, laneFlags_iff.2 ⟨?_, ?_⟩, fun f hf => ?_, ?_⟩
  · rw [htl, ends_same hends fun u => u.flags]
    exact hz.shape
  · simp [hi]
  · simp only [List.mem_append, List.mem_cons, List.mem_map, List.mem_finRange, true_and] at hid ⊢
    rcases hid with hid | hid
    · exact (hids id hid).imp_right .inl
    · exact .inr ((hz.may id hid).imp_right fun ⟨k, hk, _⟩ => ⟨k, hk.symm⟩)
  · rw [htl, hget]
    exact reevaluated_congr hts.symm _
  · rw [htf, htl, hstop, State.reported_flag]
    simp [State.reported]
  · rw [htf, htl, hex, State.reported_flag]
    simp [State.reported]
  · simp only [List.mem_cons, List.not_mem_nil, or_false, not_or] at hf
    rw [htf, hz.others f (by simp [hf]), Bool.eq_iff_iff, State.reported_flag]
    simp [hf.1]
  · rw [htf, hz.others _ (by simp), State.reported_flag]
    simp

section StationReport

variable {judge : State → Verdict} {act : Fin 8 → Word → Run → Run} {c : Instr} {s : State} {tag : Tag}
  {q : Request} {answers : List MemAnswer} (hp : Reported s .stacker tag q)
  (hs : Serves c s answers tag (serveReport (fun _ s => (judge s, judge s)) (applyStation act) tag q))
  (ha : Answered answers 4)
include hp hs ha

theorem station_disputed {cause : Cause} {refs : Refs} (hj : judge (s.waited answers 2) = .disputed cause)
    (hrefs : stationReportRefs q = refs) :
    ∃ t, exec c s = .next t ∧ Disputed s t answers tag q .stacker cause refs :=
  report_disputed hp hs ha (x := .disputed cause) (by rw [hj]) fun r => by rw [← hrefs]; rfl

omit hp in
theorem station_applied {i : Fin 8} (hi : ringStation q.data = i.val) (hj : judge (s.waited answers 2) = .applied)
    {new : Station} {change : Bool} {ids : List ImageId}
    (h : (act i (word1 s answers q) (Run.start (appliedReport s answers q) (answers.drop 4))).Made
      ((appliedReport s answers q).reported i new change) ids)
    (hl : (act i (word1 s answers q) (Run.start (appliedReport s answers q) (answers.drop 4))).lanes = true)
    (hr : (Run.start (appliedReport s answers q) (answers.drop 4)).SameRest
      (act i (word1 s answers q) (Run.start (appliedReport s answers q) (answers.drop 4))))
    (hin : .station i ∈ ids) (hids : ∀ id ∈ ids, id = .station i ∨ id = .status) :
    ∃ t, exec c s = .next t ∧ StationReported (appliedReport s answers q) t tag i new change := by
  refine ⟨_, report_applied hs ha (x := .applied) (by rw [hj]), ?_⟩
  have happly : applyStation act tag q (word1 s answers q) .applied
      (Run.start (appliedReport s answers q) (answers.drop 4)) =
        act i (word1 s answers q) (Run.start (appliedReport s answers q) (answers.drop 4)) := by
    simp only [applyStation, asFin_val hi]
  rw [happly]
  exact h.stationReported hl hr.empties hr.events hin hids tag

end StationReport

/-- A run in which a station's replacement changes it owes the settling of the lanes (R144). -/
theorem Run.setStation_lanes_of_ne {r : Run} {i : Fin 8} {new : Station} (h : r.st.stations.get i ≠ new) :
    (r.setStation i new).lanes = true := by
  unfold Run.setStation
  rw [if_neg h]
  rfl

/-! ### REMOVED -/

/-- A station without its magazine is VACANT, or DISABLED where its mask allows no type (R137). -/
theorem Station.ne_emptied {st : Station} (hv : st.state ≠ .vacant) (hd : st.state ≠ .disabled) : st ≠ st.emptied := by
  intro h
  have hs : st.state = if st.mask = 0 then .disabled else .vacant := congrArg Station.state h
  split at hs
  · exact hd hs
  · exact hv hs

/-- Settles O42. -/
theorem removedForgetsTheMagazine : Obligations.RemovedForgetsTheMagazine := by
  unfold Obligations.RemovedForgetsTheMagazine
  intro s tag q answers hp ha
  obtain ⟨p, he⟩ := serving_of_report hp
  have hv : s.Beside (s.waited answers 2) := s.waited_beside answers 2
  have harrived (h : reportRow .stacker q.data answers = .arrived answers) :=
    serves_arrived (answers := answers) hp.inHand hp.cls (reportKind_of_arrived h)
  have hremoved (h : reportRow .stacker q.data answers = .removed answers) :=
    serves_removed (answers := answers) hp.inHand hp.cls (reportKind_of_removed h)
  refine ⟨?_, ?_, ?_⟩
  · rintro row (rfl | rfl) hrow hrange
    · exact station_disputed hp (harrived hrow) ha (judgeArrived_range _ hrange) (stationReportRefs_none hrange)
    · exact station_disputed hp (hremoved hrow) ha (judgeRemoved_range _ hrange) (stationReportRefs_none hrange)
  · intro i hrow hi state
    refine ⟨fun hdisabled => ?_, fun htaken => ?_⟩
    · exact station_disputed hp (harrived hrow) ha
        (judgeArrived_disabled hi (by rw [hv.stations he]; exact hdisabled)) (stationReportRefs_some hi)
    · exact station_disputed hp (harrived hrow) ha (judgeArrived_taken hi (by rw [hv.stations he]; exact htaken))
        (stationReportRefs_some hi)
  · intro i hrow hi old
    refine ⟨fun hnothing => ?_, fun hvacant hdisabled => ?_⟩
    · exact station_disputed hp (hremoved hrow) ha (judgeRemoved_nothing hi (by rw [hv.stations he]; exact hnothing))
        (stationReportRefs_some hi)
    · have hu := appliedReport_beside s answers q
      have hst : (appliedReport s answers q).stations = s.stations := hu.stations he
      have hlanes : (appliedReport s answers q).lanes = s.lanes := hu.lanes he
      have hne : s.stations.get i ≠ old.emptied := Station.ne_emptied hvacant hdisabled
      have hm := ((Run.Made.started ((hu.mode he).trans hp.guarded) (answers.drop 4)).setStation i old.emptied).raise .stationChange
      have hact : removedAct i (word1 s answers q) (Run.start (appliedReport s answers q) (answers.drop 4)) =
          ((Run.start (appliedReport s answers q) (answers.drop 4)).setStation i old.emptied).raise
            .stationChange := by
        show ((Run.start (appliedReport s answers q) (answers.drop 4)).setStation i
          ((appliedReport s answers q).stations.get i).emptied).raise .stationChange = _
        rw [hst]
      rw [← hact, hst, if_neg hne] at hm
      obtain ⟨t, hx, ht⟩ := station_applied (hremoved hrow) ha hi
        (judgeRemoved_applied hi (by rw [hv.stations he]; exact hvacant) (by rw [hv.stations he]; exact hdisabled))
        (new := old.emptied) (change := true)
        (hm.at_state (by rw [State.reported, if_pos rfl, hst]))
        (by rw [hact, Run.raise_lanes]; exact Run.setStation_lanes_of_ne (by rw [← hst] at hne; exact hne))
        (by rw [hact]; exact (Run.setStation_rest _ _ _).trans (Run.raise_rest _ _)) (by simp) fun id hid => by
          simp only [List.nil_append, List.mem_append, List.mem_ite_nil_left, List.mem_singleton] at hid
          exact hid.imp_right And.right
      refine ⟨t, hx, ?_, ?_, ht.change.2 (.inr rfl), ?_, ht.others⟩
      · rw [← hst]
        exact ht.ended
      · rw [← hlanes]
        exact ht.lanes
      · rw [← hlanes]
        exact ht.flags

end Sys2Proof.Machine
end

section
/-! PROOF. The label that an ARRIVED brings to its station (R129, R133 to R136). -/

namespace Sys2Proof.Machine

open Sys2Proof.Claims

/-! ### The next generation (R136) -/

/-- An entry in use records a generation for a station. -/
def GenerationHeld (s : State) (i : Fin 8) (g : BitVec 8) : Prop :=
  ∃ j e d, s.entries.get j = some e ∧ e.dest = some d ∧ d.station = i ∧ d.generation = g

theorem State.generationHeld_iff {s : State} {i : Fin 8} {g : BitVec 8} :
    s.generationHeld i g = true ↔ GenerationHeld s i g := by
  simp only [State.generationHeld, Table.any_iff, Option.any_eq_true, Bool.and_eq_true, beq_iff_eq, GenerationHeld]
  exact ⟨fun ⟨j, e, he, d, hd, hi, hg⟩ => ⟨j, e, d, he, hd, hi, hg⟩, fun ⟨j, e, d, he, hd, hi, hg⟩ => ⟨j, e, he, d, hd, hi, hg⟩⟩

/-- The table cannot record 33 generations that follow each other. -/
theorem exists_generation_free (s : State) (i : Fin 8) (g : BitVec 8) :
    ∃ k < 33, ¬GenerationHeld s i (g + BitVec.ofNat 8 (k + 1)) := by
  by_contra hno
  push Not at hno
  choose f hf using fun k : Fin 33 => hno k.val k.isLt
  obtain ⟨a, b, hne, hab⟩ := Fintype.exists_ne_map_eq_of_card_lt f (by simp)
  obtain ⟨e, d, he, hd, -, hg⟩ := hf a
  obtain ⟨e', d', he', hd', -, hg'⟩ := hf b
  rw [← hab, he] at he'
  obtain rfl := Option.some.inj he'
  rw [hd] at hd'
  obtain rfl := Option.some.inj hd'
  have hsame := hg.symm.trans hg'
  have hval : (a.val + 1) % 256 = (b.val + 1) % 256 := by
    have := congrArg BitVec.toNat ((BitVec.add_right_inj _).1 hsame)
    simpa using this
  refine hne (Fin.ext ?_)
  omega

/-- The next generation is the first after the station's own that no entry records for it (R136). -/
theorem State.nextGeneration_step (s : State) (i : Fin 8) :
    ∃ step : Nat, 1 ≤ step ∧ step ≤ 33 ∧
      ¬GenerationHeld s i ((s.stations.get i).generation + BitVec.ofNat 8 step) ∧
      (∀ x, 1 ≤ x → x < step → GenerationHeld s i ((s.stations.get i).generation + BitVec.ofNat 8 x)) ∧
      s.nextGeneration i = (s.stations.get i).generation + BitVec.ofNat 8 step := by
  unfold State.nextGeneration
  simp only [List.find?_map]
  cases hfind : (List.range 33).find? ((fun x => !s.generationHeld i x) ∘
      fun k => (s.stations.get i).generation + BitVec.ofNat 8 (k + 1)) with
  | none =>
    obtain ⟨k, hk, hfree⟩ := exists_generation_free s i (s.stations.get i).generation
    have hheld := List.find?_eq_none.1 hfind k (List.mem_range.2 hk)
    simp only [Function.comp_apply, Bool.not_eq_true, Bool.not_eq_false', State.generationHeld_iff] at hheld
    exact absurd hheld hfree
  | some k =>
    obtain ⟨hfree, hk, hbefore⟩ := List.find?_range_eq_some.1 hfind
    simp only [Function.comp_apply, Bool.not_eq_true'] at hfree
    refine ⟨k + 1, by omega, by have := List.mem_range.1 hk; omega, ?_, fun x hx hlt => ?_, rfl⟩
    · rw [← State.generationHeld_iff, hfree]
      exact nofun
    · have := hbefore (x - 1) (by omega)
      simp only [Function.comp_apply, Bool.not_not, State.generationHeld_iff] at this
      rwa [Nat.sub_add_cancel hx] at this

/-! ### The types that match a label (R129, R135) -/

/-- The lowest place that passes a test is the one found. -/
theorem find?_finRange_least {n : Nat} {p : Fin n → Bool} {k : Fin n} (hk : p k = true)
    (hleast : ∀ j, p j = true → k ≤ j) : (List.finRange n).find? p = some k := by
  refine List.find?_eq_some_iff_getElem.2 ⟨hk, k.val, by simp, by simp, fun j hj => ?_⟩
  rw [List.getElem_finRange, Bool.not_eq_true']
  by_contra h
  have := hleast _ (Bool.not_eq_false _ ▸ h)
  exact absurd (Fin.le_def.1 this) (by simpa using hj)

/-- A Magazine Type Table entry matches a code (R129). -/
def Matches (s : State) (code : BitVec 8) (k : Fin 16) : Prop :=
  (s.magTypes.get k).isDefined = true ∧ (s.magTypes.get k).code = code

theorem State.mem_matching {s : State} {code : BitVec 8} {k : Fin 16} : k ∈ s.matching code ↔ Matches s code k := by
  simp [State.matching, Table.mem_indices, Matches]

theorem State.matching_isEmpty {s : State} {code : BitVec 8} :
    (s.matching code).isEmpty = true ↔ ∀ k, ¬Matches s code k := by
  rw [List.isEmpty_iff, List.eq_nil_iff_forall_not_mem]
  exact forall_congr' fun k => not_congr State.mem_matching

theorem State.matching_find?_none {s : State} {code : BitVec 8} {p : Fin 16 → Bool}
    (h : ∀ k, Matches s code k → p k = false) : (s.matching code).find? p = none :=
  List.find?_eq_none.2 fun k hk => by rw [h k (State.mem_matching.1 hk)]; exact nofun

theorem State.matching_find?_least {s : State} {code : BitVec 8} {p : Fin 16 → Bool} {k : Fin 16}
    (hm : Matches s code k) (hp : p k = true) (hleast : ∀ j, Matches s code j → p j = true → k ≤ j) :
    (s.matching code).find? p = some k := by
  have htest (j : Fin 16) : ((s.magTypes.get j).isDefined && (s.magTypes.get j).code == code && p j) = true ↔
      Matches s code j ∧ p j = true := by
    simp [Matches]
  rw [State.matching, Table.indices, List.find?_filter]
  have hdec : (fun a => decide (((s.magTypes.get a).isDefined && (s.magTypes.get a).code == code) = true ∧ p a = true)) =
      fun a => ((s.magTypes.get a).isDefined && (s.magTypes.get a).code == code && p a) := by
    funext a
    rw [Bool.eq_iff_iff]
    simp
  rw [hdec]
  exact find?_finRange_least ((htest k).2 ⟨hm, hp⟩) fun j hj => hleast j ((htest j).1 hj).1 ((htest j).1 hj).2

/-! ### What a label does (R134, R135) -/

section TakeLabel

variable {s : State} {i : Fin 8} {label : RawLabel}

theorem State.takeLabel_misread (h : label.crc ≠ label.check) (ha : (s.stations.get i).attempts + 1 < 4) :
    s.takeLabel i label = ({ s.stations.get i with
      label := some label, attempts := (s.stations.get i).attempts + 1, state := .identifying }, false) := by
  simp only [State.takeLabel, if_neg h, if_pos ha]

theorem State.takeLabel_unreadable (h : label.crc ≠ label.check) (ha : ¬(s.stations.get i).attempts + 1 < 4) :
    s.takeLabel i label = ({ s.stations.get i with
      label := some label, attempts := 4, state := .faulted .labelUnreadable }, true) := by
  simp only [State.takeLabel, if_neg h, if_neg ha]

theorem State.takeLabel_unknown (h : label.crc = label.check) (hno : ∀ k, ¬Matches s label.code k) :
    s.takeLabel i label = ({ s.stations.get i with
      label := some label, attempts := 0, state := .faulted .typeUnknown }, true) := by
  simp only [State.takeLabel, if_pos h, State.matching_find?_none fun k hk => absurd hk (hno k),
    State.matching_isEmpty.2 hno, if_true]

theorem State.takeLabel_barred (h : label.crc = label.check) (hsome : ∃ k, Matches s label.code k)
    (hno : ∀ k, Matches s label.code k → (s.stations.get i).mask.getLsbD k.val = false) :
    s.takeLabel i label = ({ s.stations.get i with
      label := some label, attempts := 0, state := .faulted .typeNotAllowed }, true) := by
  have hne : ¬(s.matching label.code).isEmpty = true := fun he => by
    obtain ⟨k, hk⟩ := hsome
    exact State.matching_isEmpty.1 he k hk
  simp only [State.takeLabel, if_pos h, State.matching_find?_none hno, if_neg hne]

theorem State.takeLabel_taken {k : Fin 16} (h : label.crc = label.check) (hk : Matches s label.code k)
    (hmask : (s.stations.get i).mask.getLsbD k.val = true)
    (hleast : ∀ j, Matches s label.code j → (s.stations.get i).mask.getLsbD j.val = true → k ≤ j) :
    s.takeLabel i label = ({ s.stations.get i with
      label := some label, attempts := 0, state := .ready, generation := s.nextGeneration i
      magazine := some ⟨k, label.serial, (s.magTypes.get k).pitch, label.inhibit != 0,
        List.replicate (s.magTypes.get k).slotCount .free⟩ }, true) := by
  simp only [State.takeLabel, if_pos h,
    State.matching_find?_least (p := fun k => (s.stations.get i).mask.getLsbD k.val) hk hmask hleast]

/-- A label changes its station. -/
theorem State.takeLabel_ne (hs : (s.stations.get i).state = .vacant ∨ (s.stations.get i).state = .identifying) :
    s.stations.get i ≠ (s.takeLabel i label).1 := by
  have hother {st : Station} (h : st.state ≠ .vacant) (h' : st.state ≠ .identifying) : s.stations.get i ≠ st :=
    fun he => hs.elim (fun e => h (he ▸ e)) fun e => h' (he ▸ e)
  unfold State.takeLabel
  simp only
  split
  · split
    · exact hother nofun nofun
    · exact hother nofun nofun
  · split
    · intro he
      have := congrArg Station.attempts he
      simp at this
    · exact hother nofun nofun

theorem State.takeLabel_congr {t : State} (hst : t.stations = s.stations) (hm : t.magTypes = s.magTypes)
    (he : t.entries = s.entries) : t.takeLabel i label = s.takeLabel i label := by
  have hgen : t.nextGeneration i = s.nextGeneration i := by
    simp only [State.nextGeneration, State.generationHeld, hst, he]
  have hmatch : t.matching label.code = s.matching label.code := by rw [State.matching, hm, State.matching]
  unfold State.takeLabel
  rw [hst, hm, hgen, hmatch]

end TakeLabel

theorem arrivedAct_eq (i : Fin 8) (w1 : Word) (r : Run) :
    arrivedAct i w1 r = if (r.st.takeLabel i (arrivedLabel w1)).2 = true then
      ((r.setStation i (r.st.takeLabel i (arrivedLabel w1)).1).image (.station i)).raise .stationChange
    else (r.setStation i (r.st.takeLabel i (arrivedLabel w1)).1).image (.station i) := rfl

/-- A label is taken by its station, with STATION_CHANGE or without (R134 to R136). -/
theorem Run.Made.arrived {r : Run} {u : State} {ids : List ImageId} (h : r.Made u ids) {i : Fin 8} {w1 : Word}
    {new : Station} {change : Bool} (hout : u.takeLabel i (arrivedLabel w1) = (new, change))
    (hne : u.stations.get i ≠ new) :
    ∃ more, (arrivedAct i w1 r).Made (u.reported i new change) (ids ++ more) ∧ .station i ∈ more ∧
      (∀ id ∈ more, id = .station i ∨ id = .status) ∧ (arrivedAct i w1 r).lanes = true ∧
      r.SameRest (arrivedAct i w1 r) := by
  have hm := (h.setStation i new).image (.station i)
  have hlanes : ((r.setStation i new).image (.station i)).lanes = true := by
    rw [Run.image_lanes]
    exact Run.setStation_lanes_of_ne (by rw [h.shape]; exact hne)
  have hrest := (r.setStation_rest i new).trans (Run.image_rest _ (.station i))
  rw [arrivedAct_eq, h.shape, hout, State.reported]
  cases change with
  | true =>
    refine ⟨_, (hm.raise .stationChange).congr fun id => by rw [List.append_assoc, List.append_assoc], by simp,
      fun id hid => ?_, (Run.raise_lanes _ _).trans hlanes, hrest.trans (Run.raise_rest _ _)⟩
    simp only [List.mem_append, List.mem_ite_nil_left, List.mem_singleton] at hid
    rcases hid with ⟨-, hid⟩ | hid | ⟨-, hid⟩
    · exact .inl hid
    · exact .inl hid
    · exact .inr hid
  | false =>
    refine ⟨_, hm.congr fun id => by rw [List.append_assoc], by simp, fun id hid => ?_, hlanes, hrest⟩
    simp only [List.mem_append, List.mem_ite_nil_left, List.mem_singleton] at hid
    exact .inl (hid.elim And.right fun h => h)

/-- Settles O41. -/
theorem arrivedLabelIsJudged : Obligations.ArrivedLabelIsJudged := by
  unfold Obligations.ArrivedLabelIsJudged
  intro s tag q answers i hp hrow ha hi old hstate hattempts label held matching u
  obtain ⟨p, he⟩ := serving_of_report hp
  have hv : s.Beside (s.waited answers 2) := s.waited_beside answers 2
  have hu : s.Beside u := appliedReport_beside s answers q
  have hst : u.stations = s.stations := hu.stations he
  have hlanes : u.lanes = s.lanes := hu.lanes he
  have hout : u.takeLabel i label = s.takeLabel i label := State.takeLabel_congr hst (hu.magTypes he) (hu.entries he)
  have hne : u.stations.get i ≠ (s.takeLabel i label).1 := by rw [hst]; exact State.takeLabel_ne hstate
  rcases hval : s.takeLabel i label with ⟨new, change⟩
  rw [hval] at hout hne
  obtain ⟨ids, hm, hin, hids, hl, hr⟩ :=
    (Run.Made.started ((hu.mode he).trans hp.guarded) (answers.drop 4)).arrived hout hne
  obtain ⟨t, hx, ht⟩ := station_applied (serves_arrived hp.inHand hp.cls (reportKind_of_arrived hrow)) ha hi
    (judgeArrived_applied hi (by rw [hv.stations he]; exact hstate)) hm hl hr hin hids
  have hget {x : Station × Bool} (h : s.takeLabel i label = x) :
      t.stations.get i = x.1 ∧ (t.flag .stationChange = true ↔ u.flag .stationChange = true ∨ x.2 = true) := by
    obtain rfl := hval.symm.trans h
    exact ⟨by rw [ht.stations, Table.get_set_self], ht.change⟩
  refine ⟨t, hx, ?_, fun k hk => ?_, ?_, ?_, ht.others, fun hcrc hlt => ?_, fun hcrc hlast => ?_, fun hcrc hno => ?_,
    fun hcrc hsome hno => ?_, fun k hcrc hk hmask hleast => ?_⟩
  · rw [ht.stations]
    exact ht.ended
  · rw [ht.stations, Table.get_set_ne _ _ hk, hst]
  · rw [← hlanes]
    exact ht.lanes
  · rw [← hlanes]
    exact ht.flags
  · obtain ⟨hnew, hchange⟩ := hget (State.takeLabel_misread hcrc hlt)
    exact ⟨hnew, by rw [Bool.eq_iff_iff, hchange]; simp⟩
  · have hlt : ¬(s.stations.get i).attempts + 1 < 4 := by
      show ¬old.attempts + 1 < 4
      omega
    obtain ⟨hnew, hchange⟩ := hget (State.takeLabel_unreadable hcrc hlt)
    exact ⟨hnew, hchange.2 (.inr rfl)⟩
  · obtain ⟨hnew, hchange⟩ := hget (State.takeLabel_unknown hcrc hno)
    exact ⟨hnew, hchange.2 (.inr rfl)⟩
  · obtain ⟨hnew, hchange⟩ := hget (State.takeLabel_barred hcrc hsome hno)
    exact ⟨hnew, hchange.2 (.inr rfl)⟩
  · obtain ⟨hnew, hchange⟩ := hget (State.takeLabel_taken hcrc hk hmask hleast)
    obtain ⟨step, hpos, hle, hfree, hbefore, hgen⟩ := s.nextGeneration_step i
    exact ⟨step, hpos, hle, hfree, hbefore, by rw [hnew, hgen], hchange.2 (.inr rfl)⟩

end Sys2Proof.Machine
end

section
/-! PROOF. The change of a board's record (R31, R49, R56, R70). -/

namespace Sys2Proof.Machine

open Sys2Proof.Claims

/-! ### The walker is told (R49, R56) -/

theorem State.behindSync_iff {s : State} {n : Nest} {i : Fin 64} {l : CacheLine} :
    s.behindSync n i l = true ↔
      ∃ j, s.walker = .running j ∧ j.job = .sync n ∧ (i.val < j.scan ∨ l.writeBack = true) := by
  unfold State.behindSync
  cases s.walker <;> simp

/-- The walker once a record of a nest has changed at a place of the cache. -/
def State.walkerTold (s : State) (n : Nest) (i : Fin 64) (l : CacheLine) : Walker :=
  if s.behindSync n i l then
    match s.walker with
    | .running j => .running { j with redirtied := true }
    | .idle => .idle
    | .waiting c => .waiting c
  else s.walker

theorem told_of_walker {u t : State} {b : BoardRef} {i : Fin 64} {l : CacheLine} (hi : u.lineOf b = some i)
    (hl : u.cache.get i = some l) (ht : t.walker = u.walkerTold b.nest i l) : Told u t (· = b) := by
  have hpassed (j : RunningJob) (hj : u.walker = .running j) : Passed u j b ↔ u.behindSync b.nest i l = true := by
    rw [State.behindSync_iff, Passed, hi]
    constructor
    · rintro ⟨hjob, i', l', hi', hl', h⟩
      cases hi'
      cases hl.symm.trans hl'
      exact ⟨j, hj, hjob, h⟩
    · rintro ⟨j', hj', hjob, h⟩
      cases hj.symm.trans hj'
      exact ⟨hjob, i, l, rfl, hl, h⟩
  refine ⟨?_, fun hno => ?_⟩
  · rintro j b' hj rfl hp
    rw [ht, State.walkerTold, if_pos ((hpassed j hj).1 hp), hj]
  · rw [ht, State.walkerTold, if_neg]
    intro hb
    obtain ⟨j, hj, -⟩ := State.behindSync_iff.1 hb
    exact hno j b hj rfl ((hpassed j hj).2 hb)

/-! ### The record, the cache and the nest -/

/-- A record at a place of the cache rewritten to given fields, with the time of the change. -/
def State.relined (u : State) (b : BoardRef) (i : Fin 64) (l : CacheLine) (h : BoardHw) : State :=
  { u with
    cache := u.cache.set i (some { l with words := l.words.withHw { h with time := u.time }, dirty := true })
    recency := i :: u.recency.erase i
    walker := u.walkerTold b.nest i l }

/-- A board's hardware fields changed; nothing where its record is not cached or the change is none. -/
def State.rewritten (u : State) (b : BoardRef) (f : BoardHw → BoardHw) : State :=
  match u.lineOf b with
  | none => u
  | some i =>
    match u.cache.get i with
    | none => u
    | some l =>
      if f l.words.hw = l.words.hw then u
      else State.withNest (u.relined b i l (f l.words.hw)) b.nest { u.nest b.nest with status := .dirty }

theorem State.rewritten_same {u : State} {b : BoardRef} {f : BoardHw → BoardHw}
    (h : ∀ l, u.cached b = some l → f l.words.hw = l.words.hw) : u.rewritten b f = u := by
  unfold State.rewritten
  split
  · rfl
  · next i hi =>
    split
    · rfl
    · next l hl => rw [if_pos (h l ((State.cached_of_lineOf hi).trans hl))]

theorem State.rewritten_changed {u : State} {b : BoardRef} {f : BoardHw → BoardHw} {i : Fin 64} {l : CacheLine}
    (hi : u.lineOf b = some i) (hl : u.cache.get i = some l) (hf : f l.words.hw ≠ l.words.hw) :
    u.rewritten b f =
      State.withNest (u.relined b i l (f l.words.hw)) b.nest { u.nest b.nest with status := .dirty } := by
  unfold State.rewritten
  simp only [hi, hl, if_neg hf]

theorem State.rewritten_shape (u : State) (b : BoardRef) (f : BoardHw → BoardHw) :
    u.rewritten b f = { u with
      cache := (u.rewritten b f).cache, recency := (u.rewritten b f).recency, walker := (u.rewritten b f).walker
      nestA := (u.rewritten b f).nestA, nestB := (u.rewritten b f).nestB } := by
  unfold State.rewritten
  split
  · rfl
  · split
    · rfl
    · split
      · rfl
      · cases b.nest <;> rfl

theorem State.relined_rewritten {u t : State} {b : BoardRef} {i : Fin 64} {l : CacheLine} {h : BoardHw}
    (hi : u.lineOf b = some i) (hl : u.cache.get i = some l) (hc : t.cache = (u.relined b i l h).cache)
    (hr : t.recency = (u.relined b i l h).recency) (hw : t.walker = (u.relined b i l h).walker) :
    Rewritten u t b l h := by
  obtain ⟨l', hl', hb⟩ := State.lineOf_some hi
  cases hl.symm.trans hl'
  have hcached (b' : BoardRef) : t.cached b' = if b' = b then
      some { l with words := l.words.withHw { h with time := u.time }, dirty := true } else u.cached b' := by
    rw [State.cached_congr (s := u.setLine i
      (some { l with words := l.words.withHw { h with time := u.time }, dirty := true })) hc]
    exact State.cached_setLine (l' := { l with words := l.words.withHw { h with time := u.time }, dirty := true }) hi hb b'
  refine ⟨(hcached b).trans (if_pos rfl), fun b' hb' => (hcached b').trans (if_neg hb'), fun j hj => ?_,
    told_of_walker hi hl hw⟩
  cases hi.symm.trans hj
  exact hr

/-- What a change of a cached board leaves (R31, R49, R56, R70). -/
theorem State.rewritten_of_cached {u : State} {b : BoardRef} {f : BoardHw → BoardHw} {l : CacheLine}
    (hl : u.cached b = some l) (hf : f l.words.hw ≠ l.words.hw) :
    Rewritten u (u.rewritten b f) b l (f l.words.hw) ∧
      ∀ n, (u.rewritten b f).nest n = if n = b.nest then { u.nest n with status := .dirty } else u.nest n := by
  obtain ⟨i, hi, hget, -⟩ := State.cached_some hl
  rw [State.rewritten_changed hi hget hf]
  have hshape : ∀ v : State, ∀ n c, (v.withNest n c).cache = v.cache ∧ (v.withNest n c).recency = v.recency ∧
      (v.withNest n c).walker = v.walker := fun v n c => by cases n <;> exact ⟨rfl, rfl, rfl⟩
  obtain ⟨hc, hr, hw⟩ := hshape (u.relined b i l (f l.words.hw)) b.nest { u.nest b.nest with status := .dirty }
  refine ⟨State.relined_rewritten hi hget hc hr hw, fun n => ?_⟩
  by_cases hn : n = b.nest
  · rw [if_pos hn, hn]
    exact State.nest_withNest_self _ _ _
  · rw [if_neg hn]
    rw [State.nest_withNest, if_neg hn]
    cases n <;> rfl

/-! ### What a change of a record turns on -/

/-- The part of the state that a change of a board's record reads and writes. -/
def State.records (s : State) :
    Table 64 (Option CacheLine) × List (Fin 64) × Walker × NestContext × NestContext × Time :=
  (s.cache, s.recency, s.walker, s.nestA, s.nestB, s.time)

theorem State.records_nest {u v : State} (h : v.records = u.records) (n : Nest) : v.nest n = u.nest n := by
  simp only [State.records, Prod.mk.injEq] at h
  obtain ⟨-, -, -, ha, hb, -⟩ := h
  cases n
  · exact ha
  · exact hb

/-- A state with the records of another. -/
theorem State.records_eq {u v : State} (h : v.records = u.records) :
    v = { v with
      cache := u.cache, recency := u.recency, walker := u.walker, nestA := u.nestA, nestB := u.nestB, time := u.time } := by
  simp only [State.records, Prod.mk.injEq] at h
  obtain ⟨hc, hr, hw, ha, hb, ht⟩ := h
  rw [← hc, ← hr, ← hw, ← ha, ← hb, ← ht]

theorem State.rewritten_records {u v : State} (h : v.records = u.records) (b : BoardRef) (f : BoardHw → BoardHw) :
    (v.rewritten b f).records = (u.rewritten b f).records := by
  have hcache : v.cache = u.cache := congrArg Prod.fst h
  have hline : v.lineOf b = u.lineOf b := State.lineOf_congr hcache b
  by_cases hsame : ∀ l, u.cached b = some l → f l.words.hw = l.words.hw
  · rw [State.rewritten_same hsame, State.rewritten_same fun l hl => hsame l (State.cached_congr hcache b ▸ hl), h]
  · push Not at hsame
    obtain ⟨l, hl, hf⟩ := hsame
    obtain ⟨i, hi, hget, -⟩ := State.cached_some hl
    rw [State.rewritten_changed hi hget hf, State.rewritten_changed (hline.trans hi) (hcache ▸ hget) hf,
      State.records_eq h]
    cases b.nest <;> rfl

theorem rewritten_congr {u u' t t' : State} {b : BoardRef} {l : CacheLine} {x : BoardHw}
    (hu : u'.records = u.records) (ht : t'.records = t.records) (h : Rewritten u t b l x) : Rewritten u' t' b l x := by
  simp only [State.records, Prod.mk.injEq] at hu ht
  obtain ⟨hc, hr, hw, -, -, htime⟩ := hu
  obtain ⟨hc', hr', hw', -, -, -⟩ := ht
  have hpassed (j : RunningJob) (b : BoardRef) : Passed u' j b ↔ Passed u j b := by
    rw [Passed, Passed, State.lineOf_congr hc, hc]
  refine ⟨?_, fun b' hb' => ?_, fun i hi => ?_, ?_, fun hno => ?_⟩
  · rw [State.cached_congr hc', htime]
    exact h.board
  · rw [State.cached_congr hc', State.cached_congr hc]
    exact h.others b' hb'
  · rw [State.lineOf_congr hc] at hi
    rw [hr', hr]
    exact h.recency i hi
  · intro j b' hj hb' hp
    rw [hw] at hj
    rw [hw']
    exact h.walker.passed j b' hj hb' ((hpassed j b').1 hp)
  · rw [hw', hw]
    refine h.walker.still fun j b' hj hb' hp => ?_
    rw [← hw] at hj
    exact hno j b' hj hb' ((hpassed j b').2 hp)

/-- What a change of a cached board leaves in a state with its records. -/
theorem rewritten_of_records {u t : State} {b : BoardRef} {f : BoardHw → BoardHw} {l : CacheLine}
    (ht : t.records = (u.rewritten b f).records) (hl : u.cached b = some l) (hf : f l.words.hw ≠ l.words.hw) :
    Rewritten u t b l (f l.words.hw) ∧
      ∀ n, t.nest n = if n = b.nest then { u.nest n with status := .dirty } else u.nest n := by
  obtain ⟨hr, hn⟩ := State.rewritten_of_cached hl hf
  exact ⟨rewritten_congr rfl ht hr, fun n => (State.records_nest ht n).trans (hn n)⟩

/-- A board that a change has made UNCERTAIN (R27, R30). -/
theorem lost_of_records {u t : State} {b : BoardRef} {cause : LastCause}
    (ht : t.records = (u.rewritten b (BoardHw.lostTrack cause)).records) : Lost u t b cause := by
  refine ⟨fun l hl hne => rewritten_of_records ht hl hne, fun hsame => ?_⟩
  rw [State.rewritten_same (f := BoardHw.lostTrack cause) hsame] at ht
  have hn := State.records_nest ht
  simp only [State.records, Prod.mk.injEq] at ht
  obtain ⟨hc, hr, hw, -, -, -⟩ := ht
  exact ⟨hc, hr, hw, hn⟩

/-! ### The run of a change -/

theorem Run.Spares.changeBoard (r : Run) (b : BoardRef) (f : BoardHw → BoardHw) : r.Spares (r.changeBoard b f) := by
  unfold Run.changeBoard
  split
  · exact .refl r
  · split
    · exact .refl r
    · simp only
      split
      · exact .refl r
      · split
        · exact ((Spares.modify r _).trans (.modify _ _)).trans (.setNest _ _ _)
        · exact (Spares.modify r _).trans (.setNest _ _ _)

theorem Run.changeBoard_eq {r : Run} {b : BoardRef} {f : BoardHw → BoardHw} {i : Fin 64} {l : CacheLine}
    (hi : r.st.lineOf b = some i) (hl : r.st.cache.get i = some l) (hf : f l.words.hw ≠ l.words.hw) :
    r.changeBoard b f = (r.modify fun s => s.relined b i l (f l.words.hw)).setNest b.nest
      { r.st.nest b.nest with status := .dirty } := by
  unfold Run.changeBoard
  simp only [hi, hl, if_neg hf]
  have hnest (v : State) (ha : v.nestA = r.st.nestA) (hb : v.nestB = r.st.nestB) :
      v.nest b.nest = r.st.nest b.nest := by
    cases b.nest
    · exact ha
    · exact hb
  split
  · next hs =>
    have hs : r.st.behindSync b.nest i l = true := hs
    obtain ⟨j, hj, -⟩ := State.behindSync_iff.1 hs
    simp only [Run.modify, State.relined, State.walkerTold, hs, State.touch, State.setLine, State.redirty, hj,
      if_true]
    rw [hnest _ rfl rfl]
    rfl
  · next hs =>
    have hs : ¬r.st.behindSync b.nest i l = true := hs
    simp only [Run.modify, State.relined, State.walkerTold, if_neg hs, State.touch, State.setLine]
    rw [hnest _ rfl rfl]
    rfl

/-- A board's record changes, and the summary of its nest is queued if its status changed (R31, R49, R70). -/
theorem Run.Made.changeBoard {r : Run} {u : State} {ids : List ImageId} (h : r.Made u ids) (b : BoardRef)
    (f : BoardHw → BoardHw) :
    ∃ more, (r.changeBoard b f).Made (u.rewritten b f) (ids ++ more) ∧ ∀ id ∈ more, id = .nest b.nest := by
  cases hi : u.lineOf b with
  | none => exact ⟨[], by simpa [Run.changeBoard, State.rewritten, h.shape, hi] using h, by simp⟩
  | some i =>
    obtain ⟨l, hl, -⟩ := State.lineOf_some hi
    by_cases hf : f l.words.hw = l.words.hw
    · have hsame : u.rewritten b f = u := State.rewritten_same fun l' hl' => by
        rw [State.cached_of_lineOf hi, hl] at hl'
        cases hl'
        exact hf
      rw [hsame]
      exact ⟨[], by simpa [Run.changeBoard, h.shape, hi, hl, hf] using h, by simp⟩
    · have hm := (h.modify (f := fun s => s.relined b i l (f l.words.hw)) h.guarded).setNest b.nest
        { u.nest b.nest with status := .dirty }
      rw [Run.changeBoard_eq (h.shape ▸ hi) (h.shape ▸ hl) hf, h.shape, State.rewritten_changed hi hl hf]
      refine ⟨_, hm, fun id hid => ?_⟩
      simp only [List.mem_ite_nil_left, List.mem_singleton] at hid
      exact hid.2

end Sys2Proof.Machine
end

section
/-! PROOF. The lanes of a request that changes them before it re-evaluates them (R144 to R146, R149). -/

namespace Sys2Proof.Machine

open Sys2Proof.Claims

/-- A lane as an ended pair or a collision leaves it: it runs on or is PAUSED, and its stop request stands unless
it is STOPPED. -/
def Lane.Eases (old new : Lane) : Prop :=
  (new.state = old.state ∨ new.state = .paused) ∧ (new.stop = old.stop ∨ (new.stop = none ∧ new.state = .stopped))

theorem Lane.eases_refl (l : Lane) : l.Eases l := ⟨.inl rfl, .inl rfl⟩

theorem reevaluated_of_still {s : State} {l : Lane} (h : l.state = .stopped ∨ l.state = .paused) :
    reevaluated s l = l := by
  unfold reevaluated
  rcases h with h | h <;> simp only [h]

theorem Lane.eases_announces {s : State} {old mid : Lane} (h : old.Eases mid) :
    (old.Announces mid ∨ mid.Announces (reevaluated s mid)) ↔ old.Announces (reevaluated s mid) := by
  obtain ⟨-, hstop⟩ := h
  constructor
  · rintro (⟨ho, hm, hs⟩ | ⟨hm, hn, hs⟩)
    · rw [reevaluated_of_still (.inl hs)]
      exact ⟨ho, hm, hs⟩
    · refine ⟨fun e => hm ?_, hn, hs⟩
      rcases hstop with e' | ⟨e', -⟩
      · rw [e', e]
      · exact e'
  · rintro ⟨ho, hn, hs⟩
    by_cases hm : mid.stop = none
    · refine .inl ⟨ho, hm, ?_⟩
      rcases hstop with e | ⟨-, e⟩
      · exact absurd (e.symm.trans hm) ho
      · exact e
    · exact .inr ⟨hm, hn, hs⟩

theorem Lane.eases_exhausts {s : State} {old mid : Lane} (h : old.Eases mid) :
    (old.Exhausts mid ∨ mid.Exhausts (reevaluated s mid)) ↔ old.Exhausts (reevaluated s mid) := by
  obtain ⟨hstate | hstate, -⟩ := h
  · have hno : ¬old.Exhausts mid := fun ⟨ho, hm⟩ => ho (hstate ▸ hm)
    simp only [hno, false_or]
    unfold Lane.Exhausts
    rw [hstate]
  · rw [reevaluated_of_still (.inr hstate)]
    exact ⟨fun h => h.elim id fun h => absurd h (Lane.not_exhausts mid), .inl⟩

/-- The flags of lanes that change in a request and are re-evaluated at its end. -/
theorem laneFlags_settled {u y z : State} {old : Fin 16 → Lane} (h : LaneFlags u y old)
    (hs : ∀ k, (old k).Eases (y.lanes.get k)) (k : LaneFlags y z y.lanes.get)
    (hz : ∀ k, z.lanes.get k = reevaluated y (y.lanes.get k)) : LaneFlags u z old := by
  obtain ⟨hstop, hex⟩ := laneFlags_iff.1 h
  obtain ⟨kstop, kex⟩ := laneFlags_iff.1 k
  refine laneFlags_iff.2 ⟨?_, ?_⟩
  · rw [kstop, hstop, or_assoc, ← exists_or]
    simp only [hz, Lane.eases_announces (hs _)]
  · rw [kex, hex, or_assoc, ← exists_or]
    simp only [hz, Lane.eases_exhausts (hs _)]

theorem laneFlags_congr {u u' t t' : State} {old : Fin 16 → Lane} (h : LaneFlags u t old)
    (hu : ∀ f : Flag, f = .laneStopped ∨ f = .laneExhausted → u'.flag f = u.flag f)
    (ht : ∀ f : Flag, f = .laneStopped ∨ f = .laneExhausted → t'.flag f = t.flag f) (hl : t'.lanes = t.lanes) :
    LaneFlags u' t' old := by
  obtain ⟨hstop, hex⟩ := laneFlags_iff.1 h
  exact laneFlags_iff.2 ⟨by rw [ht _ (.inl rfl), hu _ (.inl rfl), hl, hstop],
    by rw [ht _ (.inr rfl), hu _ (.inr rfl), hl, hex]⟩

theorem noticed_stop (l : Lane) : (noticed l).stop = l.stop ∨ ((noticed l).stop = none ∧ l.state = .stopped) := by
  unfold noticed
  split
  · exact .inl rfl
  · split
    · next h => exact .inr ⟨rfl, h.1⟩
    · exact .inl rfl

theorem Lane.eases_unloaded (l : Lane) : l.Eases (unloaded l) := by
  refine ⟨.inl (by rw [unloaded, noticed_state]), ?_⟩
  have hs : (unloaded l).state = l.state := by rw [unloaded, noticed_state]
  rw [hs]
  exact noticed_stop { l with pending := l.pending - 1 }

/-- A pair of a lane has ended its flight (R145, R146). -/
theorem Run.Made.pairEnded {r : Run} {u : State} {ids : List ImageId} (h : r.Made u ids) (i : Fin 16) :
    ∃ z more, (r.pairEnded i).Made z (ids ++ more) ∧ Relaned u z more ∧
      z.lanes = u.lanes.set i (unloaded (u.lanes.get i)) := by
  have hm := (h.announce i { u.lanes.get i with pending := (u.lanes.get i).pending - 1 }).touchLanes
  unfold Run.pairEnded Run.setPending
  rw [h.shape]
  exact ⟨_, _, hm.congr fun id => by rw [List.append_assoc],
    relaned_announce u i (l := { u.lanes.get i with pending := (u.lanes.get i).pending - 1 }) rfl fun h => h, rfl⟩

theorem Run.pairEnded_rest (r : Run) (i : Fin 16) : r.SameRest (r.pairEnded i) ∧ (r.pairEnded i).lanes = true :=
  ⟨(Run.Spares.announce r i _).rest.touch, rfl⟩

end Sys2Proof.Machine
end

section
/-! PROOF. The expiry of an entry (R110 to R113, R138, R145, R146). -/

namespace Sys2Proof.Machine

open Sys2Proof.Claims

theorem Table.set_comm {n : Nat} {α : Type} (t : Table n α) {i j : Fin n} (h : i ≠ j) (a b : α) :
    (t.set i a).set j b = (t.set j b).set i a := by
  refine Table.ext_get fun k => ?_
  rw [Table.get_set, Table.get_set, Table.get_set, Table.get_set]
  by_cases hi : k = i
  · rw [if_neg (hi ▸ h), if_pos hi, if_pos hi]
  · rw [if_neg hi, if_neg hi]

/-- What a run owes at its end beyond what it owed: events, and the lanes where they are touched. -/
structure Run.Owes (r r' : Run) (evs : List Event) (touched : Bool) : Prop where
  answers : r'.answers = r.answers
  empties : r'.empties = r.empties
  events  : r'.events = r.events ++ evs
  lanes   : r'.lanes = (r.lanes || touched)

theorem Run.Spares.owes {r r' : Run} (h : r.Spares r') : r.Owes r' [] false :=
  ⟨h.rest.answers, h.rest.empties, h.rest.events.trans (List.append_nil _).symm,
    h.lanes.trans (Bool.or_false _).symm⟩

theorem Run.Owes.trans {a b c : Run} {e e' : List Event} {x y : Bool} (h : a.Owes b e x) (k : b.Owes c e' y) :
    a.Owes c (e ++ e') (x || y) :=
  ⟨k.answers.trans h.answers, k.empties.trans h.empties, by rw [k.events, h.events, List.append_assoc],
    by rw [k.lanes, h.lanes, Bool.or_assoc]⟩

theorem Run.Owes.keepEvent {r r' : Run} {evs : List Event} {x : Bool} (h : r.Owes r' evs x) (ev : Event) :
    r.Owes (r'.keepEvent ev) (evs ++ [ev]) x :=
  ⟨h.answers, h.empties, by rw [Run.keepEvent, h.events, List.append_assoc], h.lanes⟩

/-! ### A CUT, PICK or DISCARD expires (R111) -/

/-- An entry has been marked EXPIRED, and is due no longer (R111). -/
def State.marked (u : State) (i : Fin 32) (e : Entry) (cause : ExpiryCause) : State :=
  { u with entries := u.entries.set i (some { e with state := .expired cause }), due := u.due.erase i }

theorem Run.Made.markExpired {r : Run} {u : State} {ids : List ImageId} (h : r.Made u ids) (i : Fin 32) (e : Entry)
    (cause : ExpiryCause) : (r.markExpired i e cause).Made (u.marked i e cause) (ids ++ [.entry i]) :=
  (h.modify (f := fun s => { s with due := s.due.erase i }) h.guarded).setEntry i _

theorem Run.Spares.markExpired (r : Run) (i : Fin 32) (e : Entry) (cause : ExpiryCause) :
    r.Spares (r.markExpired i e cause) := (Spares.modify r _).trans (.setEntry _ _ _)

/-- A cup is SUSPECT, if one is named. -/
def State.suspected (u : State) (c : Option (Fin 4)) : State :=
  match c with
  | none => u
  | some c => { u with cups := u.cups.set c { u.cups.get c with state := .suspect } }

theorem Run.Made.suspectCup {r : Run} {u : State} {ids : List ImageId} (h : r.Made u ids) (c : Option (Fin 4)) :
    ∃ more, (r.suspectCup c).Made (u.suspected c) (ids ++ more) ∧ ∀ id ∈ more, id ∈ c.toList.map ImageId.cup := by
  cases c with
  | none => exact ⟨[], h.congr (by simp), by simp⟩
  | some c =>
    unfold Run.suspectCup
    rw [h.shape]
    refine ⟨_, h.setCup c _, fun id hid => ?_⟩
    simp only [List.mem_ite_nil_left, List.mem_singleton] at hid
    simp [hid.2]

theorem Run.Spares.suspectCup (r : Run) (c : Option (Fin 4)) : r.Spares (r.suspectCup c) := by
  cases c with
  | none => exact .refl r
  | some c => exact .setCup r c _

/-- An entry of kind CUT, PICK or DISCARD has expired in `u`, its board with it (R111). -/
structure SingleExpired (u y : State) (i : Fin 32) (e : Entry) (cause : ExpiryCause) : Prop where
  shape   : y = { expiredSingle u i e cause with
    cache := y.cache, recency := y.recency, walker := y.walker, nestA := y.nestA, nestB := y.nestB }
  records : y.records = (u.rewritten e.board (BoardHw.lostTrack cause.lastCause)).records

/-- The event of the expiry of a CUT, PICK or DISCARD (R111, R113). -/
def singleEvent (i : Fin 32) (e : Entry) (cause : ExpiryCause) : Event :=
  ⟨if e.kind = .cut then .router else .picker, cause.cause, none, none, expiryRefs e i e.cup⟩

theorem Entry.refs_eq (e : Entry) (i : Fin 32) (c : Option (Fin 4)) : e.refs i c = expiryRefs e i c := rfl

theorem Run.expireSingle_owes (r : Run) (i : Fin 32) (e : Entry) (cause : ExpiryCause) :
    r.Owes (r.expireSingle i e cause) [singleEvent i e cause] false := by
  have hs := ((((Run.Spares.markExpired r i e cause).trans (.suspectCup _ e.cup)).trans
    (.changeBoard _ e.board (BoardHw.lostTrack cause.lastCause))).trans (.image _ (.nest e.board.nest))).trans
      (.raise _ .uncertain)
  have hev : (⟨if e.kind == .cut then .router else .picker, cause.cause, none, none, e.refs i e.cup⟩ : Event) =
      singleEvent i e cause := by
    simp only [singleEvent, Entry.refs_eq, beq_iff_eq]
  rw [← hev]
  exact hs.owes.keepEvent _

theorem State.suspected_marked (u : State) (i : Fin 32) (e : Entry) (cause : ExpiryCause) :
    (u.marked i e cause).suspected e.cup = { expiredSingle u i e cause with flags := u.flags } := by
  have hcups (v : State) (c : Option (Fin 4)) : v.suspected c = { v with
      cups := match c with
        | none => v.cups
        | some c => v.cups.set c { v.cups.get c with state := .suspect } } := by cases c <;> rfl
  rw [hcups]
  rfl

theorem Run.Made.expireSingle {r : Run} {u : State} {ids : List ImageId} (h : r.Made u ids) (i : Fin 32) (e : Entry)
    (cause : ExpiryCause) :
    ∃ y more, (r.expireSingle i e cause).Made y (ids ++ more) ∧ SingleExpired u y i e cause ∧
      .entry i ∈ more ∧ .nest e.board.nest ∈ more ∧
      ∀ id ∈ more, id ∈ .entry i :: .nest e.board.nest :: .status :: e.cup.toList.map ImageId.cup := by
  obtain ⟨cupIds, hm, hcup⟩ := (h.markExpired i e cause).suspectCup e.cup
  obtain ⟨nestIds, hm, hnest⟩ := hm.changeBoard e.board (BoardHw.lostTrack cause.lastCause)
  have hm := ((hm.image (.nest e.board.nest)).raise .uncertain).rest (r' := r.expireSingle i e cause) rfl rfl
  have hrec := State.rewritten_records (u := u) (v := (u.marked i e cause).suspected e.cup)
    (by cases e.cup <;> rfl) e.board (BoardHw.lostTrack cause.lastCause)
  have hshape := State.rewritten_shape ((u.marked i e cause).suspected e.cup) e.board
    (BoardHw.lostTrack cause.lastCause)
  generalize State.rewritten ((u.marked i e cause).suspected e.cup) e.board
    (BoardHw.lostTrack cause.lastCause) = v at hm hrec hshape
  refine ⟨_, _, hm.congr fun id => by simp only [List.append_assoc]; rfl, ⟨?_, hrec⟩, by simp, by simp, ?_⟩
  · rw [hshape, State.suspected_marked]
    rfl
  · intro id hid
    simp only [List.mem_append, List.mem_cons, List.mem_ite_nil_left, List.not_mem_nil, or_false] at hid ⊢
    rcases hid with hid | hid | hid | hid | hid
    · exact .inl hid
    · exact .inr (.inr (.inr (hcup id hid)))
    · exact .inr (.inl (hnest id hid))
    · exact .inr (.inl hid)
    · exact .inr (.inr (.inl hid.2))

/-! ### A pair expires (R112) -/

/-- An entry of a pair, with the other one: the PLACE with the PRESENT, or the PRESENT with the PLACE. -/
structure Half (p r : Fin 32) (place present : Entry) (i j : Fin 32) (e f : Entry) : Prop where
  either : (i = p ∧ e = place ∧ j = r ∧ f = present) ∨ (i = r ∧ e = present ∧ j = p ∧ f = place)

theorem half_of_one {p r i : Fin 32} {place present e : Entry}
    (h : (i = p ∧ e = place) ∨ (i = r ∧ e = present)) : ∃ j f, Half p r place present i j e f := by
  rcases h with ⟨rfl, rfl⟩ | ⟨rfl, rfl⟩
  · exact ⟨r, present, ⟨.inl ⟨rfl, rfl, rfl, rfl⟩⟩⟩
  · exact ⟨p, place, ⟨.inr ⟨rfl, rfl, rfl, rfl⟩⟩⟩

section OfPair

variable {u : State} {p r i j : Fin 32} {place present e f : Entry} {d : Destination} {c : Fin 4}

theorem partnerOf_pair (h : Pair u p r place present d c) (hh : Half p r place present i j e f) :
    u.partnerOf e = some (j, f) := by
  obtain ⟨⟨rfl, rfl, rfl, rfl⟩ | ⟨rfl, rfl, rfl, rfl⟩⟩ := hh
  · simp [State.partnerOf, h.linked.1, h.atPresent]
  · simp [State.partnerOf, h.linked.2, h.atPlace]

theorem pairCup_pair (h : Pair u p r place present d c) (hh : Half p r place present i j e f) :
    u.pairCup e = some c := by
  have hpartner := partnerOf_pair h hh
  obtain ⟨⟨rfl, rfl, rfl, rfl⟩ | ⟨rfl, rfl, rfl, rfl⟩⟩ := hh
  · simp [State.pairCup, h.kinds.1, h.cup.1]
  · simp [State.pairCup, h.kinds.2, hpartner, h.cup.1]

theorem missingSource_pair (h : Pair u p r place present d c) (hh : Half p r place present i j e f) :
    u.missingSource e = missing place := by
  have hpartner := partnerOf_pair h hh
  obtain ⟨⟨rfl, rfl, rfl, rfl⟩ | ⟨rfl, rfl, rfl, rfl⟩⟩ := hh
  · cases hs : e.stored <;> simp [State.missingSource, missing, h.kinds.1, hs]
  · cases hs : f.stored <;> simp [State.missingSource, missing, h.kinds.2, hpartner, hs]

theorem dest_pair (h : Pair u p r place present d c) (hh : Half p r place present i j e f) : e.dest = some d := by
  obtain ⟨⟨rfl, rfl, rfl, rfl⟩ | ⟨rfl, rfl, rfl, rfl⟩⟩ := hh
  · exact h.dest.1
  · exact h.dest.2

theorem board_pair (h : Pair u p r place present d c) (hh : Half p r place present i j e f) :
    e.board = place.board := by
  obtain ⟨⟨rfl, rfl, rfl, rfl⟩ | ⟨rfl, rfl, rfl, rfl⟩⟩ := hh
  · rfl
  · exact h.board

theorem atHalf (h : Pair u p r place present d c) (hh : Half p r place present i j e f) :
    u.entries.get i = some e ∧ u.entries.get j = some f := by
  obtain ⟨⟨rfl, rfl, rfl, rfl⟩ | ⟨rfl, rfl, rfl, rfl⟩⟩ := hh
  · exact ⟨h.atPlace, h.atPresent⟩
  · exact ⟨h.atPresent, h.atPlace⟩

/-- Both entries of a pair have been marked EXPIRED. -/
theorem State.marked_pair (h : Pair u p r place present d c) (hh : Half p r place present i j e f)
    (cause : ExpiryCause) : (u.marked i e cause).marked j f cause = { u with
      entries := (u.entries.set p (some { place with state := .expired cause })).set r
        (some { present with state := .expired cause })
      due := (u.due.erase p).erase r } := by
  obtain ⟨⟨rfl, rfl, rfl, rfl⟩ | ⟨rfl, rfl, rfl, rfl⟩⟩ := hh
  · rfl
  · unfold State.marked
    rw [Table.set_comm _ h.distinct.symm, List.erase_comm]

end OfPair

/-- The station of an expired pair: its assigned slot is SUSPECT while the pair's magazine is in place (R112). -/
def State.pairStation (u : State) (d : Destination) : Station :=
  match (u.stations.get d.station).magazine with
  | none => u.stations.get d.station
  | some m =>
    if (u.stations.get d.station).generation = d.generation then
      reslotted (u.stations.get d.station) m (m.slots.set d.slot .suspect)
    else u.stations.get d.station

/-- The assigned slot of a pair becomes SUSPECT while the pair's magazine is in place (R112). -/
def Run.suspectSlot (r : Run) (d : Destination) : Run :=
  if r.st.inPlace d then r.setSlots d.station fun slots => slots.set d.slot .suspect else r

theorem State.restationed_same (u : State) (i : Fin 8) : u.restationed i (u.stations.get i) = u := by
  rw [State.restationed, Table.set_get_self, if_neg fun h => h.2 h.1]

theorem State.pairStation_inPlace {u : State} {d : Destination} (h : u.inPlace d = true) :
    (u.stations.get d.station).withSlots ((u.stations.get d.station).slots.set d.slot .suspect) = u.pairStation d := by
  simp only [State.inPlace, Bool.and_eq_true, beq_iff_eq, Option.isSome_iff_exists] at h
  obtain ⟨⟨m, hm⟩, hg⟩ := h
  rw [Station.slots_of_magazine hm, Station.withSlots_eq hm]
  simp only [State.pairStation, hm, if_pos hg]

theorem State.pairStation_gone {u : State} {d : Destination} (h : ¬u.inPlace d = true) :
    u.pairStation d = u.stations.get d.station := by
  unfold State.pairStation
  split
  · rfl
  · next m hm => exact if_neg fun hg => h (by simp [State.inPlace, hm, hg])

theorem Run.Made.suspectSlot {r : Run} {u : State} {ids : List ImageId} (h : r.Made u ids) (d : Destination) :
    ∃ more, (r.suspectSlot d).Made (u.restationed d.station (u.pairStation d)) (ids ++ more) := by
  unfold Run.suspectSlot
  rw [h.shape]
  by_cases hin : u.inPlace d = true
  · obtain ⟨more, hm, -⟩ := h.setSlots d.station (fun slots => slots.set d.slot .suspect)
      (State.pairStation_inPlace hin)
    rw [if_pos hin]
    exact ⟨more, hm⟩
  · rw [if_neg hin, State.pairStation_gone hin, State.restationed_same]
    exact ⟨[], h.congr (by simp)⟩

/-- What the expiry of a pair does, but for its event (R112). -/
def Run.expireBoth (r : Run) (i j : Fin 32) (e f : Entry) (d : Destination) (c : Fin 4) (cause : ExpiryCause) : Run :=
  ((((((((r.markExpired i e cause).markExpired j f cause).suspectCup (some c)).changeBoard e.board
    (BoardHw.lostTrack cause.lastCause)).image (.nest e.board.nest)).suspectSlot d).pairEnded d.lane).raise .uncertain)

/-- The event of the expiry of a pair through one of its entries (R112, R113). -/
def pairEvent (place : Entry) (i : Fin 32) (e : Entry) (c : Fin 4) (cause : ExpiryCause) : Event :=
  ⟨missing place, cause.cause, none, none, expiryRefs e i (some c)⟩

theorem Run.expirePair_eq {run : Run} {p r i j : Fin 32} {place present e f : Entry} {d : Destination} {c : Fin 4}
    (h : Pair run.st p r place present d c) (hh : Half p r place present i j e f) (cause : ExpiryCause) :
    run.expirePair i e cause = (run.expireBoth i j e f d c cause).keepEvent (pairEvent place i e c cause) := by
  unfold Run.expirePair
  simp only [partnerOf_pair h hh, pairCup_pair h hh, missingSource_pair h hh, dest_pair h hh]
  rfl

/-- A pair has expired in `u`, its board, its station and its lane with it (R112). -/
structure PairExpired (u y : State) (p r : Fin 32) (place present : Entry) (d : Destination) (c : Fin 4)
    (cause : ExpiryCause) : Prop where
  shape     : y = { expiredPair u p r place present d c cause with
    lanes := u.lanes.set d.lane (unloaded (u.lanes.get d.lane))
    flags := y.flags, cache := y.cache, recency := y.recency, walker := y.walker
    nestA := y.nestA, nestB := y.nestB }
  records   : y.records = (u.rewritten place.board (BoardHw.lostTrack cause.lastCause)).records
  uncertain : y.flag .uncertain = true
  station   : y.flag .stationChange = true ↔ u.flag .stationChange = true ∨
    ((y.stations.get d.station).state = .full ∧ (u.stations.get d.station).state ≠ .full)
  laneFlags : LaneFlags u y u.lanes.get
  others    : FlagsBut u y [.uncertain, .stationChange, .laneStopped]

theorem Run.expireBoth_owes (r : Run) (i j : Fin 32) (e f : Entry) (d : Destination) (c : Fin 4)
    (cause : ExpiryCause) : r.Owes (r.expireBoth i j e f d c cause) [] true := by
  have hs := (((((Run.Spares.markExpired r i e cause).trans (.markExpired _ j f cause)).trans
    (.suspectCup _ (some c))).trans (.changeBoard _ e.board (BoardHw.lostTrack cause.lastCause))).trans
      (.image _ (.nest e.board.nest))).rest
  have hslot (r : Run) : r.SameRest (r.suspectSlot d) := by
    unfold Run.suspectSlot
    split
    · exact Run.setSlots_rest _ _ _
    · exact .refl r
  have hs := ((hs.trans (hslot _)).trans (Run.pairEnded_rest _ d.lane).1).trans (Run.raise_rest _ .uncertain)
  refine ⟨hs.answers, hs.empties, hs.events.trans (List.append_nil _).symm, ?_⟩
  rw [Run.expireBoth, Run.raise_lanes, (Run.pairEnded_rest _ d.lane).2, Bool.or_true]

theorem pairStation_eq {u v : State} (h : v.stations = u.stations) (d : Destination) :
    v.pairStation d = u.pairStation d := by
  unfold State.pairStation
  rw [h]

theorem unloaded_not_exhausts (l : Lane) : ¬l.Exhausts (unloaded l) := fun ⟨h, h'⟩ =>
  h (by rwa [unloaded, noticed_state] at h')

/-- The flags of a pair's expiry, from those of its station and its lane. -/
theorem Relaned.expired_flags {u v z : State} {d : Destination} {new : Station} {more : List ImageId}
    (hf : v.flags = u.flags) (hl : v.lanes = u.lanes) (hs : v.stations = u.stations)
    (hz : Relaned (v.restationed d.station new) z more)
    (hlanes : z.lanes = v.lanes.set d.lane (unloaded (v.lanes.get d.lane))) {y : State}
    (hy : y.flags = z.flags ||| Flag.uncertain.bits) (hyl : y.lanes = z.lanes) (hys : y.stations = z.stations) :
    y.flag .uncertain = true ∧
      (y.flag .stationChange = true ↔ u.flag .stationChange = true ∨
        ((y.stations.get d.station).state = .full ∧ (u.stations.get d.station).state ≠ .full)) ∧
      LaneFlags u y u.lanes.get ∧ FlagsBut u y [.uncertain, .stationChange, .laneStopped] := by
  have hflag (f : Flag) : y.flag f = true ↔ z.flag f = true ∨ f = .uncertain := State.flag_raised hy f
  have hv (f : Flag) : v.flag f = u.flag f := State.flag_congr hf f
  have hstation (f : Flag) := v.restationed_flag d.station new f
  have hnew : y.stations.get d.station = new := by
    rw [hys, hz.stations]
    exact Table.get_set_self _ _ _
  obtain ⟨hstop, hex⟩ := laneFlags_iff.1 hz.flags
  have hvl : (v.restationed d.station new).lanes = u.lanes := hl
  rw [hvl] at hstop hex
  have hno : ¬∃ k, (u.lanes.get k).Exhausts (z.lanes.get k) := by
    rintro ⟨k, hk⟩
    rw [hlanes, hl, Table.get_set] at hk
    split at hk
    · next h => rw [h] at hk; exact unloaded_not_exhausts _ hk
    · exact Lane.not_exhausts _ hk
  refine ⟨(hflag _).2 (.inr rfl), ?_, laneFlags_iff.2 ⟨?_, ?_⟩, fun f hf => ?_⟩
  · rw [hflag, hz.others _ (by simp), hstation, hv, hnew, hs]
    simp
  · rw [hflag, hstop, hstation, hv, hyl]
    simp
  · rw [hflag, hex, hstation, hv, hyl]
    simp [hno]
  · simp only [List.mem_cons, List.not_mem_nil, or_false, not_or] at hf
    obtain ⟨hu, hc, hl⟩ := hf
    rw [Bool.eq_iff_iff, hflag]
    by_cases hfx : f = .laneExhausted
    · subst hfx
      rw [hex, hstation, hv]
      simp [hno]
    · rw [hz.others f (by simp [hl, hfx]), hstation, hv]
      simp [hu, hc]

/-- The parts of the state that the steps of a pair's expiry set. -/
theorem pairExpired_parts {u w v z : State} {entries : Table 32 (Option Entry)} {due : List (Fin 32)}
    {cups : Table 4 Cup} {i : Fin 8} {new : Station} {lanes : Table 16 Lane} (flags' : BitVec 24)
    (hw : w = { u with entries := entries, due := due, cups := cups })
    (hv : v = { w with
      cache := v.cache, recency := v.recency, walker := v.walker, nestA := v.nestA, nestB := v.nestB })
    (hz : z = { v.restationed i new with lanes := lanes, flags := z.flags }) :
    ({ z with flags := flags' } : State) = { u with
      entries := entries, due := due, cups := cups, stations := u.stations.set i new, lanes := lanes
      flags := flags', cache := z.cache, recency := z.recency, walker := z.walker, nestA := z.nestA
      nestB := z.nestB } := by
  have hzv : z.records = v.records := (congrArg State.records hz).trans rfl
  simp only [State.records, Prod.mk.injEq] at hzv
  obtain ⟨hc, hr, hk, ha, hb, -⟩ := hzv
  rw [hc, hr, hk, ha, hb, hz]
  generalize v.cache = cache, v.recency = recency, v.walker = walker, v.nestA = a, v.nestB = b at hv
  subst hv hw
  rfl

theorem Run.Made.expireBoth {run : Run} {u : State} {ids : List ImageId} (h : run.Made u ids) {p r i j : Fin 32}
    {place present e f : Entry} {d : Destination} {c : Fin 4} (hp : Pair u p r place present d c)
    (hh : Half p r place present i j e f) (cause : ExpiryCause) :
    ∃ y more, (run.expireBoth i j e f d c cause).Made y (ids ++ more) ∧
      PairExpired u y p r place present d c cause ∧ .entry p ∈ more ∧ .entry r ∈ more ∧
      .nest place.board.nest ∈ more := by
  have hmark := State.marked_pair hp hh cause
  have hboard := board_pair hp hh
  obtain ⟨cupIds, hm, -⟩ := ((h.markExpired i e cause).markExpired j f cause).suspectCup (some c)
  obtain ⟨nestIds, hm, -⟩ := hm.changeBoard e.board (BoardHw.lostTrack cause.lastCause)
  have hrec := State.rewritten_records (u := u) (v := ((u.marked i e cause).marked j f cause).suspected (some c))
    rfl e.board (BoardHw.lostTrack cause.lastCause)
  have hshape := State.rewritten_shape (((u.marked i e cause).marked j f cause).suspected (some c)) e.board
    (BoardHw.lostTrack cause.lastCause)
  generalize State.rewritten (((u.marked i e cause).marked j f cause).suspected (some c)) e.board
    (BoardHw.lostTrack cause.lastCause) = v at hm hrec hshape
  have hvs : v.stations = u.stations := by rw [hshape]; rfl
  have hvl : v.lanes = u.lanes := by rw [hshape]; rfl
  have hvf : v.flags = u.flags := by rw [hshape]; rfl
  obtain ⟨slotIds, hm⟩ := (hm.image (.nest e.board.nest)).suspectSlot d
  rw [pairStation_eq hvs] at hm
  obtain ⟨z, laneIds, hm, hz, hlanes⟩ := hm.pairEnded d.lane
  have hm := (hm.raise .uncertain).rest (r' := run.expireBoth i j e f d c cause) rfl rfl
  obtain ⟨huncertain, hstation, hflags, hothers⟩ := hz.expired_flags hvf hvl hvs hlanes
    (y := { z with flags := z.flags ||| Flag.uncertain.bits }) rfl rfl rfl
  refine ⟨_, _, hm.congr fun id => by simp only [List.append_assoc]; rfl,
    ⟨?_, ?_, huncertain, hstation, hflags, hothers⟩, ?_, ?_, ?_⟩
  · have hzl : z.lanes = u.lanes.set d.lane (unloaded (u.lanes.get d.lane)) := by rw [← hvl]; exact hlanes
    rw [hmark] at hshape
    have hzv := hz.shape
    rw [hzl] at hzv
    exact pairExpired_parts _ rfl hshape hzv
  · rw [← hboard, ← hrec]
    have hzr := congrArg State.records hz.shape
    exact hzr
  · obtain ⟨⟨rfl, -, rfl, -⟩ | ⟨rfl, -, rfl, -⟩⟩ := hh <;> simp
  · obtain ⟨⟨rfl, -, rfl, -⟩ | ⟨rfl, -, rfl, -⟩⟩ := hh <;> simp
  · rw [← hboard]
    simp

end Sys2Proof.Machine
end

section
/-! PROOF. The expiry of the entry that became due first (R110 to R113). -/

namespace Sys2Proof.Machine

open Sys2Proof.Claims

/-! ### What the Condition Unit leaves -/

theorem noted_flag (u : State) (src : Source) (capture : Capture) (f : Flag) :
    (noted u src capture).flag f = true ↔ u.flag f = true ∨ (u.captureOf src = none ∧ f = .capture src) := by
  unfold noted
  cases hc : u.captureOf src with
  | none =>
    simp only
    rw [State.flag_raised (s := u) (f := .capture src) rfl]
    simp
  | some held => simp

theorem noted_flag_other {u : State} {src : Source} {capture : Capture} {f : Flag} (h : f ≠ .capture src) :
    (noted u src capture).flag f = u.flag f := by
  rw [Bool.eq_iff_iff, noted_flag]
  simp [h]

theorem noted_records (u : State) (src : Source) (capture : Capture) :
    (noted u src capture).records = u.records := by
  unfold noted
  split <;> rfl

theorem noted_lanes (u : State) (src : Source) (capture : Capture) : (noted u src capture).lanes = u.lanes := by
  unfold noted
  split <;> rfl

theorem noted_stations (u : State) (src : Source) (capture : Capture) :
    (noted u src capture).stations = u.stations := by
  unfold noted
  split <;> rfl

theorem noted_time (u : State) (src : Source) (capture : Capture) : (noted u src capture).time = u.time := by
  unfold noted
  split <;> rfl

/-- A state that differs in its board records is noted alike. -/
theorem noted_of_records {x y t : State} (src : Source) (capture : Capture)
    (h : y = { x with
      cache := y.cache, recency := y.recency, walker := y.walker, nestA := y.nestA, nestB := y.nestB })
    (ht : t.records = (noted y src capture).records) :
    noted y src capture = { noted x src capture with
      cache := t.cache, recency := t.recency, walker := t.walker, nestA := t.nestA, nestB := t.nestB } := by
  rw [noted_records] at ht
  simp only [State.records, Prod.mk.injEq] at ht
  obtain ⟨hc, hr, hw, ha, hb, -⟩ := ht
  rw [hc, hr, hw, ha, hb]
  generalize y.cache = cache, y.recency = recency, y.walker = walker, y.nestA = a, y.nestB = b at h
  subst h
  unfold noted
  show (match x.captureOf src with | none => _ | some _ => _) = _
  cases x.captureOf src <;> rfl

/-- A state that differs in its lanes, its flags and its board records is noted alike. -/
theorem noted_of_lanes {x y t : State} (src : Source) (capture : Capture)
    (h : y = { x with
      lanes := y.lanes, flags := y.flags, cache := y.cache, recency := y.recency, walker := y.walker
      nestA := y.nestA, nestB := y.nestB })
    (ht : t.records = (noted y src capture).records) (hl : t.lanes = (noted y src capture).lanes)
    (hf : t.flags = (noted y src capture).flags) :
    noted y src capture = { noted x src capture with
      lanes := t.lanes, flags := t.flags, cache := t.cache, recency := t.recency, walker := t.walker
      nestA := t.nestA, nestB := t.nestB } := by
  rw [noted_records] at ht
  rw [noted_lanes] at hl
  simp only [State.records, Prod.mk.injEq] at ht
  obtain ⟨hc, hr, hw, ha, hb, -⟩ := ht
  have hcap : y.captureOf src = x.captureOf src := by rw [h]; rfl
  rw [hc, hr, hw, ha, hb, hl, hf]
  unfold noted
  rw [hcap]
  generalize y.lanes = lanes, y.flags = flags, y.cache = cache, y.recency = recency, y.walker = walker,
    y.nestA = a, y.nestB = b at h ⊢
  subst h
  cases x.captureOf src <;> rfl

/-- Lanes that settle after a change leave the rest as the change left it. -/
theorem Relaned.shape_of {x y z : State} {lanes : Table 16 Lane} {more : List ImageId} (hz : Relaned y z more)
    (h : y = { x with
      lanes := lanes, flags := y.flags, cache := y.cache, recency := y.recency, walker := y.walker
      nestA := y.nestA, nestB := y.nestB }) :
    z = { x with
      lanes := z.lanes, flags := z.flags, cache := z.cache, recency := z.recency, walker := z.walker
      nestA := z.nestA, nestB := z.nestB } := by
  have hzr : z.records = y.records := (congrArg State.records hz.shape).trans rfl
  simp only [State.records, Prod.mk.injEq] at hzr
  obtain ⟨hc, hr, hw, ha, hb, -⟩ := hzr
  have hs := hz.shape
  rw [hc, hr, hw, ha, hb]
  generalize z.lanes = lanes', z.flags = flags' at hs ⊢
  generalize y.flags = flags, y.cache = cache, y.recency = recency, y.walker = walker,
    y.nestA = a, y.nestB = b at h ⊢
  subst h hs
  rfl

theorem endsInternally_at {u u' t : State} {changed : List ImageId} (h : EndsInternally u t changed) (he : u = u') :
    EndsInternally u' t changed := he ▸ h

theorem Run.Made.keepEvent {r : Run} {u : State} {ids : List ImageId} (h : r.Made u ids) (ev : Event) :
    (r.keepEvent ev).Made u ids := h.rest rfl rfl

/-! ### A pair that has gone (R112, R138, R144 to R146) -/

/-- A pair that has expired, once the lanes have settled and the captures are filled. -/
theorem PairExpired.gone {u y z t : State} {p r : Fin 32} {place present : Entry} {d : Destination} {c : Fin 4}
    {cause : ExpiryCause} {more : List ImageId} (h : PairExpired u y p r place present d c cause)
    (hz : Relaned y z more) (hget : ∀ k, z.lanes.get k = reevaluated y (y.lanes.get k)) (hl : t.lanes = z.lanes)
    (hs : t.stations = z.stations) {named : List Flag} (hnamed : ∀ f ∈ named, ∃ src, f = .capture src)
    (hf : ∀ f, f ∉ named → t.flag f = z.flag f) : PairGone u t d named := by
  have hts : t.stations = y.stations := hs.trans hz.stations
  have hylanes : y.lanes = u.lanes.set d.lane (unloaded (u.lanes.get d.lane)) := by rw [h.shape]
  have hy (k : Fin 16) : y.lanes.get k = if k = d.lane then unloaded (u.lanes.get k) else u.lanes.get k := by
    rw [hylanes, Table.get_set]
    split
    · next hk => rw [hk]
    · rfl
  have heases (k : Fin 16) : (u.lanes.get k).Eases (y.lanes.get k) := by
    rw [hy]
    split
    · exact Lane.eases_unloaded _
    · exact Lane.eases_refl _
  have hother (f : Flag) (hne : ∀ src, f ≠ .capture src) : t.flag f = z.flag f :=
    hf f fun hin => by
      obtain ⟨src, rfl⟩ := hnamed f hin
      exact hne src rfl
  have hlanes := laneFlags_settled h.laneFlags heases hz.flags hget
  refine ⟨fun k => ?_, ?_, ?_, laneFlags_congr hlanes (fun _ _ => rfl) (fun f hlf => hother f fun src => ?_) hl,
    fun f hnot => ?_⟩
  · rw [hl, hget, hy, reevaluated_congr hts]
  · rw [hother .uncertain fun _ => nofun, hz.others _ (by simp)]
    exact h.uncertain
  · rw [hother .stationChange fun _ => nofun, hz.others _ (by simp), hts]
    exact h.station
  · rcases hlf with rfl | rfl <;> exact nofun
  · simp only [List.mem_append, List.mem_cons, List.not_mem_nil, or_false, not_or] at hnot
    obtain ⟨hn, hu, hc, hls, hlx⟩ := hnot
    rw [hf f hn, hz.others f (by simp [hls, hlx]), h.others f (by simp [hu, hc, hls])]

/-! ### The due entry -/

theorem dueEntry_some {s : State} {i : Fin 32} {later : List (Fin 32)} {e : Entry} (hd : s.due = i :: later)
    (he : s.entries.get i = some e) : s.dueEntry = some (i, e) := by
  simp [State.dueEntry, hd, he]

theorem exec_expiry {s : State} {i : Fin 32} {later : List (Fin 32)} {e : Entry}
    (hs : s.engine = .serving expiryPosition) (hd : s.due = i :: later) (he : s.entries.get i = some e)
    (hk : e.kind.ofPair = false) :
    exec .expiry s = .next ((Run.start s []).expireSingle i e .expired).conclude.finishInternal := by
  show execExpiry s = _
  unfold execExpiry
  refine internalStep_due hs ?_
  simp only [Run.start, dueEntry_some hd he, hk]
  rfl

theorem exec_pairExpiry {s : State} {i : Fin 32} {later : List (Fin 32)} {e : Entry}
    (hs : s.engine = .serving expiryPosition) (hd : s.due = i :: later) (he : s.entries.get i = some e)
    (hk : e.kind.ofPair = true) :
    exec .pairExpiry s = .next ((Run.start s []).expirePair i e .expired).conclude.finishInternal := by
  show execPairExpiry s = _
  unfold execPairExpiry
  refine internalStep_due hs ?_
  simp only [Run.start, dueEntry_some hd he, hk]
  rfl

/-- The due entry of a CUT, PICK or DISCARD expires (R111, R113). -/
theorem expiry_single {s : State} {i : Fin 32} {later : List (Fin 32)} {e : Entry} (hg : s.mode = .guarded)
    (hs : s.engine = .serving expiryPosition) (hd : s.due = i :: later) (he : s.entries.get i = some e)
    (hk : e.kind = .cut ∨ e.kind = .pick ∨ e.kind = .discard) {src : Source}
    (hsrc : src = if e.kind = .cut then .router else .picker) :
    ∃ t, exec .expiry s = .next t ∧
      EndedInternally { noted (expiredSingle s i e .expired) src
          ⟨.expired, none, none, expiryRefs e i e.cup, s.time⟩ with
        cache := t.cache, recency := t.recency, walker := t.walker, nestA := t.nestA, nestB := t.nestB } t
        (.entry i :: .nest e.board.nest :: notedImages (expiredSingle s i e .expired) src)
        (.entry i :: .nest e.board.nest :: .status :: .capture src :: e.cup.toList.map .cup) ∧
      Lost s t e.board .expired := by
  subst hsrc
  have hpair : e.kind.ofPair = false := by rcases hk with h | h | h <;> rw [h] <;> rfl
  refine ⟨_, exec_expiry hs hd he hpair, ?_⟩
  obtain ⟨y, more, hm, hy, hentry, hnest, hmay⟩ := (Run.Made.started hg []).expireSingle i e .expired
  have howes := (Run.start s []).expireSingle_owes i e .expired
  have hc := hm.concludes_events howes.lanes howes.empties
  rw [howes.events] at hc
  have hends := hc.endsInternally
  generalize ((Run.start s []).expireSingle i e .expired).conclude.finishInternal = t at hends ⊢
  have hends : EndsInternally (noted y (if e.kind = .cut then .router else .picker)
      ⟨.expired, none, none, expiryRefs e i e.cup, y.time⟩) t
      (more ++ notedImages y (if e.kind = .cut then .router else .picker)) := by
    simpa [Run.start, handedImages, State.handed, singleEvent, ExpiryCause.cause] using hends
  have htime : y.time = s.time := by rw [hy.shape]; rfl
  have hcap : notedImages y (if e.kind = .cut then .router else .picker) =
      notedImages (expiredSingle s i e .expired) (if e.kind = .cut then .router else .picker) := by
    unfold notedImages
    rw [hy.shape]
    rfl
  rw [htime, hcap] at hends
  have hrec : t.records = y.records :=
    (endsInternally_same hends fun u => u.records).trans (noted_records _ _ _)
  refine ⟨⟨_, fun id hid => ?_, fun id hid => ?_,
    endsInternally_at hends (noted_of_records _ _ hy.shape (endsInternally_same hends fun u => u.records))⟩,
    lost_of_records (hrec.trans hy.records)⟩
  · simp only [List.mem_cons, List.mem_append] at hid ⊢
    rcases hid with rfl | rfl | hid
    · exact .inl hentry
    · exact .inl hnest
    · exact .inr hid
  · have := hmay id
    simp only [notedImages] at hid
    simp only [List.mem_append, List.mem_cons] at hid this ⊢
    rcases hid with hid | hid
    · have := this hid
      tauto
    · split at hid <;> simp only [List.mem_cons, List.not_mem_nil, or_false] at hid
      tauto

/-- A run that has made a pair expire ends as an expiry does (R112, R113, R144). -/
theorem PairExpired.endsInternally {u y : State} {run : Run} {ids : List ImageId} {p r : Fin 32}
    {place present : Entry} {d : Destination} {c : Fin 4} {cause : ExpiryCause} {ev : Event} {k : Fin 18}
    (hy : PairExpired u y p r place present d c cause) (hm : run.Made y ids) (he : y.engine = .serving k)
    (hl : run.lanes = true) (hempties : run.empties = []) (hevents : run.events = [ev]) {t : State}
    (ht : run.conclude.finishInternal = t) :
    ∃ more, EndsInternally { noted (expiredPair u p r place present d c cause) ev.source
          ⟨ev.cause, ev.sect, ev.cycle, ev.refs, u.time⟩ with
        lanes := t.lanes, flags := t.flags, cache := t.cache, recency := t.recency, walker := t.walker
        nestA := t.nestA, nestB := t.nestB } t (ids ++ more) ∧
      t.records = y.records ∧ PairGone u t d [.capture ev.source] := by
  obtain ⟨z, laneIds, marked, hc, hz, hget, -, -⟩ := hm.concludes he
  have hget := hget hl
  rw [Run.marks, hempties, hevents, List.map_nil] at hc
  have hends := hc.endsInternally
  rw [ht] at hends
  have htime : z.time = u.time := by rw [hz.shape, hy.shape]; rfl
  have hev : z.handed ev = noted z ev.source ⟨ev.cause, ev.sect, ev.cycle, ev.refs, u.time⟩ := by
    rw [State.handed, htime]
  have hends := endsInternally_at hends hev
  have hrec := endsInternally_same hends fun u => u.records
  have hlanes := endsInternally_same hends fun u => u.lanes
  have hflags := endsInternally_same hends fun u => u.flags
  have hstations := endsInternally_same hends fun u => u.stations
  have hzr : z.records = y.records := (congrArg State.records hz.shape).trans rfl
  refine ⟨_, endsInternally_at (by simp only [List.append_assoc] at hends; exact hends)
    (noted_of_lanes _ _ (hz.shape_of hy.shape) hrec hlanes hflags), hrec.trans ((noted_records _ _ _).trans hzr), ?_⟩
  refine hy.gone hz hget (hlanes.trans (noted_lanes _ _ _)) (hstations.trans (noted_stations _ _ _)) (by simp)
    fun f hf => ?_
  rw [State.flag_congr hflags]
  exact noted_flag_other (by simpa using hf)

/-- The due entry of a pair expires, and the pair with it (R112, R113). -/
theorem expiry_pair {s : State} {i : Fin 32} {later : List (Fin 32)} (hg : s.mode = .guarded)
    (hs : s.engine = .serving expiryPosition) (hd : s.due = i :: later) {p r : Fin 32} {place present : Entry}
    {d : Destination} {c : Fin 4} (hi : i = p ∨ i = r) (hp : Pair s p r place present d c) :
    ∃ t, exec .pairExpiry s = .next t ∧
      (∃ changed, .entry p ∈ changed ∧ .entry r ∈ changed ∧ .nest place.board.nest ∈ changed ∧
        EndsInternally { noted (expiredPair s p r place present d c .expired) (missing place)
            ⟨.expired, none, none, expiryRefs place i (some c), s.time⟩ with
          lanes := t.lanes, flags := t.flags, cache := t.cache, recency := t.recency, walker := t.walker
          nestA := t.nestA, nestB := t.nestB } t changed) ∧
      Lost s t place.board .expired ∧ PairGone s t d [.capture (missing place)] := by
  obtain ⟨e, j, f, hh⟩ : ∃ e j f, Half p r place present i j e f := by
    rcases hi with rfl | rfl
    · exact ⟨place, r, present, ⟨.inl ⟨rfl, rfl, rfl, rfl⟩⟩⟩
    · exact ⟨present, p, place, ⟨.inr ⟨rfl, rfl, rfl, rfl⟩⟩⟩
  have hev : pairEvent place i e c .expired =
      ⟨missing place, .expired, none, none, expiryRefs place i (some c)⟩ := by
    unfold pairEvent expiryRefs
    rw [board_pair hp hh, dest_pair hp hh, hp.dest.1]
    rfl
  have hkind : e.kind.ofPair = true := by
    obtain ⟨⟨-, rfl, -, -⟩ | ⟨-, rfl, -, -⟩⟩ := hh
    · rw [hp.kinds.1]; rfl
    · rw [hp.kinds.2]; rfl
  refine ⟨_, exec_pairExpiry hs hd (atHalf hp hh).1 hkind, ?_⟩
  rw [Run.expirePair_eq (run := Run.start s []) hp hh]
  obtain ⟨y, more, hm, hy, hplace, hpresent, hnest⟩ := (Run.Made.started hg []).expireBoth hp hh .expired
  have howes := ((Run.start s []).expireBoth_owes i j e f d c .expired).keepEvent (pairEvent place i e c .expired)
  have hm := hm.keepEvent (pairEvent place i e c .expired)
  rw [hev] at howes hm ⊢
  have hey : y.engine = .serving expiryPosition := by rw [hy.shape]; exact hs
  obtain ⟨ids, hends, hrec, hgone⟩ := hy.endsInternally hm hey howes.lanes howes.empties howes.events rfl
  exact ⟨⟨_, by simp [hplace], by simp [hpresent], by simp [hnest], hends⟩,
    lost_of_records (hrec.trans hy.records), hgone⟩

/-- Settles O43. -/
theorem expiryLeavesTheBoardUncertain : Obligations.ExpiryLeavesTheBoardUncertain := by
  unfold Obligations.ExpiryLeavesTheBoardUncertain
  intro s i later hg hs hd
  exact ⟨fun e he hk => expiry_single hg hs hd he hk rfl,
    fun p r place present d c _ hi hp => expiry_pair hg hs hd hi hp⟩

end Sys2Proof.Machine
end

section
/-! PROOF. How a solicited report meets the Open Command Table (R117, R119), and the disputes (R116, R118, R121,
R173). -/

namespace Sys2Proof.Machine

open Sys2Proof.Claims

/-! ### Matching -/

section Match

variable {s : State} {ring : RepRing} {tag : Tag} {q : Request} {k : ReportKind} {w1 : Word} {i : Fin 32}
  {e : Entry}

theorem matchReport_congr {t : State} (h : t.entries = s.entries) : t.matchReport k q w1 = s.matchReport k q w1 := by
  unfold State.matchReport State.entryNamed
  rw [h]

theorem matchReport_none (hp : Reported s ring tag q)
    (h : s.entryNamed ring.answers (ringAnswered q.data) (ringSequence q.data) = none) :
    s.matchReport k q w1 = .noEntry := by
  unfold State.matchReport
  rw [reportRing_of_report hp, h]

variable (hp : Reported s ring tag q)
  (hn : s.entryNamed ring.answers (ringAnswered q.data) (ringSequence q.data) = some i)
  (he : s.entries.get i = some e)
include hp hn he

theorem matchReport_late {cause : ExpiryCause} (hs : e.state = .expired cause) :
    s.matchReport k q w1 = .late i := by
  unfold State.matchReport
  rw [reportRing_of_report hp, hn]
  simp only [he, Entry.inFlight, hs, Bool.not_false, if_true]

theorem matchReport_flying (hs : e.state = .isOpen ∨ e.state = .half) :
    s.matchReport k q w1 =
      if !(e.kind.answeredBy == k && e.awaits && k.allows w1) then .misfit i .kindMismatch
      else if !e.doneFits k w1 then .misfit i .outOfSpan
      else .fits i := by
  have hf : e.inFlight = true := by rcases hs with h | h <;> simp [Entry.inFlight, h]
  unfold State.matchReport
  rw [reportRing_of_report hp, hn]
  simp only [he, hf, Bool.not_true, Bool.false_eq_true, if_false]

end Match

/-! ### The execution of a solicited report -/

section Solicited

variable {s : State} {ring : RepRing} {tag : Tag} {q : Request} {k : ReportKind} {answers : List MemAnswer}
  (hp : Reported s ring tag q) (hk : reportKind ring (ringKind q.data) = some k) (ha : k ≠ .arrived)
  (hr : k ≠ .removed) (h4 : Answered answers 4)
include hp hk ha hr h4

/-- A solicited report that is disputed does what its match says. -/
theorem solicited_disputed {m : Match} {cause : Cause} (hm : s.matchReport k q (word1 s answers q) = m)
    (hv : m.verdict = .disputed cause) :
    exec (reportRow ring q.data answers) s = .next ((applyMatch k.outcome tag q (word1 s answers q) m
      (Run.start (disputedReport s answers q cause) (answers.drop 4))).conclude.finishHeld tag .done) := by
  obtain ⟨p, he⟩ := serving_of_report hp
  have hj := (matchReport_congr (k := k) (q := q) (w1 := word1 s answers q)
    ((s.waited_beside answers 2).entries he)).trans hm
  have hs := serves_solicited (answers := answers) hp.inHand hp.cls hk ha hr
  unfold serveSolicited at hs
  exact report_disputes hs h4 (by simp only [hj, hv])

/-- A solicited report that fits does what its match says. -/
theorem solicited_applied {m : Match} (hm : s.matchReport k q (word1 s answers q) = m) (hv : m.verdict = .applied) :
    exec (reportRow ring q.data answers) s = .next ((applyMatch k.outcome tag q (word1 s answers q) m
      (Run.start (appliedReport s answers q) (answers.drop 4))).conclude.finishHeld tag .done) := by
  obtain ⟨p, he⟩ := serving_of_report hp
  have hj := (matchReport_congr (k := k) (q := q) (w1 := word1 s answers q)
    ((s.waited_beside answers 2).entries he)).trans hm
  have hs := serves_solicited (answers := answers) hp.inHand hp.cls hk ha hr
  unfold serveSolicited at hs
  exact report_applied hs h4 (by simp only [hj, hv])

/-- A report that meets no entry (R117). -/
theorem solicited_noEntry
    (hn : s.entryNamed ring.answers (ringAnswered q.data) (ringSequence q.data) = none) :
    ∃ t, exec (reportRow ring q.data answers) s = .next t ∧ Disputed s t answers tag q ring .noEntry {} := by
  obtain ⟨p, he⟩ := serving_of_report hp
  have hj := (matchReport_congr (k := k) (q := q) (w1 := word1 s answers q)
    ((s.waited_beside answers 2).entries he)).trans (matchReport_none hp hn)
  have hs := serves_solicited (answers := answers) hp.inHand hp.cls hk ha hr
  unfold serveSolicited at hs
  exact report_disputed hp hs h4 (x := .noEntry) (by simp only [hj, Match.verdict]) fun r => rfl

end Solicited

theorem matchRefs_some {s : State} {i : Fin 32} {e : Entry} (h : s.entries.get i = some e) :
    s.matchRefs i = expiryRefs e i e.cup := by
  rw [State.matchRefs, h]
  rfl

/-- The event of the dispute of a report (R116, R173). -/
def disputeEvent (ring : RepRing) (tag : Tag) (q : Request) (cause : Cause) (refs : Refs) : Event :=
  ⟨ring.source, cause, none, some ⟨tag, .write, q.addr⟩, refs⟩

theorem dispute_eq {s : State} {ring : RepRing} {tag : Tag} {q : Request} (hp : Reported s ring tag q) (r : Run)
    (cause : Cause) (refs : Refs) :
    r.dispute tag q cause refs = r.keepEvent (disputeEvent ring tag q cause refs) := by
  unfold Run.dispute disputeEvent
  rw [reportRing_of_report hp]
  rfl

/-! ### A late report (R118) -/

/-- An entry is removed, with the claim and the drain of its nest (R66, R67, R121). -/
theorem Run.Made.removeMatched {r : Run} {u : State} {ids : List ImageId} (h : r.Made u ids) {i : Fin 32} {e : Entry}
    (he : u.entries.get i = some e) :
    ∃ more, (r.removeMatched i e).Made ((without u i).settledNest e.board.nest
        (drained ((without u i).nestNamed e.board.nest) (unclaimed u i e))) (ids ++ .entry i :: more) ∧
      (∀ id ∈ more, id = .nest e.board.nest ∨ id = .status) ∧ r.Removes (r.removeMatched i e) e.mark := by
  obtain ⟨more, hm, hmore, hr⟩ := h.forget he
  have happly : applyForget i r = r.removeMatched i e := by
    simp only [applyForget, h.shape, he]
    rfl
  rw [happly] at hm hr
  exact ⟨more, hm, hmore, hr⟩

theorem settledNest_congr {w : State} {n : Nest} {c : NestContext} {x : NestState} (h : (w.nest n).state = x) :
    w.settledNest n c = { State.withNest w n c with flags := w.flags ||| nestFlags n x c.state } := by
  rw [State.settledNest, h]

/-- The state that a late report leaves, but for its mark and its capture (R118, R121). -/
theorem late_shape {s w : State} {p : Fin 18} (hw : s.Beside w) (he : s.engine = .serving p) (i : Fin 32) (e : Entry) :
    (without w i).settledNest e.board.nest (drained ((without w i).nestNamed e.board.nest) (unclaimed w i e)) =
      { State.withNest (without w i) e.board.nest (drained ((without s i).nestNamed e.board.nest)
          { w.nest e.board.nest with
            claim := if e.kind = .cut ∨ e.kind = .pick then (without s i).claimOf e.board.nest
              else (s.nest e.board.nest).claim }) with
        flags := w.flags ||| nestFlags e.board.nest (s.nest e.board.nest).state
          (drained ((without s i).nestNamed e.board.nest) { w.nest e.board.nest with
            claim := if e.kind = .cut ∨ e.kind = .pick then (without s i).claimOf e.board.nest
              else (s.nest e.board.nest).claim }).state } := by
  have hentries : (without w i).entries = (without s i).entries := by
    show w.entries.set i none = s.entries.set i none
    rw [hw.entries he]
  rw [State.nestNamed_congr hentries, unclaimed, State.claimOf_congr hentries, hw.nest_claim he]
  exact settledNest_congr (hw.nest_state he e.board.nest)

/-- A run that has removed its matched entry ends with the mark of a PRESENT and the dispute (R80, R118, R121). -/
theorem Run.Made.endsLate {r : Run} {x : State} {ids : List ImageId} (h : r.Made x ids) {p : Fin 18}
    (he : x.engine = .serving p) (hl : r.lanes = false) {e : Entry} (hempties : r.empties = e.mark) {ev : Event}
    (hev : r.events = [ev]) (hn : ids ≠ []) {u : State}
    (hu : u = if e.kind = .present then
        emptied x r.answers (x.stackerRing.slotAddr e.slot, presentWord0 0 e.sequence) else x) (tag : Tag) :
    ∃ marked, Ends (u.handed ev) (r.conclude.finishHeld tag .done) tag .done
        (ids ++ marked ++ notedImages u ev.source) ∧ ∀ id ∈ marked, id = .status := by
  obtain ⟨marked, hc, hmarked⟩ := h.concludes_marks he hl
  have hall : emptiedAll x r.answers (r.marks x.stackerRing) = u := by
    rw [hu, Run.marks, hempties, Entry.mark]
    split <;> rfl
  rw [hall, hev] at hc
  refine ⟨marked, ?_, hmarked⟩
  have hends := hc.ends (by simp [hn]) tag .done
  simpa [handedImages] using hends

/-- A late report (R80, R116, R118, R121). -/
theorem solicited_late {s : State} {ring : RepRing} {tag : Tag} {q : Request} {k : ReportKind}
    {answers : List MemAnswer} (hp : Reported s ring tag q) (hk : reportKind ring (ringKind q.data) = some k)
    (ha : k ≠ .arrived) (hr : k ≠ .removed) (h4 : Answered answers 4) {i : Fin 32} {e : Entry} {cause : ExpiryCause}
    (hn : s.entryNamed ring.answers (ringAnswered q.data) (ringSequence q.data) = some i)
    (hentry : s.entries.get i = some e) (hs : e.state = .expired cause) {x u : State}
    (hx : x = (without (disputedReport s answers q .late) i).settledNest e.board.nest
      (drained ((without (disputedReport s answers q .late) i).nestNamed e.board.nest)
        (unclaimed (disputedReport s answers q .late) i e)))
    (hu : u = if e.kind = .present then emptied x (answers.drop 4) (emptyMark s e) else x) :
    ∃ t, exec (reportRow ring q.data answers) s = .next t ∧
      Ended (noted u ring.source ⟨.late, none, some ⟨tag, .write, q.addr⟩, expiryRefs e i e.cup, u.time⟩) t tag
        (.entry i :: notedImages u ring.source)
        [.entry i, .nest e.board.nest, .capture ring.source, .status] := by
  obtain ⟨p, he⟩ := serving_of_report hp
  have hw : s.Beside (disputedReport s answers q .late) := disputedReport_beside s answers q .late
  have hwe : (disputedReport s answers q .late).entries.get i = some e := by rw [hw.entries he]; exact hentry
  refine ⟨_, solicited_disputed hp hk ha hr h4 (matchReport_late hp hn hentry hs) rfl, ?_⟩
  have happly : applyMatch k.outcome tag q (word1 s answers q) (.late i)
      (Run.start (disputedReport s answers q .late) (answers.drop 4)) =
        ((Run.start (disputedReport s answers q .late) (answers.drop 4)).keepEvent
          (disputeEvent ring tag q .late (expiryRefs e i e.cup))).removeMatched i e := by
    have hst : (Run.start (disputedReport s answers q .late) (answers.drop 4)).st = disputedReport s answers q .late :=
      rfl
    simp only [applyMatch, hst, hwe, matchRefs_some hwe, dispute_eq hp]
  rw [happly]
  obtain ⟨more, hm, hmore, hrem⟩ := ((Run.Made.started ((hw.mode he).trans hp.guarded) (answers.drop 4)).keepEvent
    (disputeEvent ring tag q .late (expiryRefs e i e.cup))).removeMatched hwe
  rw [← hx] at hm
  have hxe : x.engine = .serving p := by rw [hx]; simp [State.settledNest, without, hw.engine he]
  have hxr : x.stackerRing = s.stackerRing := by
    rw [← hw.stackerRing he, hx, State.stackerRing, State.stackerRing]
    simp [State.settledNest, without]
  have hanswers := hrem.answers
  have hempties := hrem.empties
  have hevents := hrem.events
  have hlanes := hrem.lanes
  generalize ((Run.start (disputedReport s answers q .late) (answers.drop 4)).keepEvent
    (disputeEvent ring tag q .late (expiryRefs e i e.cup))).removeMatched i e = r
    at hm hanswers hempties hevents hlanes
  obtain ⟨marked, hends, hmarked⟩ := hm.endsLate hxe hlanes (hempties.trans (List.nil_append _)) hevents (by simp)
    (u := u) (by rw [hu, hanswers, hxr]; rfl) tag
  refine ⟨_, fun id hid => ?_, fun id hid => ?_, hends⟩
  · simp only [List.mem_cons] at hid
    simp only [List.mem_append, List.mem_cons]
    exact hid.elim (fun h => .inl (.inl (.inr (.inl h)))) .inr
  · simp only [List.nil_append, List.cons_append, List.mem_append, List.mem_cons, List.not_mem_nil, or_false,
      disputeEvent, notedImages] at hid ⊢
    rcases hid with hid | (hid | hid) | hid
    · exact .inl hid
    · exact (hmore id hid).elim (fun h => .inr (.inl h)) fun h => .inr (.inr (.inr h))
    · exact .inr (.inr (.inr (hmarked id hid)))
    · split at hid <;> simp only [List.mem_cons, List.not_mem_nil, or_false] at hid
      exact .inr (.inr hid)

/-! ### A kind that is not the ring's -/

theorem mismatchRefs_other {q : Request} (h : ¬(reportKind .stacker (ringKind q.data) = some .arrived ∨
    reportKind .stacker (ringKind q.data) = some .removed)) : mismatchRefs q = {} := by
  unfold mismatchRefs
  split
  · next hk => exact absurd (.inl hk) h
  · next hk => exact absurd (.inr hk) h
  · rfl

theorem mismatchRefs_station {q : Request} (h : reportKind .stacker (ringKind q.data) = some .arrived ∨
    reportKind .stacker (ringKind q.data) = some .removed) : mismatchRefs q = stationReportRefs q := by
  unfold mismatchRefs
  rcases h with h | h <;> rw [h]

/-- Settles O39. -/
theorem unmatchedReportsAreDisputed : Obligations.UnmatchedReportsAreDisputed := by
  unfold Obligations.UnmatchedReportsAreDisputed
  intro s tag q ring answers hp h4
  obtain ⟨p, he⟩ := serving_of_report hp
  refine ⟨fun hk => ?_, fun k hk ha hr hn => solicited_noEntry hp hk ha hr h4 hn,
    fun k i e cause hk ha hr hn hentry hs => ?_⟩
  · have mismatch {refs : Refs} (hrefs : mismatchRefs q = refs) :
        ∃ t, exec (.reportKindMismatch answers) s = .next t ∧ Disputed s t answers tag q ring .kindMismatch refs :=
      report_disputed hp (serves_mismatch hp.inHand hp.cls hk) h4 (x := ()) rfl fun r => by rw [hrefs]
    exact ⟨fun h => mismatch (mismatchRefs_other h),
      fun h hrange => mismatch ((mismatchRefs_station h).trans (stationReportRefs_none hrange)),
      fun i h hi => mismatch ((mismatchRefs_station h).trans (stationReportRefs_some hi))⟩
  · intro n v w c x u capture
    exact solicited_late hp hk ha hr h4 hn hentry hs (x := x) (u := u)
      (late_shape (disputedReport_beside s answers q .late) he i e).symm rfl

end Sys2Proof.Machine
end

section
/-! PROOF. A report that does not fit its entry expires it (R111, R112, R116, R119). -/

namespace Sys2Proof.Machine

open Sys2Proof.Claims

/-! ### Which reports fit -/

/-- A report of a kind meets an entry in flight: it answers it, finds no report stored, and carries a result that
R115 gives (R117, R119). -/
def Meets (k : ReportKind) (e : Entry) (w1 : Word) : Prop :=
  k = e.kind.answeredBy ∧ ¬(e.state = .half ∧ e.stored ≠ none) ∧ ¬(k = .pickEnd ∧ reportResult w1 = .abort) ∧
    ¬((k = .placeEnd ∨ k = .discardEnd) ∧ reportResult w1 = .fail)

theorem Entry.awaits_iff {e : Entry} (hs : e.state = .isOpen ∨ e.state = .half) :
    e.awaits = true ↔ ¬(e.state = .half ∧ e.stored ≠ none) := by
  rcases hs with h | h <;> simp [Entry.awaits, h]

theorem ReportKind.allows_iff (k : ReportKind) (w1 : Word) :
    k.allows w1 = true ↔ ¬(k = .pickEnd ∧ reportResult w1 = .abort) ∧
      ¬((k = .placeEnd ∨ k = .discardEnd) ∧ reportResult w1 = .fail) := by
  cases k <;> simp [ReportKind.allows]

theorem meets_iff {k : ReportKind} {e : Entry} {w1 : Word} (hs : e.state = .isOpen ∨ e.state = .half) :
    (e.kind.answeredBy == k && e.awaits && k.allows w1) = true ↔ Meets k e w1 := by
  rw [Bool.and_eq_true, Bool.and_eq_true, beq_iff_eq, Entry.awaits_iff hs, ReportKind.allows_iff, Meets, and_assoc,
    eq_comm]

theorem matchReport_misfit {s : State} {ring : RepRing} {tag : Tag} {q : Request} {k : ReportKind} {w1 : Word}
    {i : Fin 32} {e : Entry} {cause : Cause} (hp : Reported s ring tag q)
    (hn : s.entryNamed ring.answers (ringAnswered q.data) (ringSequence q.data) = some i)
    (he : s.entries.get i = some e) (hs : e.state = .isOpen ∨ e.state = .half) (hm : Misfits k e w1 cause) :
    s.matchReport k q w1 = .misfit i cause := by
  rw [matchReport_flying hp hn he hs]
  rcases hm with ⟨hmeets, rfl⟩ | ⟨hmeets, rfl, ⟨span, hspan, hdone⟩, rfl⟩
  · have hno : ¬(e.kind.answeredBy == k && e.awaits && k.allows w1) = true := fun h => hmeets ((meets_iff hs).1 h)
    rw [if_pos (by rw [Bool.eq_false_iff.2 hno]; rfl)]
  · have hyes : (e.kind.answeredBy == ReportKind.cutEnd && e.awaits && ReportKind.cutEnd.allows w1) = true :=
      (meets_iff hs).2 hmeets
    have hlong : e.doneFits .cutEnd w1 = false := by simp [Entry.doneFits, hspan, hdone]
    rw [hyes, hlong]
    rfl

theorem matchReport_fits {s : State} {ring : RepRing} {tag : Tag} {q : Request} {k : ReportKind} {w1 : Word}
    {i : Fin 32} {e : Entry} (hp : Reported s ring tag q)
    (hn : s.entryNamed ring.answers (ringAnswered q.data) (ringSequence q.data) = some i)
    (he : s.entries.get i = some e) (hs : e.state = .isOpen ∨ e.state = .half) (hm : Meets k e w1)
    (hspan : k = .cutEnd → ∀ span, e.span = some span → cutEndDone w1 ≤ span.count) :
    s.matchReport k q w1 = .fits i := by
  rw [matchReport_flying hp hn he hs, (meets_iff hs).2 hm]
  have hfits : e.doneFits k w1 = true := by
    unfold Entry.doneFits
    split
    · next span h => simpa using hspan rfl span h
    · rfl
  rw [hfits]
  rfl

/-! ### The run of a misfit -/

/-- A misfit keeps its dispute and makes its entry expire. -/
theorem misfit_apply {s : State} {ring : RepRing} {tag : Tag} {q : Request} (hp : Reported s ring tag q)
    (outcome : Word → Request → Fin 32 → Entry → Run → Run) (w1 : Word) {i : Fin 32} {e : Entry} {cause : Cause}
    {r : Run} (he : r.st.entries.get i = some e) :
    applyMatch outcome tag q w1 (.misfit i cause) r =
      if e.kind.ofPair = true then
        (r.keepEvent (disputeEvent ring tag q cause (expiryRefs e i e.cup))).expirePair i e .disputed
      else (r.keepEvent (disputeEvent ring tag q cause (expiryRefs e i e.cup))).expireSingle i e .disputed := by
  simp only [applyMatch, matchRefs_some he, dispute_eq hp, Run.expire]
  have hst (ev : Event) : (r.keepEvent ev).st.entries.get i = some e := he
  rw [hst]

/-- A run that has made a CUT, PICK or DISCARD expire for a misfit ends with both captures (R113, R116). -/
theorem SingleExpired.endsDisputed {u y : State} {run : Run} {ids : List ImageId} {i : Fin 32} {e : Entry}
    {cause : ExpiryCause} {ev ev' : Event} (hy : SingleExpired u y i e cause) (hm : run.Made y ids)
    (hl : run.lanes = false) (hempties : run.empties = []) (hevents : run.events = [ev, ev']) (hn : ids ≠ [])
    {tag : Tag} {t : State} (ht : run.conclude.finishHeld tag .done = t) :
    ∃ more, Ends { noted (noted (expiredSingle u i e cause) ev.source ⟨ev.cause, ev.sect, ev.cycle, ev.refs, u.time⟩)
          ev'.source ⟨ev'.cause, ev'.sect, ev'.cycle, ev'.refs, u.time⟩ with
        cache := t.cache, recency := t.recency, walker := t.walker, nestA := t.nestA, nestB := t.nestB }
        t tag .done (ids ++ more) ∧ t.records = y.records := by
  have hc := hm.concludes_events hl hempties
  rw [hevents] at hc
  have hends := hc.ends (by simp [hn]) tag .done
  rw [ht] at hends
  have htime : y.time = u.time := by rw [hy.shape]; rfl
  have hev : [ev, ev'].foldl State.handed y =
      noted (noted y ev.source ⟨ev.cause, ev.sect, ev.cycle, ev.refs, u.time⟩) ev'.source
        ⟨ev'.cause, ev'.sect, ev'.cycle, ev'.refs, u.time⟩ := by
    simp only [List.foldl_cons, List.foldl_nil, State.handed, noted_time, htime]
  have hends := ends_at hends hev
  have hrec := ends_same hends fun u => u.records
  have hone := noted_of_records ev.source ⟨ev.cause, ev.sect, ev.cycle, ev.refs, u.time⟩ hy.shape (t := noted y _ _) rfl
  exact ⟨_, ends_at hends (noted_of_records _ _ hone hrec),
    hrec.trans ((noted_records _ _ _).trans (noted_records _ _ _))⟩

/-- A run that has made a pair expire for a misfit ends with both captures and the lanes settled (R112, R113, R116,
R144). -/
theorem PairExpired.endsDisputed {u y : State} {run : Run} {ids : List ImageId} {p r : Fin 32}
    {place present : Entry} {d : Destination} {c : Fin 4} {cause : ExpiryCause} {ev ev' : Event} {k : Fin 18}
    (hy : PairExpired u y p r place present d c cause) (hm : run.Made y ids) (he : y.engine = .serving k)
    (hl : run.lanes = true) (hempties : run.empties = []) (hevents : run.events = [ev, ev']) (hn : ids ≠ [])
    {tag : Tag} {t : State} (ht : run.conclude.finishHeld tag .done = t) :
    ∃ more, Ends { noted (noted (expiredPair u p r place present d c cause) ev.source
            ⟨ev.cause, ev.sect, ev.cycle, ev.refs, u.time⟩)
          ev'.source ⟨ev'.cause, ev'.sect, ev'.cycle, ev'.refs, u.time⟩ with
        lanes := t.lanes, flags := t.flags, cache := t.cache, recency := t.recency, walker := t.walker
        nestA := t.nestA, nestB := t.nestB } t tag .done (ids ++ more) ∧
      t.records = y.records ∧ PairGone u t d [.capture ev.source, .capture ev'.source] := by
  obtain ⟨z, laneIds, marked, hc, hz, hget, -, -⟩ := hm.concludes he
  have hget := hget hl
  rw [Run.marks, hempties, hevents, List.map_nil] at hc
  have hends := hc.ends (by simp [hn]) tag .done
  rw [ht] at hends
  have htime : z.time = u.time := by rw [hz.shape, hy.shape]; rfl
  have hev : [ev, ev'].foldl State.handed z =
      noted (noted z ev.source ⟨ev.cause, ev.sect, ev.cycle, ev.refs, u.time⟩) ev'.source
        ⟨ev'.cause, ev'.sect, ev'.cycle, ev'.refs, u.time⟩ := by
    simp only [List.foldl_cons, List.foldl_nil, State.handed, noted_time, htime]
  have hends := ends_at hends hev
  have hrec := ends_same hends fun u => u.records
  have hlanes := ends_same hends fun u => u.lanes
  have hflags := ends_same hends fun u => u.flags
  have hstations := ends_same hends fun u => u.stations
  have hzr : z.records = y.records := (congrArg State.records hz.shape).trans rfl
  have hone := noted_of_lanes ev.source ⟨ev.cause, ev.sect, ev.cycle, ev.refs, u.time⟩ (hz.shape_of hy.shape)
    (t := noted z _ _) rfl rfl rfl
  refine ⟨_, ends_at (by simp only [List.append_assoc] at hends; exact hends)
    (noted_of_lanes _ _ hone hrec hlanes hflags),
    hrec.trans ((noted_records _ _ _).trans ((noted_records _ _ _).trans hzr)), ?_⟩
  refine hy.gone hz hget (hlanes.trans ((noted_lanes _ _ _).trans (noted_lanes _ _ _)))
    (hstations.trans ((noted_stations _ _ _).trans (noted_stations _ _ _))) (by simp) fun f hf => ?_
  simp only [List.mem_cons, List.not_mem_nil, or_false, not_or] at hf
  rw [State.flag_congr hflags, noted_flag_other hf.2, noted_flag_other hf.1]

/-- Settles O40. -/
theorem misfitReportExpiresItsEntry : Obligations.MisfitReportExpiresItsEntry := by
  unfold Obligations.MisfitReportExpiresItsEntry
  intro s tag q ring k answers i e cause hp hk ha hr h4 hn hentry hs hmis u disputed
  obtain ⟨p, he⟩ := serving_of_report hp
  have hu : s.Beside u := disputedReport_beside s answers q cause
  have hue : u.entries.get i = some e := by rw [hu.entries he]; exact hentry
  have hexec := solicited_disputed hp hk ha hr h4 (matchReport_misfit hp hn hentry hs hmis) rfl
  rw [misfit_apply hp k.outcome _ (r := Run.start (disputedReport s answers q cause) (answers.drop 4)) hue] at hexec
  have hm := (Run.Made.started ((hu.mode he).trans hp.guarded) (answers.drop 4)).keepEvent
    (disputeEvent ring tag q cause (expiryRefs e i e.cup))
  refine ⟨fun hkind => ?_, fun p' r place present d c hpair hi => ?_⟩
  · intro src x
    have hpair : ¬e.kind.ofPair = true := by rcases hkind with h | h | h <;> rw [h] <;> exact nofun
    rw [if_neg hpair] at hexec
    refine ⟨_, hexec, ?_⟩
    obtain ⟨y, more, hm, hy, hin, hnest, -⟩ := hm.expireSingle i e .disputed
    have howes := ((Run.start u (answers.drop 4)).keepEvent
      (disputeEvent ring tag q cause (expiryRefs e i e.cup))).expireSingle_owes i e .disputed
    obtain ⟨ids, hends, hrec⟩ := hy.endsDisputed hm howes.lanes howes.empties howes.events
      (List.ne_nil_of_mem (List.mem_append_right _ hin)) rfl
    exact ⟨⟨_, by simp [hin], by simp [hnest], hends⟩, lost_of_records (hrec.trans hy.records)⟩
  · intro x
    obtain ⟨j, f, hh⟩ := half_of_one hi
    have hpu : Pair u p' r place present d c :=
      ⟨hpair.distinct, by rw [hu.entries he]; exact hpair.atPlace, by rw [hu.entries he]; exact hpair.atPresent,
        hpair.kinds, hpair.board, hpair.linked, hpair.dest, hpair.cup⟩
    have hkind : e.kind.ofPair = true := by
      rcases hi with ⟨-, rfl⟩ | ⟨-, rfl⟩
      · rw [hpair.kinds.1]; rfl
      · rw [hpair.kinds.2]; rfl
    rw [if_pos hkind, Run.expirePair_eq (run := (Run.start u (answers.drop 4)).keepEvent
      (disputeEvent ring tag q cause (expiryRefs e i e.cup))) hpu hh] at hexec
    refine ⟨_, hexec, ?_⟩
    have howes := (((Run.start u (answers.drop 4)).keepEvent
      (disputeEvent ring tag q cause (expiryRefs e i e.cup))).expireBoth_owes i j e f d c .disputed).keepEvent
        (pairEvent place i e c .disputed)
    obtain ⟨y, more, hm, hy, hplace, hpresent, hnest⟩ := hm.expireBoth hpu hh .disputed
    have hm := hm.keepEvent (pairEvent place i e c .disputed)
    have hey : y.engine = .serving p := by rw [hy.shape]; exact hu.engine he
    obtain ⟨ids, hends, hrec, hgone⟩ := hy.endsDisputed hm hey howes.lanes howes.empties howes.events
      (List.ne_nil_of_mem (List.mem_append_right _ hplace)) rfl
    exact ⟨⟨_, by simp [hplace], by simp [hpresent], by simp [hnest], hends⟩,
      lost_of_records (hrec.trans hy.records), hgone⟩

end Sys2Proof.Machine
end

section
/-! PROOF. The outcomes of a report that ends a CUT, a PICK or a DISCARD (R24, R65 to R67, R121 to R124). -/

namespace Sys2Proof.Machine

open Sys2Proof.Claims

/-! ### The nest of an ended entry (R65 to R67) -/

theorem nestFlags_same (n : Nest) (x : NestState) : nestFlags n x x = 0 := by simp [nestFlags]

/-- A nest settled once more, where the flags of both changes are those of the whole. -/
theorem State.settledNest_twice {u : State} {n : Nest} {c d : NestContext}
    (h : nestFlags n (u.nest n).state c.state ||| nestFlags n c.state d.state = nestFlags n (u.nest n).state d.state) :
    (u.settledNest n c).settledNest n d = u.settledNest n d := by
  rw [State.settledNest, State.settledNest, State.settledNest, ← h, ← BitVec.or_assoc]
  cases n <;> rfl

theorem State.settledNest_nest (u : State) (n : Nest) (c : NestContext) : (u.settledNest n c).nest n = c := by
  cases n <;> rfl

theorem State.settledNest_entries (u : State) (n : Nest) (c : NestContext) :
    (u.settledNest n c).entries = u.entries := by
  cases n <;> rfl

theorem State.settledNest_withNest_state {u : State} {n : Nest} {c d : NestContext} (h : d.state = c.state) :
    (u.settledNest n c).withNest n d = u.settledNest n d := by
  rw [State.settledNest, State.settledNest, h]
  cases n <;> rfl

theorem without_settledNest (u : State) (i : Fin 32) (n : Nest) (c : NestContext) :
    without (u.settledNest n c) i = (without u i).settledNest n c := by
  cases n <;> rfl

theorem without_nest (u : State) (i : Fin 32) (n : Nest) : (without u i).nest n = u.nest n := by cases n <;> rfl

theorem countedDown_running {c : NestContext} (h : c.state = .active ∨ c.state = .stopping ∨ c.state = .stopped) :
    countedDown c = if c.remaining ≤ 1 then { c with remaining := 0, state := .complete }
      else { c with remaining := c.remaining - 1 } := by
  unfold countedDown
  rcases h with h | h | h <;> rw [h]

theorem Run.boardEnded_running {r : Run} {n : Nest}
    (h : (r.st.nest n).state = .active ∨ (r.st.nest n).state = .stopping ∨ (r.st.nest n).state = .stopped) :
    r.boardEnded n = if (r.st.nest n).remaining ≤ 1 then
        (r.setNest n { r.st.nest n with remaining := 0, state := .complete }).raise (.nestComplete n)
      else r.setNest n { r.st.nest n with remaining := (r.st.nest n).remaining - 1 } := by
  have hl : (r.st.nest n).state.loaded = true := by rcases h with h | h | h <;> rw [h] <;> rfl
  have hc : (r.st.nest n).state.completes = true := by rcases h with h | h | h <;> rw [h] <;> rfl
  have hk : (r.st.nest n).remaining - 1 = 0 ↔ (r.st.nest n).remaining ≤ 1 := by omega
  simp only [Run.boardEnded, hl, hc, if_true, Bool.and_true, decide_eq_true_eq, hk]

section Settled

variable {r : Run} {w : State} {n : Nest} {c : NestContext} {ids : List ImageId}
  (h : r.Made (w.settledNest n c) ids)
include h

/-- The drain test of a nest that has changed (R67). -/
theorem Run.Made.drainSettled (hs : c.state = .stopping → (w.nest n).state ≠ .stopped) :
    ∃ more, (r.drainTest n).Made (w.settledNest n (drained (w.nestNamed n) c)) (ids ++ more) ∧
      ∀ id ∈ more, id = .nest n ∨ id = .status := by
  obtain ⟨more, hm, hmore⟩ := h.drainTest n
  rw [State.settledNest_nest, State.nestNamed_congr (s := w) (State.settledNest_entries _ _ _),
    State.settledNest_twice] at hm
  · exact ⟨more, hm, hmore⟩
  · unfold drained
    split
    · next hd =>
      have hne := hs hd.1
      simp [nestFlags, hd.1, hne]
    · simp [nestFlags_same]

/-- A board of a nest has become terminal (R65). -/
theorem Run.Made.boardEndedSettled (hs : c.state = (w.nest n).state) :
    ∃ more, (r.boardEnded n).Made (w.settledNest n (countedDown c)) (ids ++ more) ∧
      ∀ id ∈ more, id = .nest n ∨ id = .status := by
  have hcount (k : Nat) : (r.setNest n { c with remaining := k }).Made (w.settledNest n { c with remaining := k })
      (ids ++ if c = { c with remaining := k } then [] else [.nest n]) := by
    have hm := h.setNest n { c with remaining := k }
    rw [State.settledNest_nest, State.settledNest_withNest_state (c := c) (d := { c with remaining := k }) rfl] at hm
    exact hm
  have hone (k : Nat) : ∃ more, (r.setNest n { c with remaining := k }).Made
      (w.settledNest n { c with remaining := k }) (ids ++ more) ∧ ∀ id ∈ more, id = .nest n ∨ id = .status := by
    refine ⟨_, hcount k, fun id hid => ?_⟩
    simp only [List.mem_ite_nil_left, List.mem_singleton] at hid
    exact .inl hid.2
  have hcomplete (hc : c.state = .active ∨ c.state = .stopping ∨ c.state = .stopped) :
      ∃ more, ((r.setNest n { c with remaining := 0, state := .complete }).raise (.nestComplete n)).Made
        (w.settledNest n { c with remaining := 0, state := .complete }) (ids ++ more) ∧
        ∀ id ∈ more, id = .nest n ∨ id = .status := by
    have hm := (h.setNest n { c with remaining := 0, state := .complete }).raise (.nestComplete n)
    refine ⟨_, (hm.at_state ?_).congr fun id => by rw [List.append_assoc], fun id hid => ?_⟩
    · have hne : (w.nest n).state ≠ .complete := by
        rw [← hs]
        rcases hc with h | h | h <;> rw [h] <;> exact nofun
      have hflags : nestFlags n (w.nest n).state .complete = (Flag.nestComplete n).bits := by
        simp [nestFlags, hne]
      simp only [State.settledNest, hs, nestFlags_same, hflags]
      cases n <;> simp [State.withNest]
    · simp only [List.mem_append, List.mem_ite_nil_left, List.mem_singleton] at hid
      exact hid.imp And.right And.right
  by_cases hc : c.state = .active ∨ c.state = .stopping ∨ c.state = .stopped
  · rw [countedDown_running hc, Run.boardEnded_running (by rw [h.shape, State.settledNest_nest]; exact hc), h.shape,
      State.settledNest_nest]
    by_cases hk : c.remaining ≤ 1
    · rw [if_pos hk, if_pos hk]
      exact hcomplete hc
    · rw [if_neg hk, if_neg hk]
      exact hone _
  · unfold Run.boardEnded countedDown
    rw [h.shape, State.settledNest_nest]
    cases hx : c.state with
    | active => exact absurd (.inl hx) hc
    | stopping => exact absurd (.inr (.inl hx)) hc
    | stopped => exact absurd (.inr (.inr hx)) hc
    | complete =>
      simp only [hx, NestState.loaded, NestState.completes, Bool.and_false, Bool.false_eq_true, if_false, if_true]
      simpa only [hx] using hone (c.remaining - 1)
    | empty =>
      simp only [hx, NestState.loaded, Bool.false_eq_true, if_false]
      exact ⟨[], h.congr (by simp), by simp⟩
    | loading =>
      simp only [hx, NestState.loaded, Bool.false_eq_true, if_false]
      exact ⟨[], h.congr (by simp), by simp⟩
    | illegal =>
      simp only [hx, NestState.loaded, Bool.false_eq_true, if_false]
      exact ⟨[], h.congr (by simp), by simp⟩
    | releasing =>
      simp only [hx, NestState.loaded, Bool.false_eq_true, if_false]
      exact ⟨[], h.congr (by simp), by simp⟩

end Settled

/-! ### The steps of an ended entry -/

theorem State.withNest_settled {u : State} {n : Nest} {c : NestContext} (h : c.state = (u.nest n).state) :
    u.withNest n c = u.settledNest n c := by
  rw [State.settledNest, h, nestFlags_same]
  cases n <;> simp [State.withNest]

theorem Run.Made.putCup {r : Run} {u : State} {ids : List ImageId} (h : r.Made u ids) (c : Fin 4) (cup : Cup) :
    ∃ more, (r.putCup (some c) cup).Made { u with cups := u.cups.set c cup } (ids ++ more) ∧
      ∀ id ∈ more, id = .cup c := by
  refine ⟨_, h.setCup c cup, fun id hid => ?_⟩
  simp only [List.mem_ite_nil_left, List.mem_singleton] at hid
  exact hid.2

theorem Run.Spares.putCup (r : Run) (c : Option (Fin 4)) (cup : Cup) : r.Spares (r.putCup c cup) := by
  cases c with
  | none => exact .refl r
  | some c => exact .setCup r c cup

theorem State.relined_nest (u : State) (b : BoardRef) (k : Fin 64) (l : CacheLine) (h : BoardHw) (n : Nest) :
    (u.relined b k l h).nest n = u.nest n := by cases n <;> rfl

/-- The record of a cached board changes. -/
theorem Run.Made.changeCached {r : Run} {u : State} {ids : List ImageId} (h : r.Made u ids) {b : BoardRef}
    {k : Fin 64} {l : CacheLine} (hk : u.lineOf b = some k) (hl : u.cache.get k = some l) {f : BoardHw → BoardHw}
    (hf : f l.words.hw ≠ l.words.hw) :
    ∃ more, (r.changeBoard b f).Made
        ((u.relined b k l (f l.words.hw)).settledNest b.nest { u.nest b.nest with status := .dirty }) (ids ++ more) ∧
      ∀ id ∈ more, id = .nest b.nest := by
  obtain ⟨more, hm, hmore⟩ := h.changeBoard b f
  rw [State.rewritten_changed hk hl hf, State.withNest_settled (by rw [State.relined_nest])] at hm
  exact ⟨more, hm, hmore⟩

/-- The context of its nest once an entry has been removed from a state. -/
def reclaimed (w : State) (i : Fin 32) (e : Entry) (c : NestContext) : NestContext :=
  { c with claim := if e.kind = .cut ∨ e.kind = .pick then (without w i).claimOf e.board.nest else c.claim }

theorem Run.Made.removeSettled {r : Run} {w : State} {i : Fin 32} {e : Entry} {c : NestContext}
    {ids : List ImageId} (h : r.Made (w.settledNest e.board.nest c) ids) (he : w.entries.get i = some e) :
    ∃ more, (r.removeEntries [i]).Made ((without w i).settledNest e.board.nest (reclaimed w i e c))
        (ids ++ .entry i :: more) ∧
      (∀ id ∈ more, id = .nest e.board.nest) ∧ r.Removes (r.removeEntries [i]) e.mark := by
  obtain ⟨more, hm, hmore, hr⟩ := h.removeEntry (i := i) (e := e) (by rw [State.settledNest_entries]; exact he)
  refine ⟨more, hm.at_state ?_, hmore, hr⟩
  have hentries : (without (w.settledNest e.board.nest c) i).entries = (without w i).entries := by
    rw [without_settledNest, State.settledNest_entries]
  rw [unclaimed, State.settledNest_nest, State.claimOf_congr hentries, without_settledNest]
  exact State.settledNest_withNest_state (d := reclaimed w i e c) rfl

theorem Run.Removes.after {r r' r'' : Run} {marks : List (Nat × BitVec 8)} (h : r.Spares r')
    (k : r'.Removes r'' marks) : r.Removes r'' marks :=
  ⟨k.answers.trans h.rest.answers, by rw [k.empties, h.rest.empties], k.events.trans h.rest.events,
    k.lanes.trans h.lanes⟩

theorem Run.Spares.boardEnded (r : Run) (n : Nest) : r.Spares (r.boardEnded n) := by
  unfold Run.boardEnded
  simp only
  split
  · split
    · exact (Spares.setNest r n _).trans (.raise _ _)
    · exact .setNest r n _
  · exact .refl r

/-- The state in which an entry has ended, with its board and its cup. -/
theorem ended_shape {y x : State} {cups : Table 4 Cup} {b : BoardRef} {k : Fin 64} {l : CacheLine} {h : BoardHw}
    {i : Fin 32} {n : Nest} {c : NestContext} (hk : y.lineOf b = some k) (hl : y.cache.get k = some l)
    (hx : x = (without (State.relined { y with cups := cups } b k l h) i).settledNest n c) :
    x = { State.withNest (without y i) n c with
        cups := cups, cache := x.cache, recency := x.recency, walker := x.walker
        flags := y.flags ||| nestFlags n (y.nest n).state c.state } ∧ Rewritten y x b l h := by
  refine ⟨?_, State.relined_rewritten hk hl ?_ ?_ ?_⟩
  · rw [hx]
    cases n <;> rfl
  · rw [hx]
    cases n <;> rfl
  · rw [hx]
    cases n <;> rfl
  · rw [hx]
    cases n <;> rfl

theorem ended_shape_uncupped {y x : State} {b : BoardRef} {k : Fin 64} {l : CacheLine} {h : BoardHw} {i : Fin 32}
    {n : Nest} {c : NestContext} (hk : y.lineOf b = some k) (hl : y.cache.get k = some l)
    (hx : x = (without (y.relined b k l h) i).settledNest n c) :
    x = { State.withNest (without y i) n c with
        cache := x.cache, recency := x.recency, walker := x.walker
        flags := y.flags ||| nestFlags n (y.nest n).state c.state } ∧ Rewritten y x b l h := by
  obtain ⟨hshape, hr⟩ := ended_shape (cups := y.cups) hk hl hx
  exact ⟨hshape.trans (by cases n <;> rfl), hr⟩

/-! ### CUT_END (R122) -/

theorem derivedState_ne (tabs : Nat) (mask : BitVec 12) :
    derivedState tabs mask = .intact ∨ derivedState tabs mask = .partCut ∨ derivedState tabs mask = .free := by
  unfold derivedState
  split
  · exact .inr (.inr rfl)
  · split
    · exact .inl rfl
    · exact .inr (.inl rfl)

/-- A nest that a TOOL_FAULT stops while it is ACTIVE (R122). -/
def toolStopped (w1 : Word) (c : NestContext) : NestContext :=
  if cutEndToolFault w1 = true ∧ c.state = .active then { c with state := .stopping } else c

/-- A TOOL_FAULT stops an ACTIVE nest (R122). -/
def Run.toolStop (r : Run) (w1 : Word) (n : Nest) : Run :=
  if cutEndToolFault w1 && (r.st.nest n).state == .active then r.setNest n { r.st.nest n with state := .stopping }
  else r

theorem Run.Spares.toolStop (r : Run) (w1 : Word) (n : Nest) : r.Spares (r.toolStop w1 n) := by
  unfold Run.toolStop
  split
  · exact .setNest r n _
  · exact .refl r

theorem Run.Made.toolStop {r : Run} {w : State} {n : Nest} {c : NestContext} {ids : List ImageId}
    (h : r.Made (w.settledNest n c) ids) (hs : c.state = (w.nest n).state) (w1 : Word) :
    ∃ more, (r.toolStop w1 n).Made (w.settledNest n (toolStopped w1 c)) (ids ++ more) ∧
      ∀ id ∈ more, id = .nest n := by
  unfold Run.toolStop toolStopped
  rw [h.shape, State.settledNest_nest]
  by_cases hc : cutEndToolFault w1 = true ∧ c.state = .active
  · have hm := h.setNest n { c with state := .stopping }
    rw [if_pos (by simp [hc]), if_pos hc]
    refine ⟨_, hm.at_state ?_, fun id hid => ?_⟩
    · simp only [State.settledNest, ← hs, hc.2, nestFlags]
      cases n <;> rfl
    · simp only [List.mem_ite_nil_left, List.mem_singleton] at hid
      exact hid.2
  · rw [if_neg (by simpa using hc), if_neg hc]
    exact ⟨[], h.congr (by simp), by simp⟩

/-- What a CUT_END does (R122). -/
theorem Run.Made.cutOutcome {r : Run} {y : State} {ids : List ImageId} (h : r.Made y ids) {i : Fin 32} {e : Entry}
    {span : Span} {l : CacheLine} (he : y.entries.get i = some e) (hkind : e.kind = .cut)
    (hspan : e.span = some span) (hl : y.cached e.board = some l)
    (hs : l.words.hw.state ≠ .intact ∧ l.words.hw.state ≠ .partCut ∧ l.words.hw.state ≠ .free) (w1 : Word)
    (q : Request) :
    ∃ x more, (cutOutcome w1 q i e r).Made x (ids ++ more) ∧ CutEnded y x i e span l w1 ∧ .entry i ∈ more ∧
      (∀ id ∈ more, id ∈ [.entry i, .nest e.board.nest, .status]) ∧ r.Removes (cutOutcome w1 q i e r) [] := by
  obtain ⟨k, hk, hget, -⟩ := State.cached_some hl
  have hf : BoardHw.afterCut (spanMask span (cutEndDone w1)) l.words.hw ≠ l.words.hw := fun heq => by
    have hstate := congrArg BoardHw.state heq
    rcases derivedState_ne l.words.hw.tabs (l.words.hw.cutMask ||| spanMask span (cutEndDone w1)) with h | h | h
    · exact hs.1 (hstate.symm.trans h)
    · exact hs.2.1 (hstate.symm.trans h)
    · exact hs.2.2 (hstate.symm.trans h)
  have hrun : Machine.cutOutcome w1 q i e r =
      (((r.changeBoard e.board (BoardHw.afterCut (spanMask span (cutEndDone w1)))).removeEntries [i]).toolStop w1
        e.board.nest).drainTest e.board.nest := by
    unfold Machine.cutOutcome
    rw [hspan]
    rfl
  obtain ⟨m1, hm, h1⟩ := h.changeCached hk hget hf
  obtain ⟨m2, hm, h2, hr⟩ := hm.removeSettled (i := i) (e := e) he
  obtain ⟨m3, hm, h3⟩ := hm.toolStop (w1 := w1) (by
    rw [without_nest, State.relined_nest]
    rfl)
  obtain ⟨m4, hm, h4⟩ := hm.drainSettled (by
    rw [without_nest, State.relined_nest]
    intro hstop
    unfold toolStopped at hstop
    split at hstop
    · next hc =>
      have : (y.nest e.board.nest).state = .active := hc.2
      rw [this]
      exact nofun
    · have : (y.nest e.board.nest).state = .stopping := hstop
      rw [this]
      exact nofun)
  have hremoves := ((hr.spares (.toolStop _ w1 e.board.nest)).spares (.drainTest _ e.board.nest)).after
    (.changeBoard r e.board (BoardHw.afterCut (spanMask span (cutEndDone w1))))
  rw [show e.mark = [] by simp [Entry.mark, hkind], ← hrun] at hremoves
  rw [← hrun] at hm
  have hclaim : reclaimed (y.relined e.board k l (BoardHw.afterCut (spanMask span (cutEndDone w1)) l.words.hw)) i e
      { y.nest e.board.nest with status := .dirty } =
        { y.nest e.board.nest with status := .dirty, claim := (without y i).claimOf e.board.nest } := by
    rw [reclaimed, if_pos (.inl hkind)]
    rfl
  rw [hclaim] at hm
  refine ⟨_, _, hm.congr fun id => by simp only [List.append_assoc]; rfl, ?_, by simp, fun id hid => ?_, hremoves⟩
  · exact ended_shape_uncupped hk hget rfl
  · have := h1 id; have := h2 id; have := h3 id; have := h4 id
    simp only [List.mem_append, List.mem_cons, List.not_mem_nil, or_false] at hid ⊢
    tauto

end Sys2Proof.Machine
end

section
/-! PROOF. PICK_END and DISCARD_END, and the reports that end one entry where none is skipped (R65, R66, R121 to
R124). -/

namespace Sys2Proof.Machine

open Sys2Proof.Claims

theorem countedDown_state (c : NestContext) :
    (countedDown c).state = c.state ∨ (countedDown c).state = .complete := by
  by_cases hc : c.state = .active ∨ c.state = .stopping ∨ c.state = .stopped
  · rw [countedDown_running hc]
    split
    · exact .inr rfl
    · exact .inl rfl
  · refine .inl ?_
    unfold countedDown
    cases hs : c.state with
    | active => exact absurd (.inl hs) hc
    | stopping => exact absurd (.inr (.inl hs)) hc
    | stopped => exact absurd (.inr (.inr hs)) hc
    | complete => rfl
    | empty => exact hs
    | loading => exact hs
    | illegal => exact hs
    | releasing => exact hs

/-! ### A PICK or a DISCARD ends (R123, R124) -/

/-- What the end of a PICK or a DISCARD does: its cup, its board, its entry and its nest. -/
def Run.cupEnded (r : Run) (c : Option (Fin 4)) (cup : Cup) (f : BoardHw → BoardHw) (i : Fin 32) (e : Entry)
    (terminal : Bool) : Run :=
  let r := ((r.putCup c cup).changeBoard e.board f).removeEntries [i]
  (if terminal = true then r.boardEnded e.board.nest else r).drainTest e.board.nest

/-- The nest of a PICK or DISCARD that has ended, but for the drain test. -/
def cupNest (y : State) (i : Fin 32) (e : Entry) (terminal : Bool) : NestContext :=
  let c : NestContext := { y.nest e.board.nest with
    status := .dirty
    claim := if e.kind = .cut ∨ e.kind = .pick then (without y i).claimOf e.board.nest
      else (y.nest e.board.nest).claim }
  if terminal = true then countedDown c else c

/-- The end of a PICK or DISCARD in `y`: the cup, the board, the entry and the nest (R65, R66, R121). -/
def CupEnded (y x : State) (i : Fin 32) (e : Entry) (c : Fin 4) (cup : Cup) (l : CacheLine) (h : BoardHw)
    (terminal : Bool) : Prop :=
  let k := drained ((without y i).nestNamed e.board.nest) (cupNest y i e terminal)
  x = { State.withNest (without y i) e.board.nest k with
    cups := y.cups.set c cup
    cache := x.cache, recency := x.recency, walker := x.walker
    flags := y.flags ||| nestFlags e.board.nest (y.nest e.board.nest).state k.state } ∧
  Rewritten y x e.board l h

theorem Run.Made.cupEnded {r : Run} {y : State} {ids : List ImageId} (h : r.Made y ids) {i : Fin 32} {e : Entry}
    {l : CacheLine} (he : y.entries.get i = some e) (hl : y.cached e.board = some l) {f : BoardHw → BoardHw}
    (hf : f l.words.hw ≠ l.words.hw) (hk : e.kind ≠ .present) (c : Fin 4) (cup : Cup) (terminal : Bool) :
    ∃ x more, (r.cupEnded (some c) cup f i e terminal).Made x (ids ++ more) ∧
      CupEnded y x i e c cup l (f l.words.hw) terminal ∧ .entry i ∈ more ∧
      (∀ id ∈ more, id ∈ [.entry i, .cup c, .nest e.board.nest, .status]) ∧
      r.Removes (r.cupEnded (some c) cup f i e terminal) [] := by
  obtain ⟨k, hline, hget, -⟩ := State.cached_some hl
  obtain ⟨m0, hm, h0⟩ := h.putCup c cup
  obtain ⟨m1, hm, h1⟩ := hm.changeCached (k := k) hline hget hf
  obtain ⟨m2, hm, h2, hr⟩ := hm.removeSettled (i := i) (e := e) he
  have hmark : e.mark = [] := if_neg hk
  rw [hmark] at hr
  generalize hw : without (State.relined { y with cups := y.cups.set c cup } e.board k l (f l.words.hw)) i = w at hm
  have hnest : w.nest e.board.nest = y.nest e.board.nest := by
    rw [← hw, without_nest, State.relined_nest]
    cases e.board.nest <;> rfl
  have hnamed : w.nestNamed e.board.nest = (without y i).nestNamed e.board.nest := by
    rw [← hw]
    rfl
  have hcontext : reclaimed (State.relined { y with cups := y.cups.set c cup } e.board k l (f l.words.hw)) i e
      { State.nest { y with cups := y.cups.set c cup } e.board.nest with status := .dirty } =
        cupNest y i e false := by
    have hn : State.nest { y with cups := y.cups.set c cup } e.board.nest = y.nest e.board.nest := by
      cases e.board.nest <;> rfl
    rw [hn]
    rfl
  rw [hcontext] at hm
  have hend (r' : Run) (m3 : List ImageId) (hm : r'.Made (w.settledNest e.board.nest (cupNest y i e terminal))
      (((((ids ++ m0) ++ m1) ++ .entry i :: m2) ++ m3)))
      (h3 : ∀ id ∈ m3, id = .nest e.board.nest ∨ id = .status) :
      ∃ x more, (r'.drainTest e.board.nest).Made x (ids ++ more) ∧
        CupEnded y x i e c cup l (f l.words.hw) terminal ∧ .entry i ∈ more ∧
        ∀ id ∈ more, id ∈ [.entry i, .cup c, .nest e.board.nest, .status] := by
    obtain ⟨m4, hm, h4⟩ := hm.drainSettled (by
      rw [hnest]
      intro hstop hstopped
      have hs0 : (cupNest y i e false).state = .stopped := hstopped
      cases terminal with
      | false => exact absurd (hstop.symm.trans hs0) nofun
      | true =>
        have hcd : (countedDown (cupNest y i e false)).state = .stopping := hstop
        rcases countedDown_state (cupNest y i e false) with h | h
        · exact absurd (hcd.symm.trans (h.trans hs0)) nofun
        · exact absurd (hcd.symm.trans h) nofun)
    rw [hnamed] at hm
    refine ⟨_, _, hm.congr fun id => by simp only [List.append_assoc]; rfl, ?_, by simp, fun id hid => ?_⟩
    · exact ended_shape hline hget (by rw [← hw])
    · simp only [List.mem_append, List.mem_cons, List.not_mem_nil, or_false] at hid ⊢
      rcases hid with hid | hid | (hid | hid) | hid | hid
      · exact .inr (.inl (h0 id hid))
      · exact .inr (.inr (.inl (h1 id hid)))
      · exact .inl hid
      · exact .inr (.inr (.inl (h2 id hid)))
      · exact .inr (.inr (h3 id hid))
      · exact .inr (.inr (h4 id hid))
  have hspares := (Run.Spares.putCup r (some c) cup).trans (.changeBoard _ e.board f)
  cases terminal with
  | false =>
    obtain ⟨x, more, hm, hx, hin, hmore⟩ := hend _ [] (hm.congr fun id => by simp) (by simp)
    exact ⟨x, more, hm, hx, hin, hmore, (hr.spares (.drainTest _ _)).after hspares⟩
  | true =>
    obtain ⟨m3, hm, h3⟩ := hm.boardEndedSettled (by rw [hnest]; rfl)
    obtain ⟨x, more, hm, hx, hin, hmore⟩ := hend _ m3 hm h3
    exact ⟨x, more, hm, hx, hin, hmore, ((hr.spares (.boardEnded _ _)).spares (.drainTest _ _)).after hspares⟩

/-- What a PICK_END does (R123). -/
theorem Run.Made.pickOutcome {r : Run} {y : State} {ids : List ImageId} (h : r.Made y ids) {i : Fin 32} {e : Entry}
    {c : Fin 4} {l : CacheLine} (he : y.entries.get i = some e) (hkind : e.kind = .pick) (hcup : e.cup = some c)
    (hl : y.cached e.board = some l) (hs : l.words.hw.state ≠ .held ∧ l.words.hw.state ≠ .lost ∧
      l.words.hw.state ≠ .free) (w1 : Word) (q : Request) :
    ∃ x more, (pickOutcome w1 q i e r).Made x (ids ++ more) ∧ PickEnded y x i e c l (reportResult w1) ∧
      .entry i ∈ more ∧ (∀ id ∈ more, id ∈ [.entry i, .cup c, .nest e.board.nest, .status]) ∧
      r.Removes (pickOutcome w1 q i e r) [] := by
  obtain ⟨hheld, hlost, hfree⟩ := hs
  have hne : e.kind ≠ .present := by rw [hkind]; exact nofun
  have hclaim (terminal : Bool) : cupNest y i e terminal =
      if terminal = true then countedDown { y.nest e.board.nest with
        status := .dirty, claim := (without y i).claimOf e.board.nest }
      else { y.nest e.board.nest with status := .dirty, claim := (without y i).claimOf e.board.nest } := by
    have hc : e.kind = .cut ∨ e.kind = .pick := .inr hkind
    simp only [cupNest, if_pos hc]
  unfold Machine.pickOutcome PickEnded
  rw [hcup]
  cases hres : reportResult w1 with
  | done =>
    obtain ⟨x, more, hm, hx, hrest⟩ := h.cupEnded he hl (f := fun h => { h with state := .held })
      (fun heq => hheld (congrArg BoardHw.state heq).symm) hne c (loadedWith e.board) false
    refine ⟨x, more, hm, ?_, hrest⟩
    unfold CupEnded at hx
    rw [hclaim] at hx
    exact hx
  | fail =>
    obtain ⟨x, more, hm, hx, hrest⟩ := h.cupEnded he hl (f := fun h => { h with state := .free, cup := none })
      (fun heq => hfree (congrArg BoardHw.state heq).symm) hne c ⟨.empty, none⟩ false
    refine ⟨x, more, hm, ?_, hrest⟩
    unfold CupEnded at hx
    rw [hclaim] at hx
    exact hx
  | abort =>
    obtain ⟨x, more, hm, hx, hrest⟩ := h.cupEnded he hl (f := fun h => { h with state := .free, cup := none })
      (fun heq => hfree (congrArg BoardHw.state heq).symm) hne c ⟨.empty, none⟩ false
    refine ⟨x, more, hm, ?_, hrest⟩
    unfold CupEnded at hx
    rw [hclaim] at hx
    exact hx
  | dropped =>
    obtain ⟨x, more, hm, hx, hrest⟩ := h.cupEnded he hl (f := BoardHw.dropped)
      (fun heq => hlost (congrArg BoardHw.state heq).symm) hne c ⟨.empty, none⟩ true
    refine ⟨x, more, hm, ?_, hrest⟩
    unfold CupEnded at hx
    rw [hclaim] at hx
    exact hx

/-- What a DISCARD_END does (R124). -/
theorem Run.Made.discardOutcome {r : Run} {y : State} {ids : List ImageId} (h : r.Made y ids) {i : Fin 32}
    {e : Entry} {c : Fin 4} {l : CacheLine} (he : y.entries.get i = some e) (hkind : e.kind = .discard)
    (hcup : e.cup = some c) (hl : y.cached e.board = some l)
    (hs : l.words.hw.state ≠ .held ∧ l.words.hw.state ≠ .lost ∧ l.words.hw.state ≠ .scrapped) {w1 : Word}
    (hres : reportResult w1 ≠ .fail) (q : Request) :
    ∃ x more, (discardOutcome w1 q i e r).Made x (ids ++ more) ∧ DiscardEnded y x i e c l (reportResult w1) ∧
      .entry i ∈ more ∧ (∀ id ∈ more, id ∈ [.entry i, .cup c, .nest e.board.nest, .status]) ∧
      r.Removes (discardOutcome w1 q i e r) [] := by
  obtain ⟨hheld, hlost, hscrapped⟩ := hs
  have hne : e.kind ≠ .present := by rw [hkind]; exact nofun
  have hclaim (terminal : Bool) : cupNest y i e terminal =
      if terminal = true then countedDown { y.nest e.board.nest with status := .dirty }
      else { y.nest e.board.nest with status := .dirty } := by
    have hc : ¬(e.kind = .cut ∨ e.kind = .pick) := by rw [hkind]; exact nofun
    simp only [cupNest, if_neg hc]
  unfold Machine.discardOutcome DiscardEnded
  rw [hcup]
  cases hr : reportResult w1 with
  | fail => exact absurd hr hres
  | abort =>
    obtain ⟨x, more, hm, hx, hrest⟩ := h.cupEnded he hl (f := fun h => { h with state := .held })
      (fun heq => hheld (congrArg BoardHw.state heq).symm) hne c (loadedWith e.board) false
    refine ⟨x, more, hm, ?_, hrest⟩
    unfold CupEnded at hx
    rw [hclaim] at hx
    exact hx
  | done =>
    obtain ⟨x, more, hm, hx, hrest⟩ := h.cupEnded he hl (f := fun h => { h with state := .scrapped, cup := none })
      (fun heq => hscrapped (congrArg BoardHw.state heq).symm) hne c ⟨.empty, none⟩ true
    refine ⟨x, more, hm, ?_, hrest⟩
    unfold CupEnded at hx
    rw [hclaim] at hx
    exact hx
  | dropped =>
    obtain ⟨x, more, hm, hx, hrest⟩ := h.cupEnded he hl (f := BoardHw.dropped)
      (fun heq => hlost (congrArg BoardHw.state heq).symm) hne c ⟨.empty, none⟩ true
    refine ⟨x, more, hm, ?_, hrest⟩
    unfold CupEnded at hx
    rw [hclaim] at hx
    exact hx

end Sys2Proof.Machine
end

section
/-! PROOF. The reports that end a CUT, a PICK or a DISCARD, and the first report of a pair, where no entry is skipped
(R105, R117, R120, R122 to R125). -/

namespace Sys2Proof.Machine

open Sys2Proof.Claims

/-! ### A report that fits -/

/-- The row of a report's kind. -/
def ReportKind.row (k : ReportKind) (answers : List MemAnswer) : Instr :=
  match k with
  | .cutEnd => .cutEnd answers
  | .pickEnd => .pickEnd answers
  | .placeEnd => .placeEnd answers
  | .discardEnd => .discardEnd answers
  | .presentEnd => .presentEnd answers
  | .arrived => .arrived answers
  | .removed => .removed answers

/-- The kind of the reports that a row serves. -/
def reportsOf : Instr → Option ReportKind
  | .cutEnd _ => some .cutEnd
  | .pickEnd _ => some .pickEnd
  | .placeEnd _ => some .placeEnd
  | .discardEnd _ => some .discardEnd
  | .presentEnd _ => some .presentEnd
  | .arrived _ => some .arrived
  | .removed _ => some .removed
  | _ => none

theorem reports_row (k : ReportKind) (answers : List MemAnswer) : reportsOf (k.row answers) = some k := by
  cases k <;> rfl

theorem reports_reportRow (ring : RepRing) (data : Word) (answers : List MemAnswer) :
    reportsOf (reportRow ring data answers) = reportKind ring (ringKind data) := by
  unfold reportRow
  cases reportKind ring (ringKind data) with
  | none => rfl
  | some k => cases k <;> rfl

theorem reportKind_of_row {ring : RepRing} {data : Word} {answers : List MemAnswer} {k : ReportKind}
    (h : reportRow ring data answers = k.row answers) : reportKind ring (ringKind data) = some k := by
  rw [← reports_reportRow ring data answers, h, reports_row]

theorem fits_apply {s : State} {ring : RepRing} {tag : Tag} {q : Request} (hp : Reported s ring tag q)
    (outcome : Word → Request → Fin 32 → Entry → Run → Run) (w1 : Word) {i : Fin 32} {e : Entry} {r : Run}
    (he : r.st.entries.get i = some e) :
    applyMatch outcome tag q w1 (.fits i) r = outcome w1 q i e (r.skip ring.answers i) := by
  simp only [applyMatch, he, reportRing_of_report hp]

/-- A report that its ring's earlier entries do not precede skips none (R120). -/
theorem skip_none {s : State} {ring : RepRing} {q : Request} {i : Fin 32} {e : Entry} (h : Answers s ring q i e)
    {r : Run} (ho : r.st.order = s.order) (he : r.st.entries = s.entries) : r.skip ring.answers i = r := by
  have hnone : r.st.skipped ring.answers i = [] := by
    rw [State.skipped, ho, he, List.filter_eq_nil_iff]
    intro j hj
    have hfirst := h.first j hj
    cases hf : s.entries.get j with
    | none => simp
    | some f => simpa using hfirst f hf
  rw [Run.skip, hnone]
  rfl

/-- The exec of a report that fits its entry and skips none. -/
theorem answered_exec {s : State} {ring : RepRing} {tag : Tag} {q : Request} {k : ReportKind}
    {answers : List MemAnswer} (hp : Reported s ring tag q)
    (hrow : reportRow ring q.data answers = k.row answers) (h4 : Answered answers 4) (ha : k ≠ .arrived)
    (hr : k ≠ .removed) {i : Fin 32} {e : Entry} (h : Answers s ring q i e)
    (hs : e.state = .isOpen ∨ e.state = .half) (hm : Meets k e (word1 s answers q))
    (hspan : k = .cutEnd → ∀ span, e.span = some span → cutEndDone (word1 s answers q) ≤ span.count) :
    exec (k.row answers) s = .next ((k.outcome (word1 s answers q) q i e
      (Run.start (appliedReport s answers q) (answers.drop 4))).conclude.finishHeld tag .done) := by
  obtain ⟨p, he⟩ := serving_of_report hp
  have hu := appliedReport_beside s answers q
  have hexec := solicited_applied hp (reportKind_of_row hrow) ha hr h4
    (matchReport_fits hp h.named h.entry hs hm hspan) rfl
  rw [fits_apply hp k.outcome _ (e := e) (r := Run.start (appliedReport s answers q) (answers.drop 4))
    ((congrArg (fun t => Table.get t i) (hu.entries he)).trans h.entry),
    skip_none h (r := Run.start (appliedReport s answers q) (answers.drop 4)) (hu.order he) (hu.entries he),
    hrow] at hexec
  exact hexec

/-- A report whose outcome leaves no duty for its end. -/
theorem Run.Made.endsReport {u x : State} {rest : List MemAnswer} {r : Run} {more : List ImageId}
    (hm : r.Made x ([] ++ more)) (hr : (Run.start u rest).Removes r []) {id : ImageId} (hin : id ∈ more)
    {may : List ImageId} (hmay : ∀ id ∈ more, id ∈ may) (tag : Tag) :
    Ended x (r.conclude.finishHeld tag .done) tag [id] may :=
  hm.ended ⟨hr.lanes, hr.empties, hr.events⟩ (by simpa using hin) (by simpa using hmay)
    (by simpa using List.ne_nil_of_mem hin) tag

/-- Settles O34. -/
theorem cutEndDerivesTheBoard : Obligations.CutEndDerivesTheBoard := by
  unfold Obligations.CutEndDerivesTheBoard
  intro s tag q answers i e span l hp hrow h4 h hkind hstate hspan hdone u hl hs
  obtain ⟨p, he⟩ := serving_of_report hp
  have hu : s.Beside u := appliedReport_beside s answers q
  have hmeets : Meets .cutEnd e (word1 s answers q) :=
    ⟨by rw [hkind]; rfl, fun ⟨hh, _⟩ => absurd (hstate.symm.trans hh) nofun, nofun, fun ⟨hk, _⟩ => by simp at hk⟩
  have hexec := answered_exec (k := .cutEnd) hp hrow h4 nofun nofun h (.inl hstate) hmeets fun _ span' hspan' => by
    obtain rfl := Option.some.inj (hspan.symm.trans hspan')
    exact hdone
  obtain ⟨x, more, hm, hx, hin, hmore, hr⟩ := (Run.Made.started ((hu.mode he).trans hp.guarded)
    (answers.drop 4)).cutOutcome (i := i) (e := e) (by rw [hu.entries he]; exact h.entry) hkind hspan hl
      (by rw [hs]; exact ⟨nofun, nofun, nofun⟩) (word1 s answers q) q
  exact ⟨x, _, hexec, hx, hm.endsReport hr hin hmore tag⟩

/-- Settles O35. -/
theorem pickAndDiscardEndsSettleTheCup : Obligations.PickAndDiscardEndsSettleTheCup := by
  unfold Obligations.PickAndDiscardEndsSettleTheCup
  intro s tag q answers i e c l hp h4 h hstate hcup u hl result images
  obtain ⟨p, he⟩ := serving_of_report hp
  have hu : s.Beside u := appliedReport_beside s answers q
  have hm := Run.Made.started ((hu.mode he).trans hp.guarded) (answers.drop 4)
  have hentry : u.entries.get i = some e := by rw [hu.entries he]; exact h.entry
  have hopen : ¬(e.state = .half ∧ e.stored ≠ none) := fun ⟨hh, _⟩ => absurd (hstate.symm.trans hh) nofun
  refine ⟨fun hrow hkind hres hs => ?_, fun hrow hkind hres hs => ?_⟩
  · have hmeets : Meets .pickEnd e (word1 s answers q) :=
      ⟨by rw [hkind]; rfl, hopen, fun ⟨_, hr⟩ => hres hr, fun ⟨hk, _⟩ => by simp at hk⟩
    obtain ⟨x, more, hm, hx, hin, hmore, hr⟩ := hm.pickOutcome hentry hkind hcup hl
      (by rw [hs]; exact ⟨nofun, nofun, nofun⟩) (word1 s answers q) q
    exact ⟨x, _, answered_exec (k := .pickEnd) hp hrow h4 nofun nofun h (.inl hstate) hmeets nofun, hx,
      hm.endsReport hr hin hmore tag⟩
  · have hmeets : Meets .discardEnd e (word1 s answers q) :=
      ⟨by rw [hkind]; rfl, hopen, nofun, fun ⟨_, hr⟩ => hres hr⟩
    obtain ⟨x, more, hm, hx, hin, hmore, hr⟩ := hm.discardOutcome hentry hkind hcup hl
      (by rw [hs]; exact ⟨nofun, nofun, nofun⟩) hres q
    exact ⟨x, _, answered_exec (k := .discardEnd) hp hrow h4 nofun nofun h (.inl hstate) hmeets nofun, hx,
      hm.endsReport hr hin hmore tag⟩

/-! ### The first report of a pair (R105, R125) -/

theorem Run.Made.storeReport {r : Run} {u : State} {ids : List ImageId} (h : r.Made u ids) {i j : Fin 32}
    {e f : Entry} (hp : u.partnerOf e = some (j, f)) (payload : StoredPayload) (slot : Nat) :
    (r.storeReport i e payload slot).Made (halved u i j e f ⟨payload, slot, u.time⟩) (ids ++ [.entry i, .entry j]) ∧
      r.Spares (r.storeReport i e payload slot) := by
  unfold Run.storeReport
  simp only [h.shape, hp]
  exact ⟨((h.setEntry i _).setEntry j _).congr fun id => by simp, (Run.Spares.setEntry r i _).trans (.setEntry _ j _)⟩

theorem pairOutcome_open {r : Run} {i : Fin 32} {e : Entry} (h : e.state = .isOpen) (payload : StoredPayload)
    (q : Request) : pairOutcome payload q i e r = r.storeReport i e payload (r.st.reportSlot q) := by
  unfold pairOutcome
  rw [h]

theorem reportSlot_eq {s u : State} {ring : RepRing} {tag : Tag} {q : Request} {layout : RingLayout}
    (hp : Reported s ring tag q) (h : u.rings = some layout) :
    u.reportSlot q = ((layout.report ring).slotOf q.addr.toNat).getD 0 := by
  rw [State.reportSlot, h, reportRing_of_report hp]
  rfl

/-- The first report of a pair, by its half (R125). -/
theorem firstReport_ends {s : State} {ring : RepRing} {tag : Tag} {q : Request} {k : ReportKind}
    {answers : List MemAnswer} {payload : StoredPayload} {p r i j : Fin 32} {place present e f : Entry}
    {d : Destination} {c : Fin 4} {layout : RingLayout} (hp : Reported s ring tag q)
    (hrow : reportRow ring q.data answers = k.row answers) (h4 : Answered answers 4) (ha : k ≠ .arrived)
    (hr : k ≠ .removed) (hcut : k ≠ .cutEnd) (hpair : Pair s p r place present d c)
    (hh : Half p r place present i j e f) (hstate : e.state = .isOpen) (hrings : s.rings = some layout)
    (h : Answers s ring q i e) (hmeets : Meets k e (word1 s answers q))
    (hout : k.outcome (word1 s answers q) = pairOutcome payload) :
    ∃ t, exec (k.row answers) s = .next t ∧
      Ends (halved (appliedReport s answers q) i j e f
        ⟨payload, ((layout.report ring).slotOf q.addr.toNat).getD 0, (appliedReport s answers q).time⟩) t tag .done
        [.entry i, .entry j] := by
  obtain ⟨p, he⟩ := serving_of_report hp
  have hu : s.Beside (appliedReport s answers q) := appliedReport_beside s answers q
  have hpartner : (appliedReport s answers q).partnerOf e = some (j, f) := by
    rw [← partnerOf_pair hpair hh, State.partnerOf, State.partnerOf, hu.entries he]
  obtain ⟨hm, hs⟩ := (Run.Made.started ((hu.mode he).trans hp.guarded) (answers.drop 4)).storeReport (i := i) hpartner
    payload (((layout.report ring).slotOf q.addr.toNat).getD 0)
  have hslot := reportSlot_eq hp ((hu.rings he).trans hrings)
  refine ⟨_, answered_exec hp hrow h4 ha hr h (.inl hstate) hmeets fun hk => absurd hk hcut, ?_⟩
  rw [hout, pairOutcome_open hstate]
  have hst : (Run.start (appliedReport s answers q) (answers.drop 4)).st = appliedReport s answers q := rfl
  rw [hst, hslot]
  exact hm.ends (hs.free (.start _ _)) (by simp) tag .done

/-- Settles O36. -/
theorem firstReportOfAPairIsStored : Obligations.FirstReportOfAPairIsStored := by
  unfold Obligations.FirstReportOfAPairIsStored
  intro s tag q answers p r place present d c layout slot h4 hpair hplace hpresent hstored hstored' hrings u result seen
  refine ⟨fun hp hrow hslot h hres => ?_, fun hp hrow hslot h => ?_⟩
  · subst hslot
    exact firstReport_ends (k := .placeEnd) hp hrow h4 nofun nofun nofun hpair ⟨.inl ⟨rfl, rfl, rfl, rfl⟩⟩ hplace hrings
      h ⟨by rw [hpair.kinds.1]; rfl, fun ⟨hh, _⟩ => absurd (hplace.symm.trans hh) nofun, nofun, fun ⟨_, hr⟩ => hres hr⟩
      rfl
  · subst hslot
    exact firstReport_ends (k := .presentEnd) hp hrow h4 nofun nofun nofun hpair ⟨.inr ⟨rfl, rfl, rfl, rfl⟩⟩ hpresent
      hrings h ⟨by rw [hpair.kinds.2]; rfl, fun ⟨hh, _⟩ => absurd (hpresent.symm.trans hh) nofun, nofun,
        fun ⟨hk, _⟩ => by simp at hk⟩ rfl

end Sys2Proof.Machine
end

section
/-! PROOF. The outcome of a placement pair: what it makes of the board, the slots, the station and the lane (R126,
R127, R149). -/

namespace Sys2Proof.Machine

open Sys2Proof.Claims

/-! ### The outcome by both reports (R126, R127) -/

/-- How a placement ends, as an outcome. -/
def PairEnd.outcome (x : PairEnd) (d : Destination) : Outcome :=
  match x with
  | .stacked => .stacked d.slot false
  | .relocated slot => .stacked slot true
  | .stationChanged => .stationChanged
  | .collision => .collision
  | .aborted => .aborted
  | .dropped => .dropped

theorem sameMagazine_iff {s : State} {d : Destination} {o : Observation} :
    s.sameMagazine d o = true ↔ ∃ m, (s.stations.get d.station).magazine = some m ∧
      (s.stations.get d.station).generation = d.generation ∧ o.serial = d.serial := by
  simp only [State.sameMagazine, State.inPlace, Bool.and_eq_true, beq_iff_eq, Option.isSome_iff_exists]
  constructor
  · rintro ⟨⟨⟨m, hm⟩, hg⟩, ho⟩
    exact ⟨m, hm, hg, ho⟩
  · rintro ⟨m, hm, hg, ho⟩
    exact ⟨⟨⟨m, hm⟩, hg⟩, ho⟩

theorem outcomeOf_eq (s : State) (d : Destination) (result : Result) (o : Observation) :
    outcomeOf s d result o = (s.pairEnd d result o).outcome d := by
  cases result with
  | abort => rfl
  | fail => rfl
  | dropped => rfl
  | done =>
    unfold outcomeOf State.pairEnd
    simp only
    by_cases hsame : s.sameMagazine d o = true
    · obtain ⟨m, hm, hg, ho⟩ := sameMagazine_iff.1 hsame
      have hgone : ¬((s.stations.get d.station).generation ≠ d.generation ∨ o.serial ≠ d.serial) := by simp [hg, ho]
      have hseen : s.observed d o = m.slots[o.slot]? := by rw [State.observed, Station.slots_of_magazine hm]
      simp only [hm, if_neg hgone, hsame, hseen, Bool.not_true, Bool.false_eq_true, if_false]
      cases o.obstructed with
      | true => rfl
      | false =>
        simp only [Bool.false_eq_true, if_false, Bool.not_false, Bool.true_and, beq_iff_eq]
        split
        · rfl
        · split <;> rfl
    · rw [Bool.not_eq_true] at hsame
      rw [hsame]
      cases hm : (s.stations.get d.station).magazine with
      | none => rfl
      | some m =>
        have hgone : (s.stations.get d.station).generation ≠ d.generation ∨ o.serial ≠ d.serial := by
          by_contra hno
          push Not at hno
          rw [sameMagazine_iff.2 ⟨m, hm, hno⟩] at hsame
          cases hsame
        simp only [if_pos hgone]
        rfl

theorem PairEnd.board_eq (x : PairEnd) (d : Destination) (h : BoardHw) :
    x.board d h = (x.outcome d).board d h := by
  cases x with
  | stacked => simp [PairEnd.board, PairEnd.outcome, Outcome.board]
  | relocated slot => simp [PairEnd.board, PairEnd.outcome, Outcome.board]
  | stationChanged => rfl
  | collision => rfl
  | aborted => rfl
  | dropped => rfl

theorem PairEnd.cup_eq (x : PairEnd) (d : Destination) (b : BoardRef) :
    x.cup b = if x.outcome d = .aborted then ⟨.loaded, some b⟩ else ⟨.empty, none⟩ := by
  cases x <;> rfl

/-! ### The slots and the station (R126, R127, R149) -/

theorem collided_eq (d : Destination) (o : Observation) (slots : List SlotState) :
    collided d o slots = Outcome.collision.slots d o slots := by
  unfold collided Outcome.slots
  simp only
  by_cases hd : o.slot = d.slot
  · rw [if_neg fun h => h.1 hd, hd]
    cases hs : (slots.set d.slot .suspect)[d.slot]? with
    | none => rfl
    | some x =>
      have hx : x = .suspect := by
        rw [List.getElem?_set_self'] at hs
        cases hslot : slots[d.slot]? with
        | none => rw [hslot] at hs; cases hs
        | some y => rw [hslot] at hs; exact (Option.some.inj hs).symm
      rw [hx]
  · rw [List.getElem?_set_ne (Ne.symm hd)]
    cases hs : slots[o.slot]? with
    | none => simp
    | some x => cases x <;> simp [hd]

theorem released_eq {s : State} {d : Destination} (h : s.inPlace d = true) (o : Observation)
    (slots : List SlotState) :
    released d o (s.sameMagazine d o) slots = Outcome.aborted.slots d o slots := by
  unfold released Outcome.slots
  simp only [State.sameMagazine, h, Bool.true_and, Bool.and_eq_true, beq_iff_eq, and_assoc]

theorem Outcome.dropped_slots (d : Destination) (o : Observation) (slots : List SlotState) :
    Outcome.dropped.slots d o slots = Outcome.aborted.slots d o slots := rfl

/-- The station of an outcome whose pair's magazine is in place. -/
theorem Outcome.station_inPlace {x : Outcome} {d : Destination} {o : Observation} {st : Station} {m : Magazine}
    (hm : st.magazine = some m) (hg : st.generation = d.generation) :
    x.station d o st = match x with
      | .stationChanged => st
      | .collision => { st with
          state := .faulted .collision, magazine := some { m with slots := x.slots d o m.slots } }
      | .stacked _ _ | .aborted | .dropped => reslotted st m (x.slots d o m.slots) := by
  unfold Outcome.station
  rw [hm]
  exact if_neg fun h => h hg

theorem Outcome.station_gone {x : Outcome} {s : State} {d : Destination} (h : ¬s.inPlace d = true) (o : Observation) :
    x.station d o (s.stations.get d.station) = s.stations.get d.station := by
  unfold Outcome.station
  split
  · rfl
  · next m hm =>
    rw [if_pos]
    exact fun hg => h (by simp [State.inPlace, hm, hg])

/-- A lane of a collision is PAUSED where it was OPEN or EXHAUSTED (R149). -/
theorem Lane.collide_eq (l : Lane) :
    l.collide = if l.state = .isOpen ∨ l.state = .exhausted then { l with state := .paused } else l := by
  unfold Lane.collide
  cases hs : l.state <;> simp

theorem Outcome.lane_eq (x : Outcome) (l : Lane) :
    x.lane l = unloaded (if x = .collision then l.collide else l) := by
  unfold Outcome.lane
  rw [Lane.collide_eq]
  by_cases hx : x = .collision
  · simp [hx]
  · simp [hx]

theorem Lane.collide_stop (l : Lane) : l.collide.stop = l.stop := by
  rw [Lane.collide_eq]
  split <;> rfl

theorem Lane.collide_state (l : Lane) : l.collide.state = l.state ∨ l.collide.state = .paused := by
  rw [Lane.collide_eq]
  split
  · exact .inr rfl
  · exact .inl rfl

/-! ### The Stacking Map after a placement (R126, R127, R149) -/

/-- The flags that the slots of an outcome raise (R126, R127, R138, R149). -/
def Raises (x : Outcome) (d : Destination) (o : Observation) (st : Station) (f : Flag) : Prop :=
  (f = .relocated ∧ ∃ slot, x = .stacked slot true) ∨ (f = .uncertain ∧ (x = .stationChanged ∨ x = .collision)) ∨
    (f = .stationChange ∧ (x = .collision ∨ ((x.station d o st).state = .full ∧ st.state ≠ .full)))

/-- The station, and the lane of a collision, after a placement. -/
def State.mapped (u : State) (x : Outcome) (d : Destination) (o : Observation) (flags : BitVec 24) : State :=
  { u with
    stations := u.stations.set d.station (x.station d o (u.stations.get d.station))
    lanes := u.lanes.set d.lane (if x = .collision then (u.lanes.get d.lane).collide else u.lanes.get d.lane)
    flags := flags }

/-- What the slots of an outcome leave of the station, the lane and the flags. -/
structure Mapped (u v : State) (x : Outcome) (d : Destination) (o : Observation) : Prop where
  shape : v = u.mapped x d o v.flags
  flags : ∀ f : Flag, v.flag f = true ↔ u.flag f = true ∨ Raises x d o (u.stations.get d.station) f

/-- An outcome that changes the slots of the magazine in place, and collides with none. -/
theorem mapped_restationed {u : State} {x : Outcome} {d : Destination} {o : Observation}
    (hx : x ≠ .collision) (hu : x ≠ .stationChanged) (hr : ∀ slot, x ≠ .stacked slot true) :
    Mapped u (u.restationed d.station (x.station d o (u.stations.get d.station))) x d o := by
  refine ⟨?_, fun f => ?_⟩
  · rw [State.mapped, if_neg hx, Table.set_get_self]
    rfl
  · rw [State.restationed_flag, Raises]
    simp [hx, hu, hr, and_comm]

theorem pairEnd_same {s : State} {d : Destination} {result : Result} {o : Observation} {x : PairEnd}
    (h : s.pairEnd d result o = x) (hx : x = .stacked ∨ (∃ slot, x = .relocated slot) ∨ x = .collision) :
    ∃ m, (s.stations.get d.station).magazine = some m ∧ (s.stations.get d.station).generation = d.generation := by
  have hsame : s.sameMagazine d o = true := by
    by_contra hno
    rw [Bool.not_eq_true] at hno
    unfold State.pairEnd at h
    rw [hno] at h
    cases result <;> (subst h; simp at hx)
  obtain ⟨m, hm, hg, -⟩ := sameMagazine_iff.1 hsame
  exact ⟨m, hm, hg⟩

/-- The slots of an outcome set in the magazine in place. -/
theorem Run.Made.setOutcomeSlots {r : Run} {u : State} {ids : List ImageId} (h : r.Made u ids) {x : Outcome}
    {d : Destination} {o : Observation} {m : Magazine} (hm : (u.stations.get d.station).magazine = some m)
    (hg : (u.stations.get d.station).generation = d.generation)
    (hx : (∃ slot b, x = .stacked slot b) ∨ x = .aborted ∨ x = .dropped) {f : List SlotState → List SlotState}
    (hf : f m.slots = x.slots d o m.slots) :
    ∃ more, (r.setSlots d.station f).Made
      (u.restationed d.station (x.station d o (u.stations.get d.station))) (ids ++ more) := by
  obtain ⟨more, hmade, -⟩ := h.setSlots d.station f (new := x.station d o (u.stations.get d.station)) (by
    rw [Station.slots_of_magazine hm, Station.withSlots_eq hm, hf, Outcome.station_inPlace hm hg]
    rcases hx with ⟨slot, b, rfl⟩ | rfl | rfl <;> rfl)
  exact ⟨more, hmade⟩

theorem mapped_relocated {u v : State} {slot : Nat} {d : Destination} {o : Observation}
    (hv : v = { u.restationed d.station (Outcome.station (.stacked slot true) d o (u.stations.get d.station)) with
      flags := (u.restationed d.station
        (Outcome.station (.stacked slot true) d o (u.stations.get d.station))).flags ||| Flag.relocated.bits }) :
    Mapped u v (.stacked slot true) d o := by
  refine ⟨?_, fun f => ?_⟩
  · rw [State.mapped, if_neg nofun, Table.set_get_self, hv]
    rfl
  · rw [State.flag_raised (s := u.restationed d.station _) (f := .relocated) (by rw [hv]), State.restationed_flag,
      Raises]
    simp only [Outcome.stacked.injEq, reduceCtorEq, false_or, or_false, and_false]
    constructor
    · rintro ((hf | ⟨hfull, rfl⟩) | rfl)
      · exact .inl hf
      · exact .inr (.inr ⟨rfl, hfull⟩)
      · exact .inr (.inl ⟨rfl, slot, rfl, trivial⟩)
    · rintro (hf | ⟨rfl, -⟩ | ⟨rfl, hfull⟩)
      · exact .inl (.inl hf)
      · exact .inr rfl
      · exact .inl (.inr ⟨hfull, rfl⟩)

theorem mapped_stationChanged {u v : State} {d : Destination} {o : Observation}
    (hv : v = { u with flags := u.flags ||| Flag.uncertain.bits }) : Mapped u v .stationChanged d o := by
  have hst : Outcome.stationChanged.station d o (u.stations.get d.station) = u.stations.get d.station := by
    unfold Outcome.station
    split
    · rfl
    · split <;> rfl
  refine ⟨?_, fun f => ?_⟩
  · rw [State.mapped, if_neg nofun, Table.set_get_self, hst, Table.set_get_self, hv]
  · rw [State.flag_raised (s := u) (f := .uncertain) (by rw [hv]), Raises, hst]
    have hno : ¬((u.stations.get d.station).state = .full ∧ (u.stations.get d.station).state ≠ .full) :=
      fun h => h.2 h.1
    simp [hno]

theorem mapped_collision {u v : State} {d : Destination} {o : Observation}
    (hv : v = u.mapped .collision d o ((u.flags ||| Flag.stationChange.bits) ||| Flag.uncertain.bits)) :
    Mapped u v .collision d o := by
  refine ⟨by rw [hv]; rfl, fun f => ?_⟩
  have hone : v.flag f = true ↔
      ({ u with flags := u.flags ||| Flag.stationChange.bits } : State).flag f = true ∨ f = .uncertain :=
    State.flag_raised (by rw [hv]; rfl) f
  have htwo : ({ u with flags := u.flags ||| Flag.stationChange.bits } : State).flag f = true ↔
      u.flag f = true ∨ f = .stationChange := State.flag_raised rfl f
  rw [hone, htwo, Raises]
  simp only [reduceCtorEq, exists_false, and_false, false_or, true_or, or_true, and_true]
  tauto

/-- A collision pauses its lane and faults its station (R149). -/
theorem Run.Made.endCollision {r : Run} {u : State} {ids : List ImageId} (h : r.Made u ids) {d : Destination}
    {o : Observation} {m : Magazine} (hm : (u.stations.get d.station).magazine = some m)
    (hg : (u.stations.get d.station).generation = d.generation) :
    ∃ more, (r.endSlots .collision d o).Made
      (u.mapped .collision d o ((u.flags ||| Flag.stationChange.bits) ||| Flag.uncertain.bits)) (ids ++ more) := by
  have hnew : (u.stations.get d.station).collide (collided d o (u.stations.get d.station).slots) =
      Outcome.collision.station d o (u.stations.get d.station) := by
    rw [Outcome.station_inPlace hm hg, collided_eq, Station.slots_of_magazine hm]
    simp [Station.collide, hm]
  have hset := (h.setStation d.station (Outcome.collision.station d o (u.stations.get d.station))).raise .stationChange
  have hrun : r.endSlots .collision d o = ((((r.setStation d.station
      (Outcome.collision.station d o (u.stations.get d.station))).raise .stationChange).setLane d.lane
        (u.lanes.get d.lane).collide).raise .uncertain) := by
    have hl : ((r.setStation d.station (Outcome.collision.station d o (u.stations.get d.station))).raise
        .stationChange).st.lanes = u.lanes := by
      rw [hset.shape]
    simp only [Run.endSlots, h.shape, hnew, hl]
  rw [hrun]
  exact ⟨_, (((hset.setLane d.lane (u.lanes.get d.lane).collide).raise .uncertain).at_state
    (by rw [State.mapped, if_pos rfl])).congr fun id => by simp only [List.append_assoc]; rfl⟩

/-- A placement that has not come about frees its slot while the pair's magazine is in place (R127). -/
theorem Run.Made.endReleased {r : Run} {u : State} {ids : List ImageId} (h : r.Made u ids) {d : Destination}
    {o : Observation} {x : Outcome} (hx : x = .aborted ∨ x = .dropped) :
    ∃ v more, (if u.inPlace d = true then r.setSlots d.station (released d o (u.sameMagazine d o)) else r).Made v
      (ids ++ more) ∧ Mapped u v x d o := by
  have hmapped : Mapped u (u.restationed d.station (x.station d o (u.stations.get d.station))) x d o := by
    rcases hx with rfl | rfl <;> exact mapped_restationed nofun nofun nofun
  by_cases hin : u.inPlace d = true
  · have hplace := hin
    simp only [State.inPlace, Bool.and_eq_true, beq_iff_eq, Option.isSome_iff_exists] at hplace
    obtain ⟨⟨m, hm⟩, hg⟩ := hplace
    obtain ⟨more, hmade⟩ := h.setOutcomeSlots (x := x) (o := o) hm hg (.inr hx)
      (f := released d o (u.sameMagazine d o)) (by
        rw [released_eq hin]
        rcases hx with rfl | rfl <;> rfl)
    rw [if_pos hin]
    exact ⟨_, more, hmade, hmapped⟩
  · rw [Outcome.station_gone hin, State.restationed_same] at hmapped
    rw [if_neg hin]
    exact ⟨u, [], h.congr (by simp), hmapped⟩

theorem Run.Made.endSlots {r : Run} {u : State} {ids : List ImageId} (h : r.Made u ids) {d : Destination}
    {result : Result} {o : Observation} {x : PairEnd} (hx : u.pairEnd d result o = x) :
    ∃ v more, (r.endSlots x d o).Made v (ids ++ more) ∧ Mapped u v (x.outcome d) d o := by
  cases x with
  | stacked =>
    obtain ⟨m, hm, hg⟩ := pairEnd_same hx (.inl rfl)
    obtain ⟨more, hmade⟩ := h.setOutcomeSlots (x := .stacked d.slot false) (o := o) hm hg (.inl ⟨_, _, rfl⟩)
      (f := fun slots => slots.set d.slot .occupied) (by simp [Outcome.slots, List.set_set])
    exact ⟨_, more, hmade, mapped_restationed nofun nofun nofun⟩
  | relocated slot =>
    obtain ⟨m, hm, hg⟩ := pairEnd_same hx (.inr (.inl ⟨slot, rfl⟩))
    obtain ⟨more, hmade⟩ := h.setOutcomeSlots (x := .stacked slot true) (o := o) hm hg (.inl ⟨_, _, rfl⟩)
      (f := fun slots => (slots.set d.slot .free).set slot .occupied) rfl
    exact ⟨_, _, (hmade.raise .relocated).congr fun id => by rw [List.append_assoc], mapped_relocated rfl⟩
  | stationChanged => exact ⟨_, _, h.raise .uncertain, mapped_stationChanged rfl⟩
  | collision =>
    obtain ⟨m, hm, hg⟩ := pairEnd_same hx (.inr (.inr rfl))
    obtain ⟨more, hmade⟩ := h.endCollision (o := o) hm hg
    exact ⟨_, more, hmade, mapped_collision rfl⟩
  | aborted =>
    have hrun : r.endSlots .aborted d o =
        if u.inPlace d = true then r.setSlots d.station (released d o (u.sameMagazine d o)) else r := by
      simp only [Run.endSlots, h.shape]
    rw [hrun]
    exact h.endReleased (.inl rfl)
  | dropped =>
    have hrun : r.endSlots .dropped d o =
        if u.inPlace d = true then r.setSlots d.station (released d o (u.sameMagazine d o)) else r := by
      simp only [Run.endSlots, h.shape]
    rw [hrun]
    exact h.endReleased (.inr rfl)

theorem Run.endSlots_rest (r : Run) (x : PairEnd) (d : Destination) (o : Observation) :
    r.SameRest (r.endSlots x d o) := by
  unfold Run.endSlots
  cases x with
  | stacked => exact Run.setSlots_rest _ _ _
  | relocated slot => exact (Run.setSlots_rest _ _ _).trans (Run.raise_rest _ _)
  | stationChanged => exact Run.raise_rest _ _
  | collision =>
    exact (((Run.setStation_rest _ _ _).trans (Run.raise_rest _ _)).trans (Run.setLane_rest _ _ _)).trans
      (Run.raise_rest _ _)
  | aborted =>
    simp only
    split
    · exact Run.setSlots_rest _ _ _
    · exact .refl r
  | dropped =>
    simp only
    split
    · exact Run.setSlots_rest _ _ _
    · exact .refl r

end Sys2Proof.Machine
end

section
/-! PROOF. The second report of a pair resolves it (R65, R67, R121, R125 to R127, R138, R144 to R146, R149). -/

namespace Sys2Proof.Machine

open Sys2Proof.Claims

/-! ### Both entries are removed (R80, R121) -/

theorem without_comm (u : State) (i j : Fin 32) : without (without u i) j = without (without u j) i := by
  by_cases h : i = j
  · rw [h]
  · unfold without
    simp only
    rw [Table.set_comm _ h, List.erase_comm (l := u.order), List.erase_comm (l := u.due)]

theorem Run.Made.removePair {r : Run} {u : State} {ids : List ImageId} (h : r.Made u ids) {i j : Fin 32}
    {e f : Entry} (hne : i ≠ j) (hi : u.entries.get i = some e) (hj : u.entries.get j = some f)
    (he : e.kind = .place ∨ e.kind = .present) (hf : f.kind = .place ∨ f.kind = .present) :
    (r.removeEntries [i, j]).Made (without (without u i) j) (ids ++ [.entry i, .entry j]) ∧
      r.Removes (r.removeEntries [i, j]) (e.mark ++ f.mark) := by
  have hclaims {k : EntryKind} (hk : k = .place ∨ k = .present) : k.claims = false := by
    rcases hk with rfl | rfl <;> rfl
  have hnests : r.st.claimedBy [i, j] = [] := by
    simp [State.claimedBy, h.shape, hi, hj, hclaims he, hclaims hf]
  obtain ⟨hm, hr⟩ := h.freeEntry hi
  have hj' : (without u i).entries.get j = some f := by
    rw [show (without u i).entries = u.entries.set i none from rfl, Table.get_set_ne _ _ hne.symm]
    exact hj
  obtain ⟨hm', hr'⟩ := hm.freeEntry hj'
  unfold Run.removeEntries
  simp only [hnests, List.foldl_nil, List.foldl_cons]
  exact ⟨hm'.congr fun id => by simp, hr'.answers.trans hr.answers,
    by rw [hr'.empties, hr.empties, List.append_assoc], hr'.events.trans hr.events, hr'.lanes.trans hr.lanes⟩

theorem marks_pair {u : State} {p r i j : Fin 32} {place present e f : Entry} {d : Destination} {c : Fin 4}
    (h : Pair u p r place present d c) (hh : Half p r place present i j e f) :
    e.mark ++ f.mark = [(present.slot, present.sequence)] := by
  have hplace : place.mark = [] := if_neg (by rw [h.kinds.1]; exact nofun)
  have hpresent : present.mark = [(present.slot, present.sequence)] := if_pos h.kinds.2
  obtain ⟨⟨-, rfl, -, rfl⟩ | ⟨-, rfl, -, rfl⟩⟩ := hh
  · rw [hplace, hpresent]; rfl
  · rw [hplace, hpresent]; rfl

/-! ### Flags of a settled nest -/

theorem State.settledNest_flag (u : State) (n : Nest) (c : NestContext) (f : Flag) :
    (u.settledNest n c).flag f = true ↔ u.flag f = true ∨
      (f = .nestStopped n ∧ c.state = .stopped ∧ (u.nest n).state ≠ .stopped) ∨
      (f = .nestComplete n ∧ c.state = .complete ∧ (u.nest n).state ≠ .complete) := by
  by_cases hs : c.state = .stopped ∧ (u.nest n).state ≠ .stopped
  · rw [State.flag_raised (s := u) (f := .nestStopped n) (by rw [State.settledNest, nestFlags, if_pos hs])]
    simp [hs]
  · by_cases hc : c.state = .complete ∧ (u.nest n).state ≠ .complete
    · rw [State.flag_raised (s := u) (f := .nestComplete n)
        (by rw [State.settledNest, nestFlags, if_neg hs, if_pos hc])]
      simp [hc]
    · rw [State.flag_congr (s := u) (by
        rw [State.settledNest, nestFlags, if_neg hs, if_neg hc]
        simp)]
      simp [hs, hc]

/-! ### The lane of a resolved pair -/

/-- A pair of a lane has ended, in a state whose nest has changed (R145, R146). -/
theorem Run.Made.pairEndedSettled {r : Run} {w : State} {n : Nest} {c : NestContext} {ids : List ImageId}
    (h : r.Made (w.settledNest n c) ids) (i : Fin 16) :
    ∃ more, (r.pairEnded i).Made (State.settledNest { w with
        lanes := w.lanes.set i (unloaded (w.lanes.get i))
        flags := if Lane.announces { w.lanes.get i with pending := (w.lanes.get i).pending - 1 } = true then
          w.flags ||| Flag.laneStopped.bits else w.flags } n c) (ids ++ more) := by
  have hl : (w.settledNest n c).lanes = w.lanes := by cases n <;> rfl
  have hm := (h.announce i { w.lanes.get i with pending := (w.lanes.get i).pending - 1 }).touchLanes
  unfold Run.pairEnded Run.setPending
  rw [h.shape, hl]
  refine ⟨_, (hm.at_state ?_).congr fun id => by rw [List.append_assoc]⟩
  rw [hl]
  have hor (a b x : BitVec 24) : (a ||| b) ||| x = (a ||| x) ||| b := by
    rw [BitVec.or_assoc, BitVec.or_comm b, ← BitVec.or_assoc]
  split
  · cases n
    · simp only [State.settledNest, State.withNest, hor]
      rfl
    · simp only [State.settledNest, State.withNest, hor]
      rfl
  · cases n <;> rfl

/-! ### A pair is resolved -/

theorem pairEnd_congr {s t : State} (h : t.stations = s.stations) (d : Destination) (result : Result)
    (o : Observation) : t.pairEnd d result o = s.pairEnd d result o := by
  unfold State.pairEnd State.sameMagazine State.inPlace State.observed
  rw [h]

/-- The nest of a resolved placement, but for the drain test (R65, R127). -/
def PairEnd.nest (x : PairEnd) (c : NestContext) : NestContext :=
  if x.terminal = true then countedDown { c with status := .dirty } else { c with status := .dirty }

theorem PairEnd.nest_eq (x : PairEnd) (d : Destination) (named : Bool) (c : NestContext) :
    drained named (x.nest c) = (x.outcome d).nest named c := by
  cases x <;> rfl

/-- The state that the second report of a pair makes before its nest and its lane are settled: the cup, the board,
the slots and the entries. -/
def State.unpaired (y : State) (p r : Fin 32) (b : BoardRef) (d : Destination) (c : Fin 4) (k : Fin 64) (l : CacheLine)
    (x : PairEnd) (o : Observation) (flags : BitVec 24) : State :=
  without (without (State.mapped (State.relined { y with cups := y.cups.set c (x.cup b) } b k l (x.board d l.words.hw))
    (x.outcome d) d o flags) p) r

/-- What a run owes once a pair's entries have been removed in it: the mark of the PRESENT joins (R80). -/
structure Run.Marks (r r' : Run) (mark : Nat × BitVec 8) : Prop where
  answers : r'.answers = r.answers
  empties : r'.empties = r.empties ++ [mark]
  events  : r'.events = r.events

theorem Run.Marks.rest {r r' r'' : Run} {mark : Nat × BitVec 8} (h : r.Marks r' mark) (k : r'.SameRest r'') :
    r.Marks r'' mark :=
  ⟨k.answers.trans h.answers, k.empties.trans h.empties, k.events.trans h.events⟩

theorem State.settledNest_stations (u : State) (n : Nest) (c : NestContext) :
    (u.settledNest n c).stations = u.stations := by cases n <;> rfl

theorem State.settledNest_lanes (u : State) (n : Nest) (c : NestContext) :
    (u.settledNest n c).lanes = u.lanes := by cases n <;> rfl

theorem State.settledNest_cache (u : State) (n : Nest) (c : NestContext) :
    (u.settledNest n c).cache = u.cache ∧ (u.settledNest n c).recency = u.recency ∧
      (u.settledNest n c).walker = u.walker := by cases n <;> exact ⟨rfl, rfl, rfl⟩

theorem State.settledNest_shape (u : State) (n : Nest) (c : NestContext) :
    u.settledNest n c = { u with
      nestA := (u.settledNest n c).nestA, nestB := (u.settledNest n c).nestB
      flags := (u.settledNest n c).flags } := by cases n <;> rfl

theorem State.settledNest_nests (u : State) (n m : Nest) (c : NestContext) :
    (u.settledNest n c).nest m = if m = n then c else u.nest m := by cases n <;> cases m <;> rfl

theorem mapped_settledNest {w : State} {n : Nest} {c : NestContext} {x : Outcome} {d : Destination} {o : Observation}
    {flags : BitVec 24} (hc : c.state = (w.nest n).state) :
    (w.settledNest n c).mapped x d o flags = (w.mapped x d o flags).settledNest n c := by
  rw [← State.withNest_settled hc, ← State.withNest_settled]
  · cases n <;> rfl
  · rw [hc]
    cases n <;> rfl

theorem State.settledNest_flag_same {u : State} {n : Nest} {c : NestContext} (h : c.state = (u.nest n).state)
    (f : Flag) : (u.settledNest n c).flag f = u.flag f := by
  rw [← State.withNest_settled h]
  cases n <;> rfl

theorem without_half {w : State} {p r i j : Fin 32} {place present e f : Entry}
    (hh : Half p r place present i j e f) : without (without w i) j = without (without w p) r := by
  obtain ⟨⟨rfl, -, rfl, -⟩ | ⟨rfl, -, rfl, -⟩⟩ := hh
  · rfl
  · exact without_comm w i j

theorem half_kinds {u : State} {p r i j : Fin 32} {place present e f : Entry} {d : Destination} {c : Fin 4}
    (h : Pair u p r place present d c) (hh : Half p r place present i j e f) :
    i ≠ j ∧ (e.kind = .place ∨ e.kind = .present) ∧ (f.kind = .place ∨ f.kind = .present) := by
  obtain ⟨⟨rfl, rfl, rfl, rfl⟩ | ⟨rfl, rfl, rfl, rfl⟩⟩ := hh
  · exact ⟨h.distinct, .inl h.kinds.1, .inr h.kinds.2⟩
  · exact ⟨h.distinct.symm, .inr h.kinds.2, .inl h.kinds.1⟩

theorem half_mem {p r i j : Fin 32} {place present e f : Entry} (hh : Half p r place present i j e f)
    {ids : List ImageId} (hi : .entry i ∈ ids) (hj : .entry j ∈ ids) : ImageId.entry p ∈ ids ∧ ImageId.entry r ∈ ids := by
  obtain ⟨⟨rfl, -, rfl, -⟩ | ⟨rfl, -, rfl, -⟩⟩ := hh
  · exact ⟨hi, hj⟩
  · exact ⟨hj, hi⟩

/-- The steps of a resolved pair up to the removal of its entries (R126, R127). -/
def Run.unpaired (r : Run) (i j : Fin 32) (b : BoardRef) (c : Fin 4) (d : Destination) (x : PairEnd)
    (o : Observation) : Run :=
  (((r.putCup (some c) (x.cup b)).changeBoard b (x.board d)).endSlots x d o).removeEntries [i, j]

theorem Run.resolvePair_eq (r : Run) (i j : Fin 32) (b : BoardRef) (c : Fin 4) (d : Destination) (result : Result)
    (o : Observation) {x : PairEnd} (hx : r.st.pairEnd d result o = x) :
    r.resolvePair i j b (some c) d result o =
      (((if x.terminal = true then (r.unpaired i j b c d x o).boardEnded b.nest else r.unpaired i j b c d x o).pairEnded
        d.lane).drainTest b.nest).image (.nest b.nest) := by
  subst hx
  rfl

theorem Run.Made.resolveEntries {run : Run} {y : State} {ids : List ImageId} (h : run.Made y ids) {p r i j : Fin 32}
    {place present e f : Entry} {d : Destination} {c : Fin 4} {k : Fin 64} {l : CacheLine} {result : Result}
    {o : Observation} {x : PairEnd} (hp : Pair y p r place present d c) (hh : Half p r place present i j e f)
    (hk : y.lineOf place.board = some k) (hl : y.cache.get k = some l) (hx : y.pairEnd d result o = x)
    (hf : x.board d l.words.hw ≠ l.words.hw) :
    ∃ flags more, (run.unpaired i j place.board c d x o).Made
        ((y.unpaired p r place.board d c k l x o flags).settledNest place.board.nest
          { y.nest place.board.nest with status := .dirty }) (ids ++ more) ∧
      (∀ f : Flag, (y.unpaired p r place.board d c k l x o flags).flag f = true ↔
        y.flag f = true ∨ Raises (x.outcome d) d o (y.stations.get d.station) f) ∧
      .entry p ∈ more ∧ .entry r ∈ more ∧ (y.cups.get c ≠ x.cup place.board → .cup c ∈ more) ∧
      run.Marks (run.unpaired i j place.board c d x o) (present.slot, present.sequence) := by
  have hn : State.nest { y with cups := y.cups.set c (x.cup place.board) } place.board.nest =
      y.nest place.board.nest := by cases place.board.nest <;> rfl
  obtain ⟨m1, hm, -⟩ := (h.setCup c (x.cup place.board)).changeCached (k := k) hk hl hf
  rw [hn] at hm
  obtain ⟨v, m2, hm, hv⟩ := hm.endSlots (d := d) (result := result) (o := o) (x := x) (by
    rw [← hx]
    exact pairEnd_congr (State.settledNest_stations _ _ _) _ _ _)
  have hstate : NestContext.state { y.nest place.board.nest with status := .dirty } = (State.nest (State.relined
      { y with cups := y.cups.set c (x.cup place.board) } place.board k l (x.board d l.words.hw))
        place.board.nest).state := by rw [State.relined_nest, hn]
  have hshape := hv.shape.trans (mapped_settledNest hstate)
  obtain ⟨hei, hej⟩ := atHalf hp hh
  have hentries : v.entries = y.entries := by
    rw [hshape, State.settledNest_entries]
    rfl
  obtain ⟨hne, hki, hkj⟩ := half_kinds hp hh
  obtain ⟨hm, hr⟩ := hm.removePair hne (by rw [hentries]; exact hei) (by rw [hentries]; exact hej) hki hkj
  rw [marks_pair hp hh] at hr
  have hflags (f : Flag) : (y.unpaired p r place.board d c k l x o v.flags).flag f = true ↔
      y.flag f = true ∨ Raises (x.outcome d) d o (y.stations.get d.station) f := by
    have hvf := hv.flags f
    rw [State.settledNest_flag_same hstate, State.settledNest_stations] at hvf
    exact hvf
  refine ⟨v.flags, _, (hm.at_state ?_).congr fun id => by simp only [List.append_assoc]; rfl, hflags, ?_⟩
  · refine (congrArg (fun v => without (without v i) j) hshape).trans ?_
    rw [without_half hh, without_settledNest, without_settledNest]
    rfl
  obtain ⟨hpin, hrin⟩ := half_mem hh (ids := (if y.cups.get c = x.cup place.board then [] else [ImageId.cup c]) ++
    (m1 ++ (m2 ++ [.entry i, .entry j]))) (by simp) (by simp)
  have hbefore := (Run.Spares.putCup run (some c) (x.cup place.board)).trans (.changeBoard _ place.board (x.board d))
  have hrest := hbefore.rest.trans (Run.endSlots_rest _ x d o)
  refine ⟨hpin, hrin, fun hcup => ?_, hr.answers.trans hrest.answers, ?_, hr.events.trans hrest.events⟩
  · rw [if_neg hcup]
    simp
  · exact hr.empties.trans (congrArg (· ++ _) hrest.empties)

/-! ### The pair but for the settling of the lanes -/

/-- A lane as a placement leaves it. -/
theorem Outcome.lane_eases (x : Outcome) (l : Lane) : l.Eases (x.lane l) := by
  rw [Outcome.lane_eq]
  split
  · obtain ⟨hstate, hstop⟩ := Lane.eases_unloaded l.collide
    rw [Lane.collide_stop] at hstop
    refine ⟨?_, hstop⟩
    rcases hstate with h | h
    · rw [h]
      exact Lane.collide_state l
    · exact .inr h
  · exact Lane.eases_unloaded l

theorem Lane.Eases.not_exhausts {old new : Lane} (h : old.Eases new) : ¬old.Exhausts new := fun ⟨ho, hn⟩ => by
  obtain ⟨h | h, -⟩ := h
  · exact ho (h ▸ hn)
  · exact absurd (h.symm.trans hn) nofun

/-- The lane of a pair announces its stop once the pair has ended (R146). -/
theorem Outcome.lane_announces (x : Outcome) (l : Lane) :
    Lane.announces { (if x = .collision then l.collide else l) with
      pending := (if x = .collision then l.collide else l).pending - 1 } = true ↔ l.Announces (x.lane l) := by
  have hstop : (if x = .collision then l.collide else l).stop = l.stop := by
    split
    · exact Lane.collide_stop l
    · rfl
  rw [Lane.announces_iff, Outcome.lane_eq, Lane.Announces, ← hstop]
  rfl

/-- The second report of a pair has resolved it in `y`, but for the images and the settling of the lanes. -/
structure Resolving (y x : State) (p r : Fin 32) (place : Entry) (d : Destination) (c : Fin 4) (l : CacheLine)
    (out : Outcome) (o : Observation) : Prop where
  shape   : x = { without (without y p) r with
    cups := y.cups.set c (if out = .aborted then ⟨.loaded, some place.board⟩ else ⟨.empty, none⟩)
    stations := y.stations.set d.station (out.station d o (y.stations.get d.station))
    cache := x.cache, recency := x.recency, walker := x.walker, nestA := x.nestA
    nestB := x.nestB, lanes := x.lanes, flags := x.flags }
  board   : Rewritten y x place.board l (out.board d l.words.hw)
  nests   : ∀ n, x.nest n = if n = place.board.nest then
    out.nest ((without (without y p) r).nestNamed n) (y.nest n) else y.nest n
  lanes   : x.lanes = y.lanes.set d.lane (out.lane (y.lanes.get d.lane))
  flags   : ∀ f : Flag, x.flag f = true ↔ y.flag f = true ∨ Raises out d o (y.stations.get d.station) f ∨
    (f = .laneStopped ∧ (y.lanes.get d.lane).Announces (out.lane (y.lanes.get d.lane))) ∨
    (f = .nestStopped place.board.nest ∧ (x.nest place.board.nest).state = .stopped ∧
      (y.nest place.board.nest).state ≠ .stopped) ∨
    (f = .nestComplete place.board.nest ∧ (x.nest place.board.nest).state = .complete ∧
      (y.nest place.board.nest).state ≠ .complete)

/-- The state in which the second report of a pair has resolved it, before the lanes settle. -/
def State.resolved (y : State) (p r : Fin 32) (place : Entry) (d : Destination) (c : Fin 4) (k : Fin 64)
    (l : CacheLine) (x : PairEnd) (o : Observation) (flags : BitVec 24) : State :=
  let w := y.unpaired p r place.board d c k l x o flags
  State.settledNest { w with
      lanes := w.lanes.set d.lane (unloaded (w.lanes.get d.lane))
      flags := if Lane.announces { w.lanes.get d.lane with pending := (w.lanes.get d.lane).pending - 1 } = true then
        w.flags ||| Flag.laneStopped.bits else w.flags } place.board.nest
    ((x.outcome d).nest ((without (without y p) r).nestNamed place.board.nest) (y.nest place.board.nest))

theorem nest_relaned (w : State) (lanes : Table 16 Lane) (flags : BitVec 24) (n : Nest) :
    State.nest { w with lanes := lanes, flags := flags } n = w.nest n := by cases n <;> rfl

theorem flag_if_raised (w : State) (lanes : Table 16 Lane) (g f : Flag) (a : Bool) :
    State.flag { w with lanes := lanes, flags := if a = true then w.flags ||| g.bits else w.flags } f = true ↔
      w.flag f = true ∨ (f = g ∧ a = true) := by
  cases a with
  | false =>
    simp only [Bool.false_eq_true, if_false, and_false, or_false]
    rfl
  | true =>
    rw [State.flag_raised (s := w) (f := g) (by rw [if_pos rfl])]
    simp

theorem resolving_resolved {y : State} {p r : Fin 32} {place : Entry} {d : Destination} {c : Fin 4} {k : Fin 64}
    {l : CacheLine} {x : PairEnd} {o : Observation} {flags : BitVec 24} (hk : y.lineOf place.board = some k)
    (hl : y.cache.get k = some l)
    (hflags : ∀ f : Flag, (y.unpaired p r place.board d c k l x o flags).flag f = true ↔
      y.flag f = true ∨ Raises (x.outcome d) d o (y.stations.get d.station) f) :
    Resolving y (y.resolved p r place d c k l x o flags) p r place d c l (x.outcome d) o := by
  generalize hw : y.unpaired p r place.board d c k l x o flags = w at hflags
  have hrest : State.resolved y p r place d c k l x o flags = State.settledNest { w with
      lanes := w.lanes.set d.lane (unloaded (w.lanes.get d.lane))
      flags := if Lane.announces { w.lanes.get d.lane with pending := (w.lanes.get d.lane).pending - 1 } = true then
        w.flags ||| Flag.laneStopped.bits else w.flags } place.board.nest
      ((x.outcome d).nest ((without (without y p) r).nestNamed place.board.nest) (y.nest place.board.nest)) := by
    rw [State.resolved, hw]
  have hnest (n : Nest) : w.nest n = y.nest n := by rw [← hw]; cases n <;> rfl
  have hlane : w.lanes.get d.lane =
      if x.outcome d = .collision then (y.lanes.get d.lane).collide else y.lanes.get d.lane := by
    rw [← hw]
    exact Table.get_set_self _ _ _
  rw [hrest]
  refine ⟨?_, ?_, fun n => ?_, ?_, fun f => ?_⟩
  · rw [← x.cup_eq d place.board, State.settledNest_shape, ← hw]
    rfl
  · rw [← x.board_eq]
    obtain ⟨hc, hr, hk'⟩ := State.settledNest_cache { w with
      lanes := w.lanes.set d.lane (unloaded (w.lanes.get d.lane))
      flags := if Lane.announces { w.lanes.get d.lane with pending := (w.lanes.get d.lane).pending - 1 } = true then
        w.flags ||| Flag.laneStopped.bits else w.flags } place.board.nest
      ((x.outcome d).nest ((without (without y p) r).nestNamed place.board.nest) (y.nest place.board.nest))
    refine State.relined_rewritten hk hl (hc.trans ?_) (hr.trans ?_) (hk'.trans ?_)
    · rw [← hw]; rfl
    · rw [← hw]; rfl
    · rw [← hw]; rfl
  · rw [State.settledNest_nests]
    by_cases hn : n = place.board.nest
    · rw [if_pos hn, if_pos hn, hn]
    · rw [if_neg hn, if_neg hn, ← hnest]
      cases n <;> rfl
  · rw [State.settledNest_lanes, Outcome.lane_eq, ← hlane, ← hw]
    refine Table.ext_get fun i => ?_
    show (Table.set (Table.set y.lanes _ _) _ _).get i = _
    simp only [Table.get_set]
    split <;> rfl
  · have ha := Outcome.lane_announces (x.outcome d) (y.lanes.get d.lane)
    rw [← hlane] at ha
    rw [State.settledNest_flag, State.settledNest_nest, nest_relaned w, hnest, flag_if_raised w, hflags, ha]
    simp only [or_assoc]

/-! ### The run that resolves a pair -/

theorem PairEnd.nest_state (x : PairEnd) (c : NestContext) :
    (x.nest c).state = c.state ∨ (x.nest c).state = .complete := by
  unfold PairEnd.nest
  split
  · exact countedDown_state _
  · exact .inl rfl

theorem Run.Made.terminalSettled {r : Run} {w : State} {n : Nest} {c : NestContext} {ids : List ImageId}
    (h : r.Made (w.settledNest n { c with status := .dirty }) ids) (hs : c.state = (w.nest n).state) (x : PairEnd) :
    ∃ more, (if x.terminal = true then r.boardEnded n else r).Made (w.settledNest n (x.nest c)) (ids ++ more) := by
  unfold PairEnd.nest
  split
  · obtain ⟨more, hm, -⟩ := h.boardEndedSettled hs
    exact ⟨more, hm⟩
  · exact ⟨[], h.congr (by simp)⟩

/-- A pair is resolved by both its reports (R126, R127), the lanes not settled yet. -/
theorem Run.Made.resolvePair {run : Run} {y : State} {ids : List ImageId} (h : run.Made y ids) {p r i j : Fin 32}
    {place present e f : Entry} {d : Destination} {c : Fin 4} {l : CacheLine} (hp : Pair y p r place present d c)
    (hh : Half p r place present i j e f) (hl : y.cached place.board = some l) (result : Result) (o : Observation)
    (hf : (outcomeOf y d result o).board d l.words.hw ≠ l.words.hw) :
    ∃ x more, (run.resolvePair i j place.board (some c) d result o).Made x (ids ++ more) ∧
      Resolving y x p r place d c l (outcomeOf y d result o) o ∧ .entry p ∈ more ∧ .entry r ∈ more ∧
      .nest place.board.nest ∈ more ∧ (x.cups.get c ≠ y.cups.get c → .cup c ∈ more) ∧
      run.Marks (run.resolvePair i j place.board (some c) d result o) (present.slot, present.sequence) ∧
      (run.resolvePair i j place.board (some c) d result o).lanes = true := by
  obtain ⟨k, hk, hget, -⟩ := State.cached_some hl
  generalize hx : y.pairEnd d result o = x
  have hout : outcomeOf y d result o = x.outcome d := by rw [outcomeOf_eq, hx]
  rw [hout, ← PairEnd.board_eq] at hf
  obtain ⟨flags, m1, hm, hflags, hpin, hrin, hcup, hmarks⟩ := h.resolveEntries hp hh hk hget hx hf
  rw [hout, run.resolvePair_eq i j place.board c d result o (by rw [h.shape, hx])]
  generalize hw : y.unpaired p r place.board d c k l x o flags = w at hm
  have hnest : w.nest place.board.nest = y.nest place.board.nest := by
    rw [← hw]
    cases place.board.nest <;> rfl
  have hnamed : w.nestNamed place.board.nest = (without (without y p) r).nestNamed place.board.nest :=
    State.nestNamed_congr (s := without (without y p) r) (by rw [← hw]; rfl) _
  obtain ⟨m2, hm⟩ := hm.terminalSettled (by rw [hnest]) x
  obtain ⟨m3, hm⟩ := hm.pairEndedSettled d.lane
  obtain ⟨m4, hm, -⟩ := hm.drainSettled (by
    rw [nest_relaned w, hnest]
    intro hstop hstopped
    rcases x.nest_state (y.nest place.board.nest) with h | h
    · exact absurd (hstop.symm.trans (h.trans hstopped)) nofun
    · exact absurd (hstop.symm.trans h) nofun)
  have hm := hm.image (.nest place.board.nest)
  have hsame : State.nestNamed { w with
      lanes := w.lanes.set d.lane (unloaded (w.lanes.get d.lane))
      flags := if Lane.announces { w.lanes.get d.lane with pending := (w.lanes.get d.lane).pending - 1 } = true then
        w.flags ||| Flag.laneStopped.bits else w.flags } place.board.nest = w.nestNamed place.board.nest := rfl
  rw [hsame, hnamed, x.nest_eq d] at hm
  have hspares : (run.unpaired i j place.board c d x o).Spares (if x.terminal = true then
      (run.unpaired i j place.board c d x o).boardEnded place.board.nest else run.unpaired i j place.board c d x o) := by
    split
    · exact .boardEnded _ _
    · exact .refl _
  have hpair := Run.pairEnded_rest (if x.terminal = true then
    (run.unpaired i j place.board c d x o).boardEnded place.board.nest else run.unpaired i j place.board c d x o) d.lane
  generalize hz : y.resolved p r place d c k l x o flags = z
  have hx' := resolving_resolved (place := place) hk hget hflags
  rw [hz] at hx'
  rw [State.resolved, hw] at hz
  rw [hz] at hm
  refine ⟨z, _, hm.congr fun id => by simp only [List.append_assoc]; rfl, hx', by simp [hpin], by simp [hrin], by simp,
    fun hne => ?_, ?_, ?_⟩
  · have hcups : z.cups = y.cups.set c (x.cup place.board) := by rw [hx'.shape, x.cup_eq d]
    rw [hcups, Table.get_set_self] at hne
    simp [hcup hne.symm]
  · exact ((hmarks.rest hspares.rest).rest hpair.1).rest ((Run.Spares.drainTest _ _).rest.trans (Run.image_rest _ _))
  · have hl2 := (Run.Spares.drainTest (Run.pairEnded (if x.terminal = true then
      (run.unpaired i j place.board c d x o).boardEnded place.board.nest else run.unpaired i j place.board c d x o)
        d.lane) place.board.nest).lanes
    exact (Run.image_lanes _ _).trans (hl2.trans hpair.2)

/-! ### The lanes settle -/

theorem Raises.kind {out : Outcome} {d : Destination} {o : Observation} {st : Station} {f : Flag}
    (h : Raises out d o st f) : f = .relocated ∨ f = .uncertain ∨ f = .stationChange := by
  rcases h with ⟨h, -⟩ | ⟨h, -⟩ | ⟨h, -⟩
  · exact .inl h
  · exact .inr (.inl h)
  · exact .inr (.inr h)

section Resolve

variable {y x z : State} {p r : Fin 32} {place : Entry} {d : Destination} {c : Fin 4} {l : CacheLine}
  {result : Result} {o : Observation} {out : Outcome} (h : Resolving y x p r place d c l out o)
include h

theorem resolving_laneFlags : LaneFlags y x y.lanes.get := by
  have hno : ∀ f : Flag, f = .laneStopped ∨ f = .laneExhausted → ¬Raises out d o (y.stations.get d.station) f := by
    rintro f hf hr
    rcases hf with rfl | rfl <;> exact absurd hr.kind (by simp)
  have hone {P : Lane → Lane → Prop} (hP : ∀ l, ¬P l l) : (∃ k, P (y.lanes.get k) (x.lanes.get k)) ↔
      P (y.lanes.get d.lane) (out.lane (y.lanes.get d.lane)) := by
    rw [h.lanes]
    exact exists_set_iff hP
  refine laneFlags_iff.2 ⟨?_, ?_⟩
  · rw [h.flags, hone Lane.not_announces]
    simp [hno]
  · rw [h.flags, hone Lane.not_exhausts]
    simp [hno, (Outcome.lane_eases out (y.lanes.get d.lane)).not_exhausts]

theorem resolving_eases (k : Fin 16) : (y.lanes.get k).Eases (x.lanes.get k) := by
  rw [h.lanes, Table.get_set]
  split
  · next hk =>
    rw [hk]
    exact Outcome.lane_eases out _
  · exact Lane.eases_refl _

theorem resolving_settles {more : List ImageId} (hout : outcomeOf y d result o = out) (hz : Relaned x z more)
    (hget : ∀ k, z.lanes.get k = reevaluated x (x.lanes.get k)) : PairResolved y z p r place d c l result o := by
  have hrec : z.records = x.records := (congrArg State.records hz.shape).trans rfl
  have hnest (n : Nest) : z.nest n = x.nest n := State.records_nest hrec n
  have hflag (f : Flag) (hf : f ≠ .laneStopped ∧ f ≠ .laneExhausted) : z.flag f = x.flag f :=
    hz.others f (by simpa using hf)
  unfold PairResolved
  rw [hout]
  refine ⟨?_, rewritten_congr rfl hrec h.board, fun n => (hnest n).trans (h.nests n), fun k => ?_, ?_, ?_, ?_, ?_, ?_,
    fun f hf => ?_⟩
  · simp only [State.records, Prod.mk.injEq] at hrec
    obtain ⟨hc, hr, hw, ha, hb, -⟩ := hrec
    rw [hc, hr, hw, ha, hb]
    exact hz.shape.trans (congrArg (fun v : State => { v with lanes := z.lanes, flags := z.flags }) h.shape)
  · rw [hget, h.lanes, Table.get_set, reevaluated_congr hz.stations]
    split
    · next hk => rw [hk]
    · rfl
  · rw [hflag _ (by simp), h.flags]
    simp [Raises]
  · rw [hflag _ (by simp), h.flags]
    simp [Raises]
  · rw [hflag _ (by simp), h.flags]
    simp [Raises]
  · refine ⟨?_, ?_⟩
    · rw [hflag _ (by simp), h.flags, hnest]
      simp [Raises]
    · rw [hflag _ (by simp), h.flags, hnest]
      simp [Raises]
  · exact laneFlags_settled (resolving_laneFlags h) (resolving_eases h) hz.flags hget
  · simp only [List.mem_cons, List.not_mem_nil, or_false, not_or] at hf
    obtain ⟨hrel, hunc, hsta, hstop, hex, hcomplete, hstopped⟩ := hf
    rw [hflag f ⟨hstop, hex⟩, Bool.eq_iff_iff, h.flags]
    simp [Raises, hrel, hunc, hsta, hstop, hcomplete, hstopped]

end Resolve

end Sys2Proof.Machine
end

section
/-! PROOF. The second report of a pair, where none is skipped (R80, R125 to R127). -/

namespace Sys2Proof.Machine

open Sys2Proof.Claims

theorem pair_congr {s u : State} {p r : Fin 32} {place present : Entry} {d : Destination} {c : Fin 4}
    (h : Pair s p r place present d c) (he : u.entries = s.entries) : Pair u p r place present d c :=
  ⟨h.distinct, by rw [he]; exact h.atPlace, by rw [he]; exact h.atPresent, h.kinds, h.board, h.linked, h.dest, h.cup⟩

section Halves

variable {y : State} {run : Run} (hst : run.st = y) {p r : Fin 32} {place present : Entry} {d : Destination}
  {c : Fin 4} (hp : Pair y p r place present d c) {result : Result} {o : Observation} {k : Nat} {tm : Time}
include hst hp

/-- The picker's half completes a pair whose stacker's half is stored (R125). -/
theorem pairOutcome_place (hs : place.state = .half) (hstored : present.stored = some ⟨.presentEnd o, k, tm⟩)
    (q : Request) : pairOutcome (.placeEnd result) q p place run = run.resolvePair p r place.board (some c) d result o := by
  have hpartner := partnerOf_pair hp ⟨.inl ⟨rfl, rfl, rfl, rfl⟩⟩
  unfold pairOutcome
  simp only [hs, hst, hpartner, hp.dest.1, hstored, hp.cup.1]

/-- The stacker's half completes a pair whose picker's half is stored (R125). -/
theorem pairOutcome_present (hs : present.state = .half) (hstored : place.stored = some ⟨.placeEnd result, k, tm⟩)
    (q : Request) : pairOutcome (.presentEnd o) q r present run = run.resolvePair r p place.board (some c) d result o := by
  have hpartner := partnerOf_pair hp ⟨.inr ⟨rfl, rfl, rfl, rfl⟩⟩
  unfold pairOutcome
  simp only [hs, hst, hpartner, hp.dest.2, hstored, hp.cup.1, hp.board]

end Halves

theorem outcome_changes_placing {out : Outcome} {d : Destination} {h : BoardHw} (hs : h.state = .placing) :
    out.board d h ≠ h := fun heq => by
  have hstate := (congrArg BoardHw.state heq).trans hs
  cases out <;> exact absurd hstate nofun

/-- The end of a report that has resolved a pair and skipped none (R80, R144). -/
theorem resolve_ends {s u x : State} {run : Run} {rest : List MemAnswer} {more : List ImageId} {p r : Fin 32}
    {place present : Entry} {d : Destination} {c : Fin 4} {l : CacheLine} {result : Result} {o : Observation}
    {k : Fin 18} (hm : run.Made x more) (hx : Resolving u x p r place d c l (outcomeOf u d result o) o)
    (hmarks : (Run.start u rest).Marks run (present.slot, present.sequence)) (hl : run.lanes = true)
    (he : u.engine = .serving k) (hring : u.stackerRing = s.stackerRing) (hn : more ≠ []) (tag : Tag) :
    ∃ z m, PairResolved u z p r place d c l result o ∧ z.cups = x.cups ∧
      Ends (emptied z rest (emptyMark s present)) (run.conclude.finishHeld tag .done) tag .done (more ++ m) := by
  have hxe : x.engine = .serving k := by rw [hx.shape]; exact he
  have hxr : x.stackerRing = u.stackerRing := by rw [hx.shape]; rfl
  obtain ⟨z, m1, marked, hc, hz, hget, -, -⟩ := hm.concludes hxe
  have hevents : run.events = [] := hmarks.events
  have hmark : run.marks x.stackerRing = [emptyMark s present] := by
    rw [Run.marks, hmarks.empties, hxr, hring]
    rfl
  have hall : emptiedAll z run.answers (run.marks x.stackerRing) = emptied z rest (emptyMark s present) := by
    rw [hmark, hmarks.answers]
    rfl
  rw [hevents, hall] at hc
  have hcups : z.cups = x.cups := by rw [hz.shape]
  have hends := hc.ends (by simp [hn]) tag .done
  rw [List.append_assoc, List.append_assoc] at hends
  exact ⟨z, _, resolving_settles hx rfl hz (hget hl), hcups, hends⟩

theorem secondReport_ends {s : State} {ring : RepRing} {tag : Tag} {q : Request} {kind : ReportKind}
    {answers : List MemAnswer} {p r i j : Fin 32} {place present e f : Entry} {d : Destination} {c : Fin 4}
    {l : CacheLine} {result : Result} {o : Observation} (hp : Reported s ring tag q)
    (hrow : reportRow ring q.data answers = kind.row answers) (h4 : Answered answers 4) (ha : kind ≠ .arrived)
    (hr : kind ≠ .removed) (hcut : kind ≠ .cutEnd) (hpair : Pair s p r place present d c)
    (hh : Half p r place present i j e f) (hstate : e.state = .half) (h : Answers s ring q i e)
    (hmeets : Meets kind e (word1 s answers q))
    (hout : ∀ run : Run, run.st = appliedReport s answers q → kind.outcome (word1 s answers q) q i e run =
      run.resolvePair i j place.board (some c) d result o)
    (hl : (appliedReport s answers q).cached place.board = some l) (hs : l.words.hw.state = .placing) :
    ∃ x t changed, exec (kind.row answers) s = .next t ∧
      PairResolved (appliedReport s answers q) x p r place d c l result o ∧
      .entry p ∈ changed ∧ .entry r ∈ changed ∧ .nest place.board.nest ∈ changed ∧
      (x.cups.get c ≠ s.cups.get c → .cup c ∈ changed) ∧
      Ends (emptied x (answers.drop 4) (emptyMark s present)) t tag .done changed := by
  obtain ⟨k, he⟩ := serving_of_report hp
  have hu : s.Beside (appliedReport s answers q) := appliedReport_beside s answers q
  have hm0 := Run.Made.started ((hu.mode he).trans hp.guarded) (answers.drop 4)
  have hpair' := pair_congr hpair (hu.entries he)
  obtain ⟨x, more, hm, hx, hpin, hrin, hnest, hcup, hmarks, hlanes⟩ := hm0.resolvePair hpair' hh hl result o
    (outcome_changes_placing hs)
  have hexec := answered_exec hp hrow h4 ha hr h (.inr hstate) hmeets fun hk => absurd hk hcut
  rw [hout _ rfl] at hexec
  obtain ⟨z, m, hz, hcups, hends⟩ := resolve_ends (s := s) hm hx hmarks hlanes (hu.engine he)
    (hu.stackerRing he) (List.ne_nil_of_mem (List.mem_append_right _ hpin)) tag
  refine ⟨z, _, _, hexec, hz, by simp [hpin], by simp [hrin], by simp [hnest], fun hne => ?_, hends⟩
  rw [hcups, ← hu.cups he] at hne
  simp [hcup hne]

/-- Settles O37. -/
theorem secondReportResolvesThePair : Obligations.SecondReportResolvesThePair := by
  unfold Obligations.SecondReportResolvesThePair
  intro s tag q ring row answers p r place present d c l result o hp hrow h4 hpair hplace hpresent hcase u hl hs
  obtain ⟨k, he⟩ := serving_of_report hp
  have hpair' := pair_congr hpair ((appliedReport_beside s answers q).entries he)
  rcases hcase with ⟨rfl, h, hnone, rfl, hres, k, tm, hstored⟩ | ⟨rfl, h, hnone, rfl, hres, k, tm, hstored⟩
  · refine secondReport_ends (kind := .placeEnd) hp hrow h4 nofun nofun nofun hpair
      ⟨.inl ⟨rfl, rfl, rfl, rfl⟩⟩ hplace h ⟨by rw [hpair.kinds.1]; rfl, fun hh => hh.2 hnone, nofun,
        fun hh => hres hh.2⟩ (fun run hst => ?_) hl hs
    exact pairOutcome_place hst hpair' hplace hstored q
  · refine secondReport_ends (kind := .presentEnd) hp hrow h4 nofun nofun nofun hpair
      ⟨.inr ⟨rfl, rfl, rfl, rfl⟩⟩ hpresent h ⟨by rw [hpair.kinds.2]; rfl, fun hh => hh.2 hnone, nofun,
        fun hh => by simp at hh⟩ (fun run hst => ?_) hl hs
    exact pairOutcome_present hst hpair' hpresent hstored q

end Sys2Proof.Machine
end

section
/-! PROOF. The images of all that a request changes are among those that it collects (R183). -/

namespace Sys2Proof.Machine

open Sys2Proof.Claims

/-! ### What images show -/

/-- What the image of a nest shows. -/
def NestContext.shown (c : NestContext) : NestState × ImageStatus × Claim × Nat :=
  (c.state, c.status, c.claim, c.remaining)

/-- What the images of the entries, cups, lanes, stations and nests show. -/
def State.shown (s : State) :=
  (s.entries, s.cups, s.lanes, s.stations, s.nestA.shown, s.nestB.shown)

theorem shown_nest {s t : State} (h : t.shown = s.shown) (n : Nest) : (t.nest n).shown = (s.nest n).shown := by
  simp only [State.shown, Prod.mk.injEq] at h
  obtain ⟨-, -, -, -, ha, hb⟩ := h
  cases n
  · exact ha
  · exact hb

/-- A change of nothing that images show. -/
theorem shows_same {s t : State} {changed : List ImageId} (h : t.shown = s.shown) : ShowsChanges s t changed := by
  have hn := shown_nest h
  simp only [State.shown, Prod.mk.injEq] at h
  obtain ⟨he, hc, hl, hs, -, -⟩ := h
  exact ⟨fun j h => absurd (by rw [he]) h, fun j h => absurd (by rw [hc]) h, fun j h => absurd (by rw [hl]) h,
    fun j h => absurd (by rw [hs]) h, fun n h => absurd (hn n) h⟩

theorem shows_mono {s t : State} {a b : List ImageId} (h : ShowsChanges s t a) (hab : ∀ id ∈ a, id ∈ b) :
    ShowsChanges s t b :=
  ⟨fun j hj => hab _ (h.entries j hj), fun j hj => hab _ (h.cups j hj), fun j hj => hab _ (h.lanes j hj),
    fun j hj => hab _ (h.stations j hj), fun j hj => hab _ (h.nests j hj)⟩

theorem shows_trans {s x t : State} {a : List ImageId} (h : ShowsChanges s x a) (k : ShowsChanges x t a) :
    ShowsChanges s t a := by
  have one {α : Type} {p q r : α} {id : ImageId} (hpq : q ≠ p → id ∈ a) (hqr : r ≠ q → id ∈ a) (hne : r ≠ p) :
      id ∈ a := by
    by_cases e : q = p
    · exact hqr (e ▸ hne)
    · exact hpq e
  exact ⟨fun j => one (h.entries j) (k.entries j), fun j => one (h.cups j) (k.cups j),
    fun j => one (h.lanes j) (k.lanes j), fun j => one (h.stations j) (k.stations j),
    fun n => one (h.nests n) (k.nests n)⟩

theorem shows_relaned {u z : State} {more : List ImageId} (h : Relaned u z more) : ShowsChanges u z more := by
  have hn (n : Nest) : z.nest n = u.nest n := by
    rw [h.shape]
    cases n <;> rfl
  exact ⟨fun _ hj => absurd (by rw [h.shape]) hj, fun _ hj => absurd (by rw [h.shape]) hj, h.must,
    fun _ hj => absurd (by rw [h.stations]) hj, fun n hj => absurd (by rw [hn]) hj⟩

/-! ### Runs that show what they change -/

/-- A run has changed nothing without the image that shows it. -/
structure Run.Shows (r r' : Run) : Prop where
  mode  : r'.st.mode = r.st.mode
  grows : ∀ id ∈ r.images, id ∈ r'.images
  shows : r.st.mode = .guarded → ShowsChanges r.st r'.st r'.images

namespace Run.Shows

theorem refl (r : Run) : r.Shows r := ⟨rfl, fun _ h => h, fun _ => shows_same rfl⟩

theorem trans {a b c : Run} (h : a.Shows b) (k : b.Shows c) : a.Shows c :=
  ⟨k.mode.trans h.mode, fun id hid => k.grows id (h.grows id hid), fun hg =>
    shows_trans (shows_mono (h.shows hg) k.grows) (k.shows (h.mode.trans hg))⟩

theorem ite {r a b : Run} {c : Prop} [Decidable c] (ha : r.Shows a) (hb : r.Shows b) :
    r.Shows (if c then a else b) := by
  split <;> assumption

theorem foldl {α : Type} {f : Run → α → Run} (h : ∀ (r : Run) x, r.Shows (f r x)) (l : List α) (r : Run) :
    r.Shows (l.foldl f r) := by
  induction l generalizing r with
  | nil => exact .refl r
  | cons x l ih => exact (h r x).trans (ih _)

/-- A change of nothing that images show. -/
theorem unshown {r r' : Run} (h : r'.st.shown = r.st.shown) (hm : r'.st.mode = r.st.mode)
    (hi : ∀ id ∈ r.images, id ∈ r'.images) : r.Shows r' := ⟨hm, hi, fun _ => shows_same h⟩

theorem modify {r : Run} {f : State → State} (h : (f r.st).shown = r.st.shown) (hm : (f r.st).mode = r.st.mode) :
    r.Shows (r.modify f) := .unshown h hm fun _ h => h

theorem image (r : Run) (id : ImageId) : r.Shows (r.image id) :=
  .unshown (by rw [Run.image_st]) (by rw [Run.image_st]) fun x hx => (r.mem_image id x).2 (.inl hx)

/-- A change of one thing that an image shows, with the image. -/
theorem replaced {r : Run} {f : State → State} {id : ImageId} (hm : (f r.st).mode = r.st.mode)
    (h : ShowsChanges r.st (f r.st) [id]) : r.Shows ((r.modify f).image id) := by
  refine ⟨by rw [Run.image_st]; exact hm, fun x hx => (Run.mem_image _ id x).2 (.inl hx), fun hg => ?_⟩
  rw [Run.image_st]
  refine shows_mono h fun x hx => ?_
  rw [Run.mem_image, Run.modify_st, State.guarded, hm, hg]
  exact .inr ⟨rfl, by simpa using hx⟩

theorem setEntry (r : Run) (i : Fin 32) (e : Option Entry) : r.Shows (r.setEntry i e) := by
  refine .replaced rfl ⟨fun j h => ?_, fun _ h => absurd rfl h, fun _ h => absurd rfl h, fun _ h => absurd rfl h,
    fun n h => absurd (by cases n <;> rfl) h⟩
  by_cases hj : j = i
  · simp [hj]
  · exact absurd (Table.get_set_ne _ _ hj) h

theorem setCup (r : Run) (i : Fin 4) (c : Cup) : r.Shows (r.setCup i c) := by
  refine .ite (.refl r) (.replaced rfl ⟨fun _ h => absurd rfl h, fun j h => ?_, fun _ h => absurd rfl h,
    fun _ h => absurd rfl h, fun n h => absurd (by cases n <;> rfl) h⟩)
  by_cases hj : j = i
  · simp [hj]
  · exact absurd (Table.get_set_ne _ _ hj) h

theorem setLane (r : Run) (i : Fin 16) (l : Lane) : r.Shows (r.setLane i l) := by
  refine .ite (.refl r) (.replaced rfl ⟨fun _ h => absurd rfl h, fun _ h => absurd rfl h, fun j h => ?_,
    fun _ h => absurd rfl h, fun n h => absurd (by cases n <;> rfl) h⟩)
  by_cases hj : j = i
  · simp [hj]
  · exact absurd (Table.get_set_ne _ _ hj) h

theorem touchLanes (r : Run) : r.Shows r.touchLanes := .unshown rfl rfl fun _ h => h

theorem setStation (r : Run) (i : Fin 8) (st : Station) : r.Shows (r.setStation i st) := by
  refine .ite (.refl r) (.trans (.replaced rfl ⟨fun _ h => absurd rfl h, fun _ h => absurd rfl h,
    fun _ h => absurd rfl h, fun j h => ?_, fun n h => absurd (by cases n <;> rfl) h⟩) (.touchLanes _))
  by_cases hj : j = i
  · simp [hj]
  · exact absurd (Table.get_set_ne _ _ hj) h

theorem setNest (r : Run) (n : Nest) (c : NestContext) : r.Shows (r.setNest n c) := by
  refine .ite (.refl r) (.replaced (by cases n <;> rfl) ⟨fun _ h => absurd (by simp) h, fun _ h => absurd (by simp) h,
    fun _ h => absurd (by simp) h, fun _ h => absurd (by simp) h, fun m h => ?_⟩)
  by_cases hm : m = n
  · simp [hm]
  · exact absurd (by rw [State.nest_withNest, if_neg hm]) h

theorem raise (r : Run) (f : Flag) : r.Shows (r.raise f) := .ite ((Shows.modify rfl rfl).trans (.image _ _)) (.refl r)

theorem keepEvent (r : Run) (ev : Event) : r.Shows (r.keepEvent ev) := .unshown rfl rfl fun _ h => h

theorem changeBoard (r : Run) (b : BoardRef) (f : BoardHw → BoardHw) : r.Shows (r.changeBoard b f) := by
  unfold Run.changeBoard
  split
  · exact .refl r
  · split
    · exact .refl r
    · next i _ _ l _ =>
      simp only
      split
      · exact .refl r
      · have hredirty (r : Run) : r.Shows (r.modify State.redirty) := by
          refine .modify ?_ ?_ <;> (unfold State.redirty; split <;> rfl)
        have hline : r.Shows (r.modify fun s => (s.setLine i (some { l with
            words := l.words.withHw { f l.words.hw with time := r.st.time }, dirty := true })).touch i) := .modify rfl rfl
        refine hline.trans (Shows.trans ?_ (.setNest _ _ _))
        split
        · exact hredirty _
        · exact .refl _

/-! ### The steps of an expiry -/

theorem setSlots (r : Run) (i : Fin 8) (f : List SlotState → List SlotState) : r.Shows (r.setSlots i f) :=
  (Shows.setStation r i _).trans (.ite (.raise _ _) (.refl _))

theorem announce (r : Run) (i : Fin 16) (l : Lane) : r.Shows (r.announce i l) :=
  .ite ((Shows.setLane r i _).trans (.raise _ _)) (.setLane r i l)

theorem pairEnded (r : Run) (i : Fin 16) : r.Shows (r.pairEnded i) := (Shows.announce r i _).trans (.touchLanes _)

theorem markExpired (r : Run) (i : Fin 32) (e : Entry) (cause : ExpiryCause) : r.Shows (r.markExpired i e cause) :=
  (Shows.modify rfl rfl).trans (.setEntry _ i _)

theorem suspectCup (r : Run) (c : Option (Fin 4)) : r.Shows (r.suspectCup c) := by
  cases c with
  | none => exact .refl r
  | some c => exact .setCup r c _

theorem putCup (r : Run) (c : Option (Fin 4)) (cup : Cup) : r.Shows (r.putCup c cup) := by
  cases c with
  | none => exact .refl r
  | some c => exact .setCup r c cup

theorem expireSingle (r : Run) (i : Fin 32) (e : Entry) (cause : ExpiryCause) :
    r.Shows (r.expireSingle i e cause) :=
  ((((((Shows.markExpired r i e cause).trans (.suspectCup _ e.cup)).trans (.changeBoard _ e.board _)).trans
    (.image _ (.nest e.board.nest))).trans (.raise _ .uncertain)).trans (.keepEvent _ _))

theorem suspectSlot (r : Run) (d : Destination) : r.Shows (r.suspectSlot d) := .ite (.setSlots r _ _) (.refl r)

theorem expireBoth (r : Run) (i j : Fin 32) (e f : Entry) (d : Destination) (c : Fin 4) (cause : ExpiryCause) :
    r.Shows (r.expireBoth i j e f d c cause) :=
  (((((((Shows.markExpired r i e cause).trans (.markExpired _ j f cause)).trans (.suspectCup _ (some c))).trans
    (.changeBoard _ e.board _)).trans (.image _ (.nest e.board.nest))).trans (.suspectSlot _ d)).trans
      (.pairEnded _ d.lane)).trans (.raise _ .uncertain)

/-! ### The steps of an outcome -/

theorem freeEntry (r : Run) (i : Fin 32) : r.Shows (r.freeEntry i) := by
  unfold Run.freeEntry
  split
  · exact .refl r
  · next e _ =>
    have hlist : r.Shows (r.modify fun s => { s with order := s.order.erase i, due := s.due.erase i }) := .modify rfl rfl
    refine hlist.trans (Shows.trans ?_ (.setEntry _ i none))
    split
    · exact .unshown rfl rfl fun _ h => h
    · exact .refl _

theorem reclaim (r : Run) (n : Nest) : r.Shows (r.reclaim n) := .setNest r n _

theorem removeEntries (r : Run) (ids : List (Fin 32)) : r.Shows (r.removeEntries ids) :=
  (Shows.foldl (f := Run.freeEntry) freeEntry ids r).trans (.foldl reclaim _ _)

theorem boardEnded (r : Run) (n : Nest) : r.Shows (r.boardEnded n) :=
  .ite (.ite ((Shows.setNest r n _).trans (.raise _ _)) (.setNest r n _)) (.refl r)

theorem drainTest (r : Run) (n : Nest) : r.Shows (r.drainTest n) :=
  .ite ((Shows.setNest r n _).trans (.raise _ _)) (.refl r)

theorem toolStop (r : Run) (w1 : Word) (n : Nest) : r.Shows (r.toolStop w1 n) := .ite (.setNest r n _) (.refl r)

theorem cutOutcome (w1 : Word) (q : Request) (i : Fin 32) (e : Entry) (r : Run) :
    r.Shows (Machine.cutOutcome w1 q i e r) :=
  (((Shows.changeBoard r e.board _).trans (.removeEntries _ [i])).trans (.toolStop _ w1 e.board.nest)).trans
    (.drainTest _ e.board.nest)

theorem cupEnded (r : Run) (c : Option (Fin 4)) (cup : Cup) (f : BoardHw → BoardHw) (i : Fin 32) (e : Entry)
    (terminal : Bool) : r.Shows (r.cupEnded c cup f i e terminal) :=
  ((((Shows.putCup r c cup).trans (.changeBoard _ e.board f)).trans (.removeEntries _ [i])).trans
    (.ite (.boardEnded _ _) (.refl _))).trans (.drainTest _ _)

theorem pickOutcome (w1 : Word) (q : Request) (i : Fin 32) (e : Entry) (r : Run) :
    r.Shows (Machine.pickOutcome w1 q i e r) := by
  unfold Machine.pickOutcome
  cases reportResult w1 with
  | done => exact .cupEnded r e.cup (loadedWith e.board) (fun h => { h with state := .held }) i e false
  | fail => exact .cupEnded r e.cup ⟨.empty, none⟩ (fun h => { h with state := .free, cup := none }) i e false
  | abort => exact .cupEnded r e.cup ⟨.empty, none⟩ (fun h => { h with state := .free, cup := none }) i e false
  | dropped => exact .cupEnded r e.cup ⟨.empty, none⟩ BoardHw.dropped i e true

theorem discardOutcome (w1 : Word) (q : Request) (i : Fin 32) (e : Entry) (r : Run) :
    r.Shows (Machine.discardOutcome w1 q i e r) := by
  unfold Machine.discardOutcome
  cases reportResult w1 with
  | done => exact .cupEnded r e.cup ⟨.empty, none⟩ (fun h => { h with state := .scrapped, cup := none }) i e true
  | fail => exact .cupEnded r e.cup (loadedWith e.board) (fun h => { h with state := .held }) i e false
  | abort => exact .cupEnded r e.cup (loadedWith e.board) (fun h => { h with state := .held }) i e false
  | dropped => exact .cupEnded r e.cup ⟨.empty, none⟩ BoardHw.dropped i e true

theorem storeReport (r : Run) (i : Fin 32) (e : Entry) (payload : StoredPayload) (slot : Nat) :
    r.Shows (r.storeReport i e payload slot) := by
  unfold Run.storeReport
  simp only
  split
  · exact .setEntry r i _
  · exact (Shows.setEntry r i _).trans (.setEntry _ _ _)

theorem endSlots (r : Run) (x : PairEnd) (d : Destination) (o : Observation) : r.Shows (r.endSlots x d o) := by
  unfold Run.endSlots
  cases x with
  | stacked => exact .setSlots r _ _
  | relocated slot => exact (Shows.setSlots r _ _).trans (.raise _ _)
  | stationChanged => exact .raise r _
  | collision =>
    exact (((Shows.setStation r _ _).trans (.raise _ _)).trans (.setLane _ _ _)).trans (.raise _ _)
  | aborted => exact .ite (.setSlots r _ _) (.refl r)
  | dropped => exact .ite (.setSlots r _ _) (.refl r)

theorem resolvePair (r : Run) (i j : Fin 32) (b : BoardRef) (c : Option (Fin 4)) (d : Destination) (result : Result)
    (o : Observation) : r.Shows (r.resolvePair i j b c d result o) :=
  ((((((((Shows.putCup r c _).trans (.changeBoard _ b _)).trans (.endSlots _ _ d o)).trans
    (.removeEntries _ [i, j])).trans (.ite (.boardEnded _ _) (.refl _))).trans (.pairEnded _ d.lane)).trans
      (.drainTest _ b.nest)).trans (.image _ _))

end Run.Shows

end Sys2Proof.Machine
end

section
/-! PROOF. The skips of a fitting report, one after another (R111 to R113, R120). -/

namespace Sys2Proof.Machine

open Sys2Proof.Claims

/-! ### Words of a board record read back -/

theorem bits_pack_state (h : BoardHw) : bits h.word0 16 4 = h.state.code := by
  have hc : h.state.code < 16 := by cases h.state <;> decide
  unfold BoardHw.word0 bits pack
  simp only [fieldsSum, BitVec.toNat_ofNat]
  omega

theorem state_ofCode_code (x : BoardState) : BoardState.ofCode x.code = some x := by cases x <;> rfl

theorem withHw_state (w : BoardWords) (h : BoardHw) : (w.withHw h).hw.state = h.state := by
  have hb : bits (w.withHw h).w0 16 4 = h.state.code := bits_pack_state h
  unfold BoardWords.hw
  simp only [hb, state_ofCode_code]
  rfl

theorem withHw_lastCause (w : BoardWords) (h : BoardHw) : (w.withHw h).hw.lastCause = h.lastCause := by
  have hp : bits (w.withHw h).w3 0 1 = presence h.lastCause := by
    have hone : presence h.lastCause < 2 := by cases h.lastCause <;> simp [presence, markOf]
    show bits h.word3 0 1 = _
    unfold BoardHw.word3 bits pack
    simp only [fieldsSum, BitVec.toNat_ofNat]
    omega
  have hv : bits (w.withHw h).w3 8 4 = valueOf h.lastCause LastCause.code := by
    have hcode : valueOf h.lastCause LastCause.code < 16 := by
      cases h.lastCause with
      | none => decide
      | some x => cases x <;> decide
    show bits h.word3 8 4 = _
    unfold BoardHw.word3 bits pack
    simp only [fieldsSum, BitVec.toNat_ofNat]
    omega
  unfold BoardWords.hw bit
  simp only [hp, hv]
  cases h.lastCause with
  | none => rfl
  | some x => cases x <;> rfl

/-! ### What skips leave -/

/-- A board as skips leave it: as it was, or UNCERTAIN with last cause SKIPPED (R30). -/
def Skippable (h h' : BoardHw) : Prop :=
  (h'.state = h.state ∧ h'.lastCause = h.lastCause) ∨ (h'.state = .uncertain ∧ h'.lastCause = some .skipped)

theorem Skippable.trans {a b c : BoardHw} (h : Skippable a b) (k : Skippable b c) : Skippable a c := by
  rcases k with ⟨hs, hl⟩ | k
  · rcases h with ⟨hs', hl'⟩ | ⟨hs', hl'⟩
    · exact .inl ⟨hs.trans hs', hl.trans hl'⟩
    · exact .inr ⟨hs.trans hs', hl.trans hl'⟩
  · exact .inr k

/-- What skips leave of the state: each entry but for its state, each board's record but for its loss of track,
and the parts that no skip touches. -/
structure Aged (u y : State) : Prop where
  entries : ∀ j e, u.entries.get j = some e → ∃ st, y.entries.get j = some { e with state := st }
  boards  : ∀ b l, u.cached b = some l → ∃ m, y.cached b = some m ∧ Skippable l.words.hw m.words.hw
  engine  : y.engine = u.engine
  rings   : y.rings = u.rings
  time    : y.time = u.time

theorem Aged.refl (u : State) : Aged u u :=
  ⟨fun _ e h => ⟨e.state, h⟩, fun _ l h => ⟨l, h, .inl ⟨rfl, rfl⟩⟩, rfl, rfl, rfl⟩

theorem Aged.trans {u x y : State} (h : Aged u x) (k : Aged x y) : Aged u y := by
  refine ⟨fun j e he => ?_, fun b l hl => ?_, k.engine.trans h.engine, k.rings.trans h.rings, k.time.trans h.time⟩
  · obtain ⟨st, hx⟩ := h.entries j e he
    obtain ⟨st', hy⟩ := k.entries j _ hx
    exact ⟨st', hy⟩
  · obtain ⟨m, hm, hs⟩ := h.boards b l hl
    obtain ⟨m', hm', hs'⟩ := k.boards b m hm
    exact ⟨m', hm', hs.trans hs'⟩

/-- A board made UNCERTAIN by a skip, and the boards beside it. -/
theorem lost_boards {u y : State} {b : BoardRef} (h : Lost u y b .skipped) (b' : BoardRef) (l : CacheLine)
    (hl : u.cached b' = some l) : ∃ m, y.cached b' = some m ∧ Skippable l.words.hw m.words.hw := by
  by_cases hsame : ∀ l, u.cached b = some l → madeUncertain .skipped l.words.hw = l.words.hw
  · obtain ⟨hc, -⟩ := h.same hsame
    exact ⟨l, by rw [State.cached_congr hc]; exact hl, .inl ⟨rfl, rfl⟩⟩
  · push Not at hsame
    obtain ⟨l0, hl0, hne⟩ := hsame
    obtain ⟨hr, -⟩ := h.changed l0 hl0 hne
    by_cases hb : b' = b
    · subst hb
      exact ⟨_, hr.board, .inr ⟨withHw_state _ _, withHw_lastCause _ _⟩⟩
    · exact ⟨l, (hr.others b' hb).trans hl, .inl ⟨rfl, rfl⟩⟩

/-! ### One skip -/

theorem Run.Made.self {r : Run} (hg : r.st.mode = .guarded) : r.Made r.st r.images := ⟨rfl, fun _ => Iff.rfl, hg⟩

/-- The event of an entry's skip (R113, R120). -/
def skipEvent (u : State) (j : Fin 32) (f : Entry) : Event :=
  ⟨expirySource u f, .skipped, none, none, expiryRefs f j (expiryCup u f)⟩

/-- What skips leave of a run (R111 to R113, R120). -/
structure Run.Skips (r r' : Run) (evs : List Event) : Prop where
  aged    : Aged r.st r'.st
  shows   : r.Shows r'
  answers : r'.answers = r.answers
  empties : r'.empties = r.empties
  events  : r'.events = r.events ++ evs
  lanes   : r'.lanes = false → r.lanes = false ∧ r'.st.lanes = r.st.lanes ∧ r'.st.stations = r.st.stations

theorem Run.Skips.refl (r : Run) : r.Skips r [] :=
  ⟨.refl _, .refl r, rfl, rfl, (List.append_nil _).symm, fun h => ⟨h, rfl, rfl⟩⟩

theorem Run.Skips.trans {a b c : Run} {e e' : List Event} (h : a.Skips b e) (k : b.Skips c e') :
    a.Skips c (e ++ e') := by
  refine ⟨h.aged.trans k.aged, h.shows.trans k.shows, k.answers.trans h.answers, k.empties.trans h.empties,
    by rw [k.events, h.events, List.append_assoc], fun hl => ?_⟩
  obtain ⟨hb, hbl, hbs⟩ := k.lanes hl
  obtain ⟨ha, hal, has⟩ := h.lanes hb
  exact ⟨ha, hbl.trans hal, hbs.trans has⟩

theorem Run.expire_eq {run : Run} {j : Fin 32} {f : Entry} (hj : run.st.entries.get j = some f)
    (cause : ExpiryCause) : run.expire j cause =
      if f.kind.ofPair = true then run.expirePair j f cause else run.expireSingle j f cause := by
  unfold Run.expire
  rw [hj]

/-- An entry belongs to one pair. -/
theorem pair_unique {u : State} {p r p' r' i j : Fin 32} {place present place' present' e f : Entry}
    {d d' : Destination} {c c' : Fin 4} (h : Pair u p r place present d c) (h' : Pair u p' r' place' present' d' c')
    (hh : Half p r place present j i f e) (hone : (j = p' ∧ f = place') ∨ (j = r' ∧ f = present')) :
    p = p' ∧ r = r' ∧ place = place' ∧ present = present' ∧ d = d' ∧ c = c' := by
  obtain ⟨⟨rfl, rfl, -, -⟩ | ⟨rfl, rfl, -, -⟩⟩ := hh <;> obtain ⟨rfl, rfl⟩ | ⟨rfl, rfl⟩ := hone
  · obtain rfl := Option.some.inj (h.linked.1.symm.trans h'.linked.1)
    obtain rfl := Option.some.inj (h.atPresent.symm.trans h'.atPresent)
    exact ⟨rfl, rfl, rfl, rfl, Option.some.inj (h.dest.1.symm.trans h'.dest.1),
      Option.some.inj (h.cup.1.symm.trans h'.cup.1)⟩
  · exact absurd (h.kinds.1.symm.trans h'.kinds.2) nofun
  · exact absurd (h.kinds.2.symm.trans h'.kinds.1) nofun
  · obtain rfl := Option.some.inj (h.linked.2.symm.trans h'.linked.2)
    obtain rfl := Option.some.inj (h.atPlace.symm.trans h'.atPlace)
    exact ⟨rfl, rfl, rfl, rfl, Option.some.inj (h.dest.1.symm.trans h'.dest.1),
      Option.some.inj (h.cup.1.symm.trans h'.cup.1)⟩

theorem pairEvent_eq {u : State} {p r i j : Fin 32} {place present e f : Entry} {d : Destination} {c : Fin 4}
    (h : Pair u p r place present d c) (hh : Half p r place present j i f e) :
    pairEvent place j f c .skipped = skipEvent u j f := by
  have hplace : placeOf u f = some place := by
    obtain ⟨⟨rfl, rfl, -, -⟩ | ⟨rfl, rfl, -, -⟩⟩ := hh
    · rw [placeOf, if_pos h.kinds.1]
    · rw [placeOf, if_neg (by rw [h.kinds.2]; exact nofun), h.linked.2]
      exact h.atPlace
  have hsource : expirySource u f = missing place := by
    unfold expirySource
    obtain ⟨-, hk | hk, -⟩ := half_kinds h hh
    · rw [hk, hplace]; rfl
    · rw [hk, hplace]; rfl
  have hcup : expiryCup u f = some c := by
    unfold expiryCup
    obtain ⟨-, hk | hk, -⟩ := half_kinds h hh
    · rw [hk, hplace]; exact h.cup.1
    · rw [hk, hplace]; exact h.cup.1
  rw [skipEvent, hsource, hcup]
  rfl

section OneSkip

variable {run : Run} (hg : run.st.mode = .guarded) {j : Fin 32} {f : Entry} (hj : run.st.entries.get j = some f)
include hg hj

/-- A CUT, PICK or DISCARD is skipped (R111, R120). -/
theorem Run.skips_single (hk : f.kind.ofPair = false) :
    run.Skips (run.expire j .skipped) [skipEvent run.st j f] ∧
      SkippedOne run.st (run.expire j .skipped).st j ∧ .nest f.board.nest ∈ (run.expire j .skipped).images ∧
      ∀ k, k ≠ j → (run.expire j .skipped).st.entries.get k = run.st.entries.get k := by
  rw [Run.expire_eq hj, if_neg (by rw [hk]; exact nofun)]
  obtain ⟨y, more, hm, hy, -, hnest, -⟩ := (Run.Made.self hg).expireSingle j f .skipped
  have howes := run.expireSingle_owes j f .skipped
  have hlost : Lost run.st y f.board .skipped := lost_of_records hy.records
  rw [hm.shape]
  have hentries : y.entries = run.st.entries.set j (some { f with state := .expired .skipped }) := by
    rw [hy.shape]
    rfl
  have hev : singleEvent j f .skipped = skipEvent run.st j f := by
    unfold singleEvent skipEvent expirySource expiryCup
    cases hf : f.kind with
    | cut => rfl
    | pick => rfl
    | discard => rfl
    | place => rw [hf] at hk; cases hk
    | present => rw [hf] at hk; cases hk
  refine ⟨⟨?_, .expireSingle run j f .skipped, howes.answers, howes.empties, by rw [howes.events, hev], fun hl => ?_⟩,
    ⟨f, hj, hlost, fun _ => ?_, fun p r place present d c hp hone => ?_⟩, (hm.images _).2 (by simp [hnest]),
    fun k hk => ?_⟩
  · rw [hm.shape]
    refine ⟨fun k e he => ?_, fun b l hl => lost_boards hlost b l hl, by rw [hy.shape]; rfl, by rw [hy.shape]; rfl,
      by rw [hy.shape]; rfl⟩
    rw [hentries, Table.get_set]
    split
    · next hkj =>
      subst hkj
      exact ⟨_, by rw [Option.some.inj (hj.symm.trans he)]⟩
    · exact ⟨e.state, he⟩
  · rw [howes.lanes, Bool.or_false] at hl
    refine ⟨hl, ?_, ?_⟩
    · rw [hm.shape, hy.shape]; rfl
    · rw [hm.shape, hy.shape]; rfl
  · exact hy.shape
  · exfalso
    rcases hone with ⟨-, rfl⟩ | ⟨-, rfl⟩
    · rw [hp.kinds.1] at hk; cases hk
    · rw [hp.kinds.2] at hk; cases hk
  · rw [hentries, Table.get_set_ne _ _ hk]

/-- A pair is skipped through one of its entries (R112, R120). -/
theorem Run.skips_pair {p r i : Fin 32} {place present e : Entry} {d : Destination} {c : Fin 4}
    (hp : Pair run.st p r place present d c) (hh : Half p r place present j i f e) :
    run.Skips (run.expire j .skipped) [skipEvent run.st j f] ∧
      SkippedOne run.st (run.expire j .skipped).st j ∧ .nest f.board.nest ∈ (run.expire j .skipped).images ∧
      ∀ k, k ≠ p → k ≠ r → (run.expire j .skipped).st.entries.get k = run.st.entries.get k := by
  have hk : f.kind.ofPair = true := by
    obtain ⟨-, hk | hk, -⟩ := half_kinds hp hh <;> rw [hk] <;> rfl
  rw [Run.expire_eq hj, if_pos hk, Run.expirePair_eq hp hh]
  obtain ⟨y, more, hm, hy, -, -, hnest⟩ := (Run.Made.self hg).expireBoth hp hh .skipped
  have hm := hm.keepEvent (pairEvent place j f c .skipped)
  have howes := (run.expireBoth_owes j i f e d c .skipped).keepEvent (pairEvent place j f c .skipped)
  have hshows := (Run.Shows.expireBoth run j i f e d c .skipped).trans (.keepEvent _ (pairEvent place j f c .skipped))
  have hexpired (p' r' : Fin 32) (place' present' : Entry) (d' : Destination) (c' : Fin 4)
      (hp' : Pair run.st p' r' place' present' d' c') (hone : (j = p' ∧ f = place') ∨ (j = r' ∧ f = present')) :
      PairExpired run.st y p' r' place' present' d' c' .skipped := by
    obtain ⟨rfl, rfl, rfl, rfl, rfl, rfl⟩ := pair_unique hp hp' hh hone
    exact hy
  have hlost : Lost run.st y place.board .skipped := lost_of_records hy.records
  have hboard := board_pair hp hh
  have hentries : y.entries = (run.st.entries.set p (some { place with state := .expired .skipped })).set r
      (some { present with state := .expired .skipped }) := by
    rw [hy.shape]
    rfl
  have hev : pairEvent place j f c .skipped = skipEvent run.st j f := pairEvent_eq hp hh
  generalize (run.expireBoth j i f e d c .skipped).keepEvent (pairEvent place j f c .skipped) = run' at hm howes hshows
  rw [hm.shape]
  refine ⟨⟨?_, hshows, howes.answers, howes.empties, by rw [howes.events, ← hev]; rfl, fun hl => ?_⟩,
    ⟨f, hj, hboard ▸ hlost, fun hno => ?_, fun p' r' place' present' d' c' hp' hone => ?_⟩, (hm.images _).2 ?_,
    fun k hkp hkr => ?_⟩
  · rw [hm.shape]
    refine ⟨fun k e' he => ?_, fun b l hl => lost_boards hlost b l hl, by rw [hy.shape]; rfl, by rw [hy.shape]; rfl,
      by rw [hy.shape]; rfl⟩
    rw [hentries, Table.get_set, Table.get_set]
    split
    · next hkr =>
      subst hkr
      exact ⟨_, by rw [Option.some.inj (hp.atPresent.symm.trans he)]⟩
    · split
      · next hkp =>
        subst hkp
        exact ⟨_, by rw [Option.some.inj (hp.atPlace.symm.trans he)]⟩
      · exact ⟨e'.state, he⟩
  · rw [howes.lanes, Bool.or_true] at hl
    cases hl
  · exfalso
    rcases hno with h | h | h <;> (rw [h] at hk; cases hk)
  · have h := hexpired _ _ _ _ _ _ hp' hone
    exact ⟨h.shape, h.uncertain, h.station, h.laneFlags, h.others⟩
  · rw [hboard]
    simp [hnest]
  · rw [hentries, Table.get_set_ne _ _ hkr, Table.get_set_ne _ _ hkp]

end OneSkip

/-! ### All skips -/

/-- The pairs in flight of a table that links them. -/
theorem pair_of_linked {s : State} (hs : PairsLinked s) {j : Fin 32} {f : Entry} (hj : s.entries.get j = some f)
    (hfly : f.inFlight = true) (hk : f.kind.ofPair = true) :
    ∃ p r place present d c i e, Pair s p r place present d c ∧ Half p r place present j i f e := by
  have hkind : f.kind = .place ∨ f.kind = .present := by
    cases hx : f.kind with
    | place => exact .inl rfl
    | present => exact .inr rfl
    | cut => rw [hx] at hk; cases hk
    | pick => rw [hx] at hk; cases hk
    | discard => rw [hx] at hk; cases hk
  obtain ⟨-, hlink⟩ := hs j f hj
  obtain ⟨i, e, hpartner, hi, hback, hke, hstate, hboard, hdest, hsome, hcup⟩ := hlink hfly hkind
  obtain ⟨-, hlink'⟩ := hs i e hi
  have hefly : e.inFlight = true := by rw [← hfly, Entry.inFlight, Entry.inFlight, hstate]
  obtain ⟨d, hd⟩ := Option.isSome_iff_exists.1 hsome
  have hecup : e.cup.isSome = true ↔ e.kind = .place := by
    obtain ⟨-, -, -, -, -, -, -, -, -, -, h⟩ := hlink' hefly (by
      rw [hke]
      split
      · exact .inr rfl
      · exact .inl rfl)
    exact h
  have hij : j ≠ i := fun h => by
    subst h
    obtain rfl := Option.some.inj (hj.symm.trans hi)
    rcases hkind with h | h <;> (rw [h] at hke; simp at hke)
  rcases hkind with h | h
  · rw [if_pos h] at hke
    obtain ⟨c, hc⟩ := Option.isSome_iff_exists.1 (hcup.2 h)
    have hnone : e.cup = none := by
      rw [← Option.not_isSome_iff_eq_none, hecup, hke]
      exact nofun
    exact ⟨j, i, f, e, d, c, i, e, ⟨hij, hj, hi, ⟨h, hke⟩, hboard, ⟨hpartner, hback⟩, ⟨hd, hdest.trans hd⟩,
      ⟨hc, hnone⟩⟩, ⟨.inl ⟨rfl, rfl, rfl, rfl⟩⟩⟩
  · rw [if_neg (by rw [h]; exact nofun)] at hke
    obtain ⟨c, hc⟩ := Option.isSome_iff_exists.1 (hecup.2 hke)
    have hnone : f.cup = none := by
      rw [← Option.not_isSome_iff_eq_none, hcup, h]
      exact nofun
    exact ⟨i, j, e, f, d, c, i, e, ⟨hij.symm, hi, hj, ⟨hke, h⟩, hboard.symm, ⟨hback, hpartner⟩, ⟨hdest.trans hd, hd⟩,
      ⟨hc, hnone⟩⟩, ⟨.inr ⟨rfl, rfl, rfl, rfl⟩⟩⟩

/-- A pair stands while its entries age. -/
theorem pair_aged {u y : State} (h : Aged u y) {p r : Fin 32} {place present : Entry} {d : Destination} {c : Fin 4}
    (hp : Pair u p r place present d c) :
    ∃ st st', Pair y p r { place with state := st } { present with state := st' } d c := by
  obtain ⟨st, hst⟩ := h.entries p place hp.atPlace
  obtain ⟨st', hst'⟩ := h.entries r present hp.atPresent
  exact ⟨st, st', ⟨hp.distinct, hst, hst', hp.kinds, hp.board, hp.linked, hp.dest, hp.cup⟩⟩

/-- The events of skips (R113, R120). -/
def skipEvents (u : State) (js : List (Fin 32)) : List Event :=
  js.filterMap fun j => (u.entries.get j).map (skipEvent u j)

/-- An entry that no skip of a list touches: it is none of them, and no pair of one. -/
def Spared (u : State) (js : List (Fin 32)) (k : Fin 32) : Prop :=
  k ∉ js ∧ ∀ j ∈ js, ∀ f, u.entries.get j = some f → f.kind.ofPair = true → f.partner ≠ some k

/-- The halves of a pair that has aged. -/
theorem half_aged {u y : State} {p r i j : Fin 32} {place present e f : Entry} {d : Destination} {c : Fin 4}
    {st : EntryState} (h : Aged u y) (hp : Pair u p r place present d c) (hh : Half p r place present j i f e)
    (hj : y.entries.get j = some { f with state := st }) :
    ∃ place' present' i' e', Pair y p r place' present' d c ∧ Half p r place' present' j i' { f with state := st } e' ∧
      missing place' = missing place := by
  obtain ⟨st1, st2, hp'⟩ := pair_aged h hp
  obtain ⟨⟨rfl, rfl, -, -⟩ | ⟨rfl, rfl, -, -⟩⟩ := hh
  · rw [Option.some.inj (hj.symm.trans hp'.atPlace)]
    exact ⟨_, _, r, _, hp', ⟨.inl ⟨rfl, rfl, rfl, rfl⟩⟩, rfl⟩
  · rw [Option.some.inj (hj.symm.trans hp'.atPresent)]
    exact ⟨_, _, p, _, hp', ⟨.inr ⟨rfl, rfl, rfl, rfl⟩⟩, rfl⟩

/-- The skip of an entry that has aged, where it is a half of a pair if its kind is. -/
theorem skipEvent_single {u y : State} {j : Fin 32} {f : Entry} (hk : f.kind.ofPair = false) (st : EntryState) :
    skipEvent y j { f with state := st } = skipEvent u j f := by
  unfold skipEvent expirySource expiryCup
  cases hf : f.kind with
  | cut => rfl
  | pick => rfl
  | discard => rfl
  | place => rw [hf] at hk; cases hk
  | present => rw [hf] at hk; cases hk

/-- One entry of a list is skipped, after others. -/
theorem Run.skips_one {u : State} (hs : PairsLinked u) {run : Run} (hg : run.st.mode = .guarded)
    (h : Aged u run.st) {j : Fin 32} {f : Entry} (hj : u.entries.get j = some f) (hfly : f.inFlight = true) :
    run.Skips (run.expire j .skipped) [skipEvent u j f] ∧
      SkippedOne run.st (run.expire j .skipped).st j ∧ .nest f.board.nest ∈ (run.expire j .skipped).images ∧
      ∀ k, k ≠ j → (f.kind.ofPair = true → f.partner ≠ some k) →
        (run.expire j .skipped).st.entries.get k = run.st.entries.get k := by
  obtain ⟨st, hst⟩ := h.entries j f hj
  by_cases hk : f.kind.ofPair = true
  · obtain ⟨p, r, place, present, d, c, i, e, hp, hh⟩ := pair_of_linked hs hj hfly hk
    obtain ⟨place', present', i', e', hp', hh', hmissing⟩ := half_aged h hp hh hst
    obtain ⟨hskips, hone, hnest, hkeep⟩ := Run.skips_pair hg hst hp' hh'
    rw [← pairEvent_eq hp' hh', show pairEvent place' j { f with state := st } c .skipped = pairEvent place j f c .skipped
      by rw [pairEvent, pairEvent, hmissing]; rfl, pairEvent_eq hp hh] at hskips
    refine ⟨hskips, hone, hnest, fun k hkj hpartner => ?_⟩
    have hpartner := hpartner hk
    obtain ⟨⟨rfl, rfl, -, -⟩ | ⟨rfl, rfl, -, -⟩⟩ := hh
    · exact hkeep k hkj fun hr => hpartner (by rw [hr]; exact hp.linked.1)
    · exact hkeep k (fun hr => hpartner (by rw [hr]; exact hp.linked.2)) hkj
  · have hk := Bool.eq_false_iff.2 hk
    obtain ⟨hskips, hone, hnest, hkeep⟩ := Run.skips_single hg hst hk
    rw [skipEvent_single (u := u) hk] at hskips
    exact ⟨hskips, hone, hnest, fun k hkj _ => hkeep k hkj⟩

theorem Run.skips_all {u : State} (hs : PairsLinked u) (js : List (Fin 32)) {run : Run}
    (hg : run.st.mode = .guarded) (h : Aged u run.st)
    (hfly : ∀ j ∈ js, ∃ f, u.entries.get j = some f ∧ f.inFlight = true) {run' : Run}
    (hrun : js.foldl (fun r j => r.expire j .skipped) run = run') :
    run.Skips run' (skipEvents u js) ∧ Skipped js run.st run'.st ∧
      (∀ j ∈ js, ∀ f, u.entries.get j = some f → .nest f.board.nest ∈ run'.images) ∧
      ∀ k, Spared u js k → run'.st.entries.get k = run.st.entries.get k := by
  induction js generalizing run with
  | nil =>
    subst hrun
    exact ⟨.refl run, rfl, by simp, fun _ _ => rfl⟩
  | cons j js ih =>
    obtain ⟨f, hj, hf⟩ := hfly j (by simp)
    obtain ⟨hskips, hone, hnest, hkeep⟩ := Run.skips_one hs hg h hj hf
    obtain ⟨hskips', hrest, hnests, hkeep'⟩ := ih (hskips.shows.mode.trans hg) (h.trans hskips.aged)
      (fun k hk => hfly k (by simp [hk])) hrun
    have hevents : skipEvents u (j :: js) = [skipEvent u j f] ++ skipEvents u js := by
      simp [skipEvents, hj]
    refine ⟨hevents ▸ hskips.trans hskips', ⟨_, hone, hrest⟩, fun k hk g hg => ?_, fun k ⟨hk, hpartner⟩ => ?_⟩
    · rcases List.mem_cons.1 hk with rfl | hk
      · obtain rfl := Option.some.inj (hj.symm.trans hg)
        exact hskips'.shows.grows _ hnest
      · exact hnests k hk g hg
    · simp only [List.mem_cons, not_or] at hk
      rw [hkeep' k ⟨hk.2, fun i hi => hpartner i (by simp [hi])⟩]
      exact hkeep k hk.1 (hpartner j (by simp) f hj)

end Sys2Proof.Machine
end

section
/-! PROOF. A fitting report that skips earlier entries of its ring (R120, R173, R183). -/

namespace Sys2Proof.Machine

open Sys2Proof.Claims

/-! ### The captures of skips -/

theorem skipEvents_congr {s u : State} (h : u.entries = s.entries) (js : List (Fin 32)) :
    skipEvents u js = skipEvents s js := by
  unfold skipEvents skipEvent expirySource expiryCup placeOf
  rw [h]

theorem foldl_skipNoted (s : State) (js : List (Fin 32)) (z : State) :
    (skipEvents s js).foldl State.handed z = js.foldl (skipNoted s) z := by
  induction js generalizing z with
  | nil => rfl
  | cons j js ih =>
    rw [List.foldl_cons, ← ih]
    unfold skipEvents skipNoted
    rw [List.filterMap_cons]
    cases s.entries.get j with
    | none => rfl
    | some f => rfl

theorem noted_shown (u : State) (src : Source) (capture : Capture) : (noted u src capture).shown = u.shown := by
  unfold noted
  split <;> rfl

theorem handed_shown (evs : List Event) (z : State) : (evs.foldl State.handed z).shown = z.shown := by
  induction evs generalizing z with
  | nil => rfl
  | cons ev evs ih => exact (ih _).trans (noted_shown _ _ _)

theorem noted_captureOf (u : State) (src src' : Source) (capture : Capture) :
    (noted u src' capture).captureOf src =
      if src = src' ∧ u.captureOf src' = none then some capture else u.captureOf src := by
  unfold noted
  cases hc : u.captureOf src' with
  | none =>
    unfold State.captureOf
    simp only [and_true, Table.get_set]
    have hidx : src.idx = src'.idx ↔ src = src' := ⟨Source.idx_inj, fun h => by rw [h]⟩
    simp only [hidx]
  | some held => simp

/-- A capture that events have filled has its images (R173). -/
theorem handed_captures (evs : List Event) (z : State) (src : Source) (hz : z.captureOf src = none)
    (ht : (evs.foldl State.handed z).captureOf src ≠ none) :
    .capture src ∈ handedImages evs z ∧ ImageId.status ∈ handedImages evs z := by
  induction evs generalizing z with
  | nil => exact absurd hz ht
  | cons ev evs ih =>
    unfold handedImages
    by_cases h : src = ev.source
    · rw [notedImages, ← h, hz]
      simp
    · have hz' : (z.handed ev).captureOf src = none := by
        rw [State.handed, noted_captureOf, if_neg fun hh => h hh.1, hz]
      obtain ⟨hc, hs⟩ := ih _ hz' ht
      exact ⟨List.mem_append_right _ hc, List.mem_append_right _ hs⟩

/-! ### The end of a report that has skipped -/

theorem beside_shown {s t : State} {p : Fin 18} (h : s.Beside t) (e : s.engine = .serving p) : t.shown = s.shown := by
  have hn (n : Nest) : (t.nest n).shown = (s.nest n).shown := by
    rw [h.nest e n]
    rfl
  have ha := hn .a
  have hb := hn .b
  simp only [State.shown, Prod.mk.injEq]
  exact ⟨h.entries e, h.cups e, h.lanes e, h.stations e, ha, hb⟩

/-- What a report does that has skipped entries: the skips have made `y`, the report makes `z` of it, and the skips
are then handed to the Condition Unit (R113, R120, R183). -/
def SkipsAndDoes (s u : State) (tag : Tag) (row : Instr) (js : List (Fin 32)) (does : State → State → Prop) : Prop :=
  ∃ y z t changed, exec row s = .next t ∧ Skipped js u y ∧ does y z ∧
    ShowsChanges s t changed ∧
    (∀ j ∈ js, ∀ f, s.entries.get j = some f → .nest f.board.nest ∈ changed) ∧
    (∀ src, z.captureOf src = none → t.captureOf src ≠ none → .capture src ∈ changed ∧ .status ∈ changed) ∧
    Ends (js.foldl (skipNoted s) z) t tag .done changed

/-- A run that has skipped entries, from the start of a report on. -/
structure Skipping (s u : State) (rest : List MemAnswer) (js : List (Fin 32)) (run : Run) : Prop where
  skips  : (Run.start u rest).Skips run (skipEvents s js)
  chain  : Skipped js u run.st
  nests  : ∀ j ∈ js, ∀ f, s.entries.get j = some f → .nest f.board.nest ∈ run.images
  spared : ∀ k, Spared s js k → run.st.entries.get k = s.entries.get k

/-- The end of a report that has skipped entries, once its outcome and its lanes are settled. -/
theorem Skipping.ends {s u z : State} {rest : List MemAnswer} {js : List (Fin 32)} {run run' : Run}
    {does : State → State → Prop} {ids : List ImageId} {tag : Tag} {row : Instr} (h : Skipping s u rest js run)
    (hexec : exec row s = .next (run'.conclude.finishHeld tag .done))
    (hc : run'.Concludes ((skipEvents s js).foldl State.handed z) (ids ++ handedImages (skipEvents s js) z))
    (hdoes : does run.st z) (hshown : ShowsChanges s z ids) (hgrows : ∀ id ∈ run.images, id ∈ ids) (hn : ids ≠ []) :
    SkipsAndDoes s u tag row js does := by
  have hends := hc.ends (by simp [hn]) tag .done
  generalize run'.conclude.finishHeld tag .done = t at hexec hends
  have ht : t.shown = z.shown := (ends_same hends fun u => u.shown).trans (handed_shown _ _)
  have hcap : t.captures = ((skipEvents s js).foldl State.handed z).captures := ends_same hends fun u => u.captures
  refine ⟨run.st, z, t, _, hexec, h.chain, hdoes,
    shows_trans (shows_mono hshown fun id hid => List.mem_append_left _ hid) (shows_same ht),
    fun j hj f hf => List.mem_append_left _ (hgrows _ (h.nests j hj f hf)), fun src hz hne => ?_,
    ends_at hends (foldl_skipNoted s js z)⟩
  obtain ⟨hcapture, hstatus⟩ := handed_captures (skipEvents s js) z src hz (by
    rw [State.captureOf, ← hcap]
    exact hne)
  exact ⟨List.mem_append_right _ hcapture, List.mem_append_right _ hstatus⟩

/-- What a run shows of all that it has changed since the start of its report. -/
theorem Skipping.shown {s u x : State} {rest : List MemAnswer} {js : List (Fin 32)} {run run' : Run}
    {ids : List ImageId} (h : Skipping s u rest js run) (hus : u.shown = s.shown) (hg : u.mode = .guarded)
    (hs : run.Shows run') (hm : run'.Made x ids) :
    ShowsChanges s x ids ∧ ∀ id ∈ run.images, id ∈ ids := by
  have hshow := (h.skips.shows.trans hs).shows hg
  rw [hm.shape] at hshow
  exact ⟨shows_trans (shows_same hus) (shows_mono hshow fun id hid => (hm.images id).1 hid),
    fun id hid => (hm.images id).1 (hs.grows id hid)⟩

/-- A report that has skipped entries and owes no EMPTY mark ends with its lanes settled (R120, R144). -/
theorem Skipping.settles {s u x : State} {rest : List MemAnswer} {js : List (Fin 32)} {run run' : Run}
    {does : State → State → Prop} {ids : List ImageId} {tag : Tag} {row : Instr} {k : Fin 18}
    (h : Skipping s u rest js run) (hexec : exec row s = .next (run'.conclude.finishHeld tag .done))
    (hus : u.shown = s.shown) (hg : u.mode = .guarded) (hset : LanesSettled s) (hs : run.Shows run')
    (hm : run'.Made x ids) (he : x.engine = .serving k) (hr : run.Removes run' [])
    (hxl : x.lanes = run.st.lanes) (hxs : x.stations = run.st.stations) (hn : ids ≠ [])
    (hdoes : ∀ z, Resettled x z → does run.st z) : SkipsAndDoes s u tag row js does := by
  obtain ⟨z, more, marked, hc, hz, hget, hsame, -⟩ := hm.concludes he
  obtain ⟨hshown, hgrows⟩ := h.shown hus hg hs hm
  have hevents : run'.events = skipEvents s js := hr.events.trans h.skips.events
  have hempties : run'.marks x.stackerRing = [] := by
    rw [Run.marks, hr.empties, h.skips.empties]
    rfl
  rw [hevents, hempties] at hc
  have hz' : Resettled x z := by
    by_cases hl : run'.lanes = true
    · exact hz.resettled (hget hl)
    · have hl := Bool.eq_false_iff.2 hl
      obtain rfl := hsame hl
      obtain ⟨-, hyl, hys⟩ := h.skips.lanes (hr.lanes.symm.trans hl)
      simp only [State.shown, Prod.mk.injEq] at hus
      obtain ⟨-, -, hul, hust, -⟩ := hus
      have hset' : LanesSettled z := lanesSettled_usable hset (hxl.trans (hyl.trans hul)) fun i => by
        rw [hxs, hys]
        exact congrArg (fun t => (Table.get t i).usable) hust
      exact (Relaned.refl z).resettled fun k => (State.reevaluated_of_settles (hset' k)).symm
  refine h.ends (ids := ids ++ (more ++ marked)) hexec ?_ (hdoes z hz') ?_ (fun id hid => ?_) (by simp [hn])
  · rw [← List.append_assoc]
    exact hc
  · exact shows_trans (shows_mono hshown fun id hid => List.mem_append_left _ hid)
      (shows_mono (shows_relaned hz) fun id hid => List.mem_append_right _ (List.mem_append_left _ hid))
  · exact List.mem_append_left _ (hgrows id hid)

/-- A report that has skipped entries and resolves a pair (R80, R120, R125, R144). -/
theorem Skipping.resolves {s u x : State} {rest : List MemAnswer} {js : List (Fin 32)} {run run' : Run}
    {does : State → State → Prop} {ids : List ImageId} {tag : Tag} {row : Instr} {k : Fin 18} {present : Entry}
    (h : Skipping s u rest js run) (hexec : exec row s = .next (run'.conclude.finishHeld tag .done))
    (hus : u.shown = s.shown) (hg : u.mode = .guarded) (hs : run.Shows run') (hm : run'.Made x ids)
    (he : x.engine = .serving k) (hmarks : run.Marks run' (present.slot, present.sequence)) (hl : run'.lanes = true)
    (hring : x.stackerRing = s.stackerRing) (hn : ids ≠ [])
    (hdoes : ∀ z more, Relaned x z more → (∀ k, z.lanes.get k = reevaluated x (x.lanes.get k)) →
      does run.st (emptied z rest (emptyMark s present))) : SkipsAndDoes s u tag row js does := by
  obtain ⟨z, more, marked, hc, hz, hget, -, -⟩ := hm.concludes he
  obtain ⟨hshown, hgrows⟩ := h.shown hus hg hs hm
  have hevents : run'.events = skipEvents s js := hmarks.events.trans h.skips.events
  have hempties : run'.marks x.stackerRing = [emptyMark s present] := by
    rw [Run.marks, hmarks.empties, h.skips.empties, hring]
    rfl
  have hanswers : run'.answers = rest := hmarks.answers.trans h.skips.answers
  rw [hevents, hempties, hanswers] at hc
  have hze : z.engine = .serving k := by rw [hz.shape]; exact he
  have hshownz := beside_shown (emptied_beside z rest (emptyMark s present)) hze
  refine h.ends (ids := ids ++ (more ++ marked)) hexec ?_ (hdoes z more hz (hget hl)) ?_ (fun id hid => ?_)
    (by simp [hn])
  · rw [← List.append_assoc]
    exact hc
  · exact shows_trans (shows_trans (shows_mono hshown fun id hid => List.mem_append_left _ hid)
      (shows_mono (shows_relaned hz) fun id hid => List.mem_append_right _ (List.mem_append_left _ hid)))
      (shows_same hshownz)
  · exact List.mem_append_left _ (hgrows id hid)

/-! ### A report that fits, with its skips -/

theorem takeWhile_before {before after : List (Fin 32)} {i : Fin 32} (h : i ∉ before) :
    (before ++ i :: after).takeWhile (fun j => j != i) = before := by
  rw [List.takeWhile_append_of_pos fun j hj => by simpa using fun e : j = i => h (e ▸ hj)]
  simp

theorem awaits_inFlight {f : Entry} (h : f.awaits = true) : f.inFlight = true := by
  unfold Entry.awaits at h
  unfold Entry.inFlight
  cases hs : f.state with
  | isOpen => rfl
  | half => rfl
  | expired cause => rw [hs] at h; cases h

/-- The entries of a ring that await their report, of a list. -/
def awaiting (s : State) (ring : CmdRing) (l : List (Fin 32)) : List (Fin 32) :=
  l.filter fun j => (s.entries.get j).any fun f => f.ring == ring && f.awaits

theorem mem_awaiting {s : State} {ring : CmdRing} {l : List (Fin 32)} {j : Fin 32} :
    j ∈ awaiting s ring l ↔ j ∈ l ∧ ∃ f, s.entries.get j = some f ∧ f.ring = ring ∧ f.awaits = true := by
  unfold awaiting
  rw [List.mem_filter, Option.any_eq_true]
  simp

/-- The start of a report that fits, with its skips. -/
theorem skipping_start {s : State} {ring : RepRing} {tag : Tag} {q : Request} {answers : List MemAnswer} {i : Fin 32}
    {before after : List (Fin 32)} (hp : Reported s ring tag q) (hl : PairsLinked s) (ho : s.order = before ++ i :: after)
    (hi : i ∉ before) :
    Skipping s (appliedReport s answers q) (answers.drop 4) (awaiting s ring.answers before)
      ((Run.start (appliedReport s answers q) (answers.drop 4)).skip ring.answers i) := by
  obtain ⟨p, he⟩ := serving_of_report hp
  have hu : s.Beside (appliedReport s answers q) := appliedReport_beside s answers q
  have hlist : (Run.start (appliedReport s answers q) (answers.drop 4)).st.skipped ring.answers i =
      awaiting s ring.answers before := by
    have hst : (Run.start (appliedReport s answers q) (answers.drop 4)).st = appliedReport s answers q := rfl
    rw [hst, State.skipped, hu.order he, hu.entries he, ho, takeWhile_before hi]
    rfl
  have hlinked : PairsLinked (appliedReport s answers q) := by
    unfold PairsLinked
    rw [hu.entries he]
    exact hl
  obtain ⟨hskips, hchain, hnests, hspared⟩ := Run.skips_all hlinked (awaiting s ring.answers before)
    (run := Run.start (appliedReport s answers q) (answers.drop 4)) ((hu.mode he).trans hp.guarded) (.refl _)
    (fun j hj => by
      obtain ⟨-, f, hf, -, ha⟩ := mem_awaiting.1 hj
      exact ⟨f, by rw [hu.entries he]; exact hf, awaits_inFlight ha⟩) rfl
  rw [Run.skip, hlist]
  rw [skipEvents_congr (hu.entries he)] at hskips
  refine ⟨hskips, hchain, fun j hj f hf => hnests j hj f (by rw [hu.entries he]; exact hf), fun k hk => ?_⟩
  rw [hspared k ⟨hk.1, fun j hj f hf => hk.2 j hj f (by rw [← hu.entries he]; exact hf)⟩]
  exact congrArg (fun t => Table.get t k) (hu.entries he)

end Sys2Proof.Machine
end

section
/-! PROOF. Each fitting report with its skips (R120 to R127). -/

namespace Sys2Proof.Machine

open Sys2Proof.Claims

/-! ### The matched entry and its pair are spared -/

theorem named_ring {s : State} {ring : CmdRing} {slot : Nat} {sequence : BitVec 8} {i : Fin 32} {e : Entry}
    (h : s.entryNamed ring slot sequence = some i) (he : s.entries.get i = some e) : e.ring = ring := by
  obtain ⟨e', he', hr, -⟩ := State.entryNamed_some h
  obtain rfl := Option.some.inj (he.symm.trans he')
  exact hr

/-- The rings of the two entries of a pair differ. -/
theorem pair_rings {s : State} (hl : PairsLinked s) {p r : Fin 32} {place present : Entry} {d : Destination} {c : Fin 4}
    (hp : Pair s p r place present d c) : place.ring = .picker ∧ present.ring = .stacker := by
  obtain ⟨hplace, -⟩ := hl p place hp.atPlace
  obtain ⟨hpresent, -⟩ := hl r present hp.atPresent
  rw [hplace, hpresent, hp.kinds.1, hp.kinds.2]
  exact ⟨rfl, rfl⟩

section Sparing

variable {s : State} (hl : PairsLinked s) {ring : CmdRing} {before : List (Fin 32)} {i : Fin 32} {e : Entry}
  (hi : i ∉ before) (he : s.entries.get i = some e) (hr : e.ring = ring)
include hl hi he hr

/-- The matched entry is neither skipped nor the other half of a skipped one. -/
theorem spared_named : Spared s (awaiting s ring before) i := by
  refine ⟨fun h => hi (mem_awaiting.1 h).1, fun j hj f hf hk hpartner => ?_⟩
  obtain ⟨-, f', hf', hfr, ha⟩ := mem_awaiting.1 hj
  obtain rfl := Option.some.inj (hf.symm.trans hf')
  obtain ⟨p, r, place, present, d, c, i', g, hp, hh⟩ := pair_of_linked hl hf (awaits_inFlight ha) hk
  obtain ⟨hplace, hpresent⟩ := pair_rings hl hp
  obtain ⟨⟨rfl, rfl, rfl, rfl⟩ | ⟨rfl, rfl, rfl, rfl⟩⟩ := hh
  · obtain rfl := Option.some.inj (hp.linked.1.symm.trans hpartner)
    obtain rfl := Option.some.inj (hp.atPresent.symm.trans he)
    exact absurd (hplace.symm.trans (hfr.trans (hr.symm.trans hpresent))) nofun
  · obtain rfl := Option.some.inj (hp.linked.2.symm.trans hpartner)
    obtain rfl := Option.some.inj (hp.atPlace.symm.trans he)
    exact absurd (hpresent.symm.trans (hfr.trans (hr.symm.trans hplace))) nofun

omit he in
/-- The other half of the matched entry is spared with it. -/
theorem spared_partner {p r j : Fin 32} {place present f : Entry} {d : Destination} {c : Fin 4}
    (hp : Pair s p r place present d c) (hh : Half p r place present i j e f) :
    Spared s (awaiting s ring before) j := by
  obtain ⟨hplace, hpresent⟩ := pair_rings hl hp
  have hfring : f.ring ≠ ring := by
    rw [← hr]
    obtain ⟨⟨rfl, rfl, rfl, rfl⟩ | ⟨rfl, rfl, rfl, rfl⟩⟩ := hh
    · rw [hplace, hpresent]; exact nofun
    · rw [hplace, hpresent]; exact nofun
  have hj : s.entries.get j = some f := (atHalf hp hh).2
  have hback : f.partner = some i := by
    obtain ⟨⟨rfl, rfl, rfl, rfl⟩ | ⟨rfl, rfl, rfl, rfl⟩⟩ := hh
    · exact hp.linked.2
    · exact hp.linked.1
  refine ⟨fun h => ?_, fun k hk g hg hkind hpartner => ?_⟩
  · obtain ⟨-, f', hf', hfr, -⟩ := mem_awaiting.1 h
    obtain rfl := Option.some.inj (hj.symm.trans hf')
    exact hfring hfr
  · obtain ⟨hkb, g', hg', -, ha⟩ := mem_awaiting.1 hk
    obtain rfl := Option.some.inj (hg.symm.trans hg')
    obtain ⟨p', r', place', present', d', c', i', g', hp', hh'⟩ := pair_of_linked hl hg (awaits_inFlight ha) hkind
    have hki : k = i := by
      obtain ⟨⟨rfl, rfl, rfl, rfl⟩ | ⟨rfl, rfl, rfl, rfl⟩⟩ := hh'
      · obtain rfl := Option.some.inj (hp'.linked.1.symm.trans hpartner)
        obtain rfl := Option.some.inj (hp'.atPresent.symm.trans hj)
        exact Option.some.inj (hp'.linked.2.symm.trans hback)
      · obtain rfl := Option.some.inj (hp'.linked.2.symm.trans hpartner)
        obtain rfl := Option.some.inj (hp'.atPlace.symm.trans hj)
        exact Option.some.inj (hp'.linked.1.symm.trans hback)
    exact hi (hki ▸ hkb)

end Sparing

/-! ### The run of a fitting report -/

theorem fitting_exec {s : State} {ring : RepRing} {tag : Tag} {q : Request} {k : ReportKind}
    {answers : List MemAnswer} (hp : Reported s ring tag q)
    (hrow : reportRow ring q.data answers = k.row answers) (h4 : Answered answers 4) (ha : k ≠ .arrived)
    (hr : k ≠ .removed) {i : Fin 32} {e : Entry}
    (hn : s.entryNamed ring.answers (ringAnswered q.data) (ringSequence q.data) = some i)
    (hentry : s.entries.get i = some e) (hs : e.state = .isOpen ∨ e.state = .half)
    (hm : Meets k e (word1 s answers q))
    (hspan : k = .cutEnd → ∀ span, e.span = some span → cutEndDone (word1 s answers q) ≤ span.count) :
    exec (k.row answers) s = .next ((k.outcome (word1 s answers q) q i e
      ((Run.start (appliedReport s answers q) (answers.drop 4)).skip ring.answers i)).conclude.finishHeld tag .done) := by
  obtain ⟨p, he⟩ := serving_of_report hp
  have hu := appliedReport_beside s answers q
  have hexec := solicited_applied hp (reportKind_of_row hrow) ha hr h4
    (matchReport_fits hp hn hentry hs hm hspan) rfl
  rw [fits_apply hp k.outcome _ (e := e) (r := Run.start (appliedReport s answers q) (answers.drop 4))
    ((congrArg (fun t => Table.get t i) (hu.entries he)).trans hentry), hrow] at hexec
  exact hexec

end Sys2Proof.Machine
end

section
/-! PROOF. A fitting report, or a half of a pair, with the skips of the earlier commands of its ring (R111 to R113,
R120 to R127, R144, R173, R183). -/

namespace Sys2Proof.Machine

open Sys2Proof.Claims

/-! ### What the outcomes leave of the lanes -/

/-- The parts of the state that the end of a CUT, PICK or DISCARD leaves. -/
structure Leaves (y x : State) : Prop where
  lanes    : x.lanes = y.lanes
  stations : x.stations = y.stations
  engine   : x.engine = y.engine

theorem withNest_leaves {y x : State} {n : Nest} {c : NestContext} {i : Fin 32} {cups : Table 4 Cup}
    {flags : BitVec 24} (hx : x = { State.withNest (without y i) n c with
      cups := cups, cache := x.cache, recency := x.recency, walker := x.walker, flags := flags }) : Leaves y x := by
  refine ⟨?_, ?_, ?_⟩
  · rw [hx]; cases n <;> rfl
  · rw [hx]; cases n <;> rfl
  · rw [hx]; cases n <;> rfl

theorem cutEnded_leaves {y x : State} {i : Fin 32} {e : Entry} {span : Span} {l : CacheLine} {w1 : Word}
    (h : CutEnded y x i e span l w1) : Leaves y x := by
  obtain ⟨hx, -⟩ := h
  refine withNest_leaves (i := i) (cups := (State.withNest (without y i) e.board.nest _).cups) hx

theorem pickEnded_leaves {y x : State} {i : Fin 32} {e : Entry} {c : Fin 4} {l : CacheLine} {result : Result}
    (h : PickEnded y x i e c l result) : Leaves y x := by
  obtain ⟨hx, -⟩ := h
  exact withNest_leaves hx

theorem discardEnded_leaves {y x : State} {i : Fin 32} {e : Entry} {c : Fin 4} {l : CacheLine} {result : Result}
    (h : DiscardEnded y x i e c l result) : Leaves y x := by
  obtain ⟨hx, -⟩ := h
  exact withNest_leaves hx

/-! ### Boards that skips have changed -/

/-- A board of a command in flight, after skips, is in the command's state or UNCERTAIN. -/
theorem Skippable.state_ne {h h' : BoardHw} (hs : Skippable h h') {x y : BoardState} (hx : h.state = x)
    (hxy : x ≠ y) (hy : y ≠ .uncertain) : h'.state ≠ y := fun e => by
  rcases hs with ⟨hs, -⟩ | ⟨hs, -⟩
  · exact hxy (hx.symm.trans (hs.symm.trans e))
  · exact hy (e.symm.trans hs)

/-- A placement changes its board, skipped or not. -/
theorem outcome_changes {out : Outcome} {d : Destination} {h h' : BoardHw} (hs : Skippable h h')
    (hp : h.state = .placing) : out.board d h' ≠ h' := fun heq => by
  rcases hs with ⟨hs, -⟩ | ⟨hs, hc⟩
  · exact outcome_changes_placing (hs.trans hp) heq
  · have hstate := (congrArg BoardHw.state heq).trans hs
    have hcause := (congrArg BoardHw.lastCause heq).trans hc
    cases out with
    | stacked slot b => exact absurd hstate nofun
    | stationChanged => exact absurd hcause nofun
    | collision => exact absurd hcause nofun
    | aborted => exact absurd hstate nofun
    | dropped => exact absurd hstate nofun

/-! ### The reports of one entry -/

section Fitting

variable {s : State} {ring : RepRing} {tag : Tag} {q : Request} {answers : List MemAnswer} {i : Fin 32} {e : Entry}
  {l : CacheLine} {before after : List (Fin 32)} (hp : Reported s ring tag q) (h4 : Answered answers 4)
  (hl : PairsLinked s) (hset : LanesSettled s)
  (hn : s.entryNamed ring.answers (ringAnswered q.data) (ringSequence q.data) = some i)
  (he : s.entries.get i = some e) (ho : s.order = before ++ i :: after) (hi : i ∉ before)

include hp hl hn he ho hi

/-- The run of a fitting report once its skips are made. -/
theorem skipped_run :
    ∃ run, run = (Run.start (appliedReport s answers q) (answers.drop 4)).skip ring.answers i ∧
      Skipping s (appliedReport s answers q) (answers.drop 4) (awaiting s ring.answers before) run ∧
      run.st.mode = .guarded ∧ (∃ p, run.st.engine = .serving p) ∧ run.st.entries.get i = some e ∧
      Aged (appliedReport s answers q) run.st := by
  obtain ⟨p, hp'⟩ := serving_of_report hp
  have hu : s.Beside (appliedReport s answers q) := appliedReport_beside s answers q
  have hk := skipping_start (answers := answers) hp hl ho hi
  refine ⟨_, rfl, hk, ?_, ⟨p, ?_⟩, ?_, hk.skips.aged⟩
  · exact hk.skips.shows.mode.trans ((hu.mode hp').trans hp.guarded)
  · exact hk.skips.aged.engine.trans (hu.engine hp')
  · exact (hk.spared i (spared_named hl hi he (named_ring hn he))).trans he

include h4 hset in
/-- A report of one entry, by its outcome (R121 to R124). -/
theorem single_does {k : ReportKind} (hrow : reportRow ring q.data answers = k.row answers) (ha : k ≠ .arrived)
    (hr : k ≠ .removed) (hs : e.state = .isOpen) (hm : Meets k e (word1 s answers q))
    (hspan : k = .cutEnd → ∀ span, e.span = some span → cutEndDone (word1 s answers q) ≤ span.count)
    (hl' : (appliedReport s answers q).cached e.board = some l)
    {ended : State → State → CacheLine → Prop} (hleaves : ∀ y x m, ended y x m → Leaves y x)
    (hshows : ∀ run : Run, run.Shows (k.outcome (word1 s answers q) q i e run))
    (hout : ∀ (run : Run) (m : CacheLine), run.st.mode = .guarded → run.st.entries.get i = some e →
      run.st.cached e.board = some m → Skippable l.words.hw m.words.hw →
      ∃ x more, (k.outcome (word1 s answers q) q i e run).Made x (run.images ++ more) ∧ ended run.st x m ∧
        .entry i ∈ more ∧ run.Removes (k.outcome (word1 s answers q) q i e run) []) :
    SkipsAndDoes s (appliedReport s answers q) tag (reportRow ring q.data answers)
      (awaiting s ring.answers before)
      fun y z => ∃ x m, y.cached e.board = some m ∧ ended y x m ∧ Resettled x z := by
  obtain ⟨p, hp'⟩ := serving_of_report hp
  have hu : s.Beside (appliedReport s answers q) := appliedReport_beside s answers q
  have hexec := fitting_exec hp hrow h4 ha hr hn he (.inl hs) hm hspan
  obtain ⟨run, hrun, hk, hmode, ⟨p', heng⟩, hentry, haged⟩ := skipped_run (answers := answers) hp hl hn he ho hi
  rw [← hrun, ← hrow] at hexec
  obtain ⟨m, hcached, hskip⟩ := haged.boards e.board l hl'
  obtain ⟨x, more, hmade, hended, hin, hremoves⟩ := hout run m hmode hentry hcached hskip
  have hleft := hleaves _ _ _ hended
  exact hk.settles hexec (beside_shown hu hp') ((hu.mode hp').trans hp.guarded) hset (hshows run) hmade
    (hleft.engine.trans heng) hremoves hleft.lanes hleft.stations
    (List.ne_nil_of_mem (List.mem_append_right _ hin)) fun z hz => ⟨x, m, hcached, hended, hz⟩

include h4 hset in
theorem cut_does (hs : e.state = .isOpen) (hl' : (appliedReport s answers q).cached e.board = some l) {span : Span}
    (hrow : reportRow ring q.data answers = .cutEnd answers) (hkind : e.kind = .cut) (hspan : e.span = some span)
    (hdone : cutEndDone (word1 s answers q) ≤ span.count) (hcut : l.words.hw.state = .cutting) :
    SkipsAndDoes s (appliedReport s answers q) tag (reportRow ring q.data answers)
      (awaiting s ring.answers before)
      fun y z => ∃ x m, y.cached e.board = some m ∧ CutEnded y x i e span m (word1 s answers q) ∧ Resettled x z := by
  have hmeets : Meets .cutEnd e (word1 s answers q) :=
    ⟨by rw [hkind]; rfl, fun ⟨hh, _⟩ => absurd (hs.symm.trans hh) nofun, nofun, fun ⟨hk, _⟩ => by simp at hk⟩
  refine single_does hp h4 hl hset hn he ho hi (k := .cutEnd) hrow nofun nofun hs hmeets (fun _ span' hspan' => ?_) hl'
    (ended := fun y x m => CutEnded y x i e span m (word1 s answers q)) (fun y x m h => cutEnded_leaves h)
    (fun run => .cutOutcome _ q i e run) fun run m hmode hentry hcached hskip => ?_
  · obtain rfl := Option.some.inj (hspan.symm.trans hspan')
    exact hdone
  · obtain ⟨x, more, hm, hx, hin, -, hr⟩ := (Run.Made.self hmode).cutOutcome hentry hkind hspan hcached
      ⟨hskip.state_ne hcut nofun nofun, hskip.state_ne hcut nofun nofun, hskip.state_ne hcut nofun nofun⟩
      (word1 s answers q) q
    exact ⟨x, more, hm, hx, hin, hr⟩

include h4 hset in
theorem pick_does (hs : e.state = .isOpen) (hl' : (appliedReport s answers q).cached e.board = some l) {c : Fin 4}
    (hrow : reportRow ring q.data answers = .pickEnd answers) (hkind : e.kind = .pick) (hcup : e.cup = some c)
    (hres : reportResult (word1 s answers q) ≠ .abort) (hpick : l.words.hw.state = .picking) :
    SkipsAndDoes s (appliedReport s answers q) tag (reportRow ring q.data answers)
      (awaiting s ring.answers before)
      fun y z => ∃ x m, y.cached e.board = some m ∧
        PickEnded y x i e c m (reportResult (word1 s answers q)) ∧ Resettled x z := by
  have hmeets : Meets .pickEnd e (word1 s answers q) :=
    ⟨by rw [hkind]; rfl, fun ⟨hh, _⟩ => absurd (hs.symm.trans hh) nofun, fun ⟨_, hr⟩ => hres hr,
      fun ⟨hk, _⟩ => by simp at hk⟩
  refine single_does hp h4 hl hset hn he ho hi (k := .pickEnd) hrow nofun nofun hs hmeets nofun hl'
    (ended := fun y x m => PickEnded y x i e c m (reportResult (word1 s answers q)))
    (fun y x m h => pickEnded_leaves h) (fun run => .pickOutcome _ q i e run) fun run m hmode hentry hcached hskip => ?_
  obtain ⟨x, more, hm, hx, hin, -, hr⟩ := (Run.Made.self hmode).pickOutcome hentry hkind hcup hcached
    ⟨hskip.state_ne hpick nofun nofun, hskip.state_ne hpick nofun nofun, hskip.state_ne hpick nofun nofun⟩
    (word1 s answers q) q
  exact ⟨x, more, hm, hx, hin, hr⟩

include h4 hset in
theorem discard_does (hs : e.state = .isOpen) (hl' : (appliedReport s answers q).cached e.board = some l) {c : Fin 4}
    (hrow : reportRow ring q.data answers = .discardEnd answers) (hkind : e.kind = .discard) (hcup : e.cup = some c)
    (hres : reportResult (word1 s answers q) ≠ .fail) (hdiscard : l.words.hw.state = .discarding) :
    SkipsAndDoes s (appliedReport s answers q) tag (reportRow ring q.data answers)
      (awaiting s ring.answers before)
      fun y z => ∃ x m, y.cached e.board = some m ∧
        DiscardEnded y x i e c m (reportResult (word1 s answers q)) ∧ Resettled x z := by
  have hmeets : Meets .discardEnd e (word1 s answers q) :=
    ⟨by rw [hkind]; rfl, fun ⟨hh, _⟩ => absurd (hs.symm.trans hh) nofun, nofun, fun ⟨_, hr⟩ => hres hr⟩
  refine single_does hp h4 hl hset hn he ho hi (k := .discardEnd) hrow nofun nofun hs hmeets nofun hl'
    (ended := fun y x m => DiscardEnded y x i e c m (reportResult (word1 s answers q)))
    (fun y x m h => discardEnded_leaves h) (fun run => .discardOutcome _ q i e run)
    fun run m hmode hentry hcached hskip => ?_
  obtain ⟨x, more, hm, hx, hin, -, hr⟩ := (Run.Made.self hmode).discardOutcome hentry hkind hcup hcached
    ⟨hskip.state_ne hdiscard nofun nofun, hskip.state_ne hdiscard nofun nofun, hskip.state_ne hdiscard nofun nofun⟩
    hres q
  exact ⟨x, more, hm, hx, hin, hr⟩

/-! ### The reports of a pair -/

omit hp ho in
/-- The pair of the matched entry stands after the skips. -/
theorem skipped_pair {run : Run}
    (hk : Skipping s (appliedReport s answers q) (answers.drop 4) (awaiting s ring.answers before) run)
    {p r j : Fin 32} {place present f : Entry} {d : Destination} {c : Fin 4} (hpair : Pair s p r place present d c)
    (hh : Half p r place present i j e f) : Pair run.st p r place present d c := by
  have hone := (hk.spared i (spared_named hl hi he (named_ring hn he))).trans he
  have hother := (hk.spared j (spared_partner hl hi (named_ring hn he) hpair hh)).trans (atHalf hpair hh).2
  obtain ⟨⟨rfl, rfl, rfl, rfl⟩ | ⟨rfl, rfl, rfl, rfl⟩⟩ := hh
  · exact ⟨hpair.distinct, hone, hother, hpair.kinds, hpair.board, hpair.linked, hpair.dest, hpair.cup⟩
  · exact ⟨hpair.distinct, hother, hone, hpair.kinds, hpair.board, hpair.linked, hpair.dest, hpair.cup⟩

include h4 hset in
/-- The first report of a pair, with skips (R125). -/
theorem half_does {k : ReportKind} (hrow : reportRow ring q.data answers = k.row answers) (ha : k ≠ .arrived)
    (hr : k ≠ .removed) (hcut : k ≠ .cutEnd) (hs : e.state = .isOpen) (hm : Meets k e (word1 s answers q))
    {p r j : Fin 32} {place present f : Entry} {d : Destination} {c : Fin 4} {layout : RingLayout}
    {payload : StoredPayload} (hpair : Pair s p r place present d c) (hh : Half p r place present i j e f)
    (hrings : s.rings = some layout) (hout : k.outcome (word1 s answers q) = pairOutcome payload) :
    SkipsAndDoes s (appliedReport s answers q) tag (reportRow ring q.data answers)
      (awaiting s ring.answers before)
      fun y z => Resettled (halved y i j e f ⟨payload, ((layout.report ring).slotOf q.addr.toNat).getD 0,
        (appliedReport s answers q).time⟩) z := by
  obtain ⟨p0, hp'⟩ := serving_of_report hp
  have hu : s.Beside (appliedReport s answers q) := appliedReport_beside s answers q
  have hexec := fitting_exec hp hrow h4 ha hr hn he (.inl hs) hm fun hk => absurd hk hcut
  obtain ⟨run, hrun, hk, hmode, ⟨p', heng⟩, hentry, haged⟩ := skipped_run (answers := answers) hp hl hn he ho hi
  have hslot : run.st.reportSlot q = ((layout.report ring).slotOf q.addr.toNat).getD 0 :=
    reportSlot_eq hp (haged.rings.trans ((hu.rings hp').trans hrings))
  rw [← hrun, ← hrow, hout, pairOutcome_open hs, hslot] at hexec
  obtain ⟨hmade, hspares⟩ := (Run.Made.self hmode).storeReport (i := i)
    (partnerOf_pair (skipped_pair hl hn he hi hk hpair hh) hh) payload
    (((layout.report ring).slotOf q.addr.toNat).getD 0)
  rw [haged.time] at hmade
  have hremoves : run.Removes (run.storeReport i e payload (((layout.report ring).slotOf q.addr.toNat).getD 0)) [] :=
    ⟨hspares.rest.answers, hspares.rest.empties.trans (List.append_nil _).symm, hspares.rest.events, hspares.lanes⟩
  exact hk.settles hexec (beside_shown hu hp') ((hu.mode hp').trans hp.guarded) hset (.storeReport run i e payload _)
    hmade heng hremoves rfl rfl (by simp) fun z hz => hz

include h4 in
/-- The second report of a pair, with skips (R125 to R127). -/
theorem resolve_does {k : ReportKind} (hrow : reportRow ring q.data answers = k.row answers) (ha : k ≠ .arrived)
    (hr : k ≠ .removed) (hcut : k ≠ .cutEnd) (hs : e.state = .half) (hm : Meets k e (word1 s answers q))
    {p r j : Fin 32} {place present f : Entry} {d : Destination} {c : Fin 4} {result : Result} {o : Observation}
    (hpair : Pair s p r place present d c) (hh : Half p r place present i j e f)
    (hl' : (appliedReport s answers q).cached place.board = some l) (hplacing : l.words.hw.state = .placing)
    (hout : ∀ run : Run, Pair run.st p r place present d c → k.outcome (word1 s answers q) q i e run =
      run.resolvePair i j place.board (some c) d result o) :
    SkipsAndDoes s (appliedReport s answers q) tag (reportRow ring q.data answers)
      (awaiting s ring.answers before)
      fun y z => ∃ x m, y.cached place.board = some m ∧ PairResolved y x p r place d c m result o ∧
        z = emptied x (answers.drop 4) (emptyMark s present) := by
  obtain ⟨p0, hp'⟩ := serving_of_report hp
  have hu : s.Beside (appliedReport s answers q) := appliedReport_beside s answers q
  have hexec := fitting_exec hp hrow h4 ha hr hn he (.inr hs) hm fun hk => absurd hk hcut
  obtain ⟨run, hrun, hk, hmode, ⟨p', heng⟩, hentry, haged⟩ := skipped_run (answers := answers) hp hl hn he ho hi
  have hpair' := skipped_pair hl hn he hi hk hpair hh
  obtain ⟨m, hcached, hskip⟩ := haged.boards place.board l hl'
  rw [← hrun, ← hrow, hout run hpair'] at hexec
  obtain ⟨x, more, hmade, hx, hpin, -, -, -, hmarks, hlanes⟩ := (Run.Made.self hmode).resolvePair hpair' hh hcached
    result o (outcome_changes hskip hplacing)
  have hring : x.stackerRing = s.stackerRing := by
    have hxr : x.stackerRing = run.st.stackerRing := by rw [hx.shape]; rfl
    rw [hxr, State.stackerRing, haged.rings, hu.rings hp']
    rfl
  have heng' : x.engine = .serving p' := by rw [hx.shape]; exact heng
  exact hk.resolves hexec (beside_shown hu hp') ((hu.mode hp').trans hp.guarded) (.resolvePair run i j _ _ d result o)
    hmade heng' hmarks hlanes hring (List.ne_nil_of_mem (List.mem_append_right _ hpin))
    fun z more hz hget => ⟨z, m, hcached, resolving_settles hx rfl hz hget, rfl⟩

end Fitting

/-- Settles O38. -/
theorem fittingReportSkipsEarlierEntries : Obligations.FittingReportSkipsEarlierEntries := by
  unfold Obligations.FittingReportSkipsEarlierEntries
  intro s tag q ring answers i e l before after hp h4 hl hset hn he ho hi w1 result u row skipped report
  refine ⟨fun hl' hs => ⟨fun span hrow hkind hspan hdone hcut => ?_, fun c hrow hkind hcup hres hpick => ?_,
    fun c hrow hkind hcup hres hdiscard => ?_⟩, fun p r place present d c hpair => ⟨?_, ?_⟩⟩
  · exact cut_does hp h4 hl hset hn he ho hi hs hl' hrow hkind hspan hdone hcut
  · exact pick_does hp h4 hl hset hn he ho hi hs hl' hrow hkind hcup hres hpick
  · exact discard_does hp h4 hl hset hn he ho hi hs hl' hrow hkind hcup hres hdiscard
  · intro layout slot hplace hpresent hstored hstored' hrings hslot
    subst hslot
    refine ⟨fun hrow hip hres => ?_, fun hrow hir => ?_⟩
    · subst hip
      obtain rfl := Option.some.inj (hpair.atPlace.symm.trans he)
      exact half_does hp h4 hl hset hn he ho hi (k := .placeEnd) hrow nofun nofun nofun hplace
        ⟨by rw [hpair.kinds.1]; rfl, fun hh => absurd (hplace.symm.trans hh.1) nofun, nofun, fun hh => hres hh.2⟩ hpair
        ⟨.inl ⟨rfl, rfl, rfl, rfl⟩⟩ hrings rfl
    · subst hir
      obtain rfl := Option.some.inj (hpair.atPresent.symm.trans he)
      exact half_does hp h4 hl hset hn he ho hi (k := .presentEnd) hrow nofun nofun nofun hpresent
        ⟨by rw [hpair.kinds.2]; rfl, fun hh => absurd (hpresent.symm.trans hh.1) nofun, nofun,
          fun hh => by simp at hh⟩ hpair ⟨.inr ⟨rfl, rfl, rfl, rfl⟩⟩ hrings rfl
  · intro final o hl' hplacing hplace hpresent hres hcase
    rcases hcase with ⟨hrow, hip, hnone, hfinal, k, tm, hstored⟩ | ⟨hrow, hir, hnone, ho', k, tm, hstored⟩
    · subst hip hfinal
      obtain rfl := Option.some.inj (hpair.atPlace.symm.trans he)
      exact resolve_does hp h4 hl hn he ho hi (k := .placeEnd) hrow nofun nofun nofun hplace
        ⟨by rw [hpair.kinds.1]; rfl, fun hh => hh.2 hnone, nofun, fun hh => hres hh.2⟩ hpair
        ⟨.inl ⟨rfl, rfl, rfl, rfl⟩⟩ hl' hplacing fun run hp' => pairOutcome_place rfl hp' hplace hstored q
    · subst hir ho'
      obtain rfl := Option.some.inj (hpair.atPresent.symm.trans he)
      exact resolve_does hp h4 hl hn he ho hi (k := .presentEnd) hrow nofun nofun nofun hpresent
        ⟨by rw [hpair.kinds.2]; rfl, fun hh => hh.2 hnone, nofun, fun hh => by simp at hh⟩ hpair
        ⟨.inr ⟨rfl, rfl, rfl, rfl⟩⟩ hl' hplacing fun run hp' => pairOutcome_present rfl hp' hpresent hstored q

end Sys2Proof.Machine
end

section
/-! PROOF. Posts that pass their checks, and TRIAL posts (R100, R102, R159, R160). -/

namespace Sys2Proof.Machine

open Sys2Proof.Claims

/-! ### Writes of the Engine -/

theorem State.wroteAll_beats (s : State) (answers : List MemAnswer) (ws : List (Nat × Word)) :
    s.Beats (s.wroteAll answers ws) := by
  induction ws generalizing s answers with
  | nil => exact .refl s
  | cons w ws ih => exact ((s.await_beats _).trans (.of_aside (t := s.wrote answers w) rfl)).trans (ih _ _)

/-- Writes of the Engine leave what it judges by. -/
theorem undisturbed_wroteAll {s : State} {p : Fin 18} (he : s.engine = .serving p) (answers : List MemAnswer)
    (ws : List (Nat × Word)) : Undisturbed s (s.wroteAll answers ws) :=
  undisturbed_of_beats (s.wroteAll_beside answers ws) (s.wroteAll_beats answers ws) he

/-! ### A judgement that passes -/

theorem fetch_beside {α : Type} {b : BoardRef} {refs : Refs} {judge : CacheLine → Run → Judged α × Run}
    (h : ∀ l r, (judge l r).2 = r) (r : Run) : r.st.Beside (fetch b refs judge r).2.st := by
  have hl := r.lookup_beside b
  unfold fetch
  split
  · next l r' hr =>
    rw [h, ← show (r.lookup b).2 = r' by rw [hr]]
    exact hl
  · next r' hr =>
    rw [← show (r.lookup b).2 = r' by rw [hr]]
    exact hl
  · next r' hr =>
    rw [← show (r.lookup b).2 = r' by rw [hr]]
    exact hl

theorem withCup_beside {α : Type} {w1 : Word} {judge : Fin 4 → CacheLine → Run → Judged α × Run}
    (h : ∀ c l r, (judge c l r).2 = r) (r : Run) : r.st.Beside (withCup w1 judge r).2.st := by
  unfold withCup
  split
  · exact .refl r.st
  · split
    · exact .refl r.st
    · exact .refl r.st
    · exact fetch_beside (h _) r

/-- A judgement of a physical kind changes nothing but what its lookup does (R44). -/
theorem Physical.judge_beside (kind : Physical) (w1 : Word) (r : Run) : r.st.Beside (kind.judge w1 r).2.st := by
  cases kind with
  | cut =>
    show r.st.Beside (judgeCut w1 r).2.st
    unfold judgeCut
    split
    · exact .refl r.st
    · refine fetch_beside (fun l r => ?_) r
      split
      · rfl
      · split <;> rfl
  | pick =>
    show r.st.Beside (judgePick w1 r).2.st
    unfold judgePick
    split
    · exact .refl r.st
    · refine fetch_beside (fun l r => ?_) r
      split <;> rfl
  | place => exact withCup_beside (fun _ _ _ => rfl) r
  | discard => exact withCup_beside (fun _ _ _ => rfl) r

/-- A post of a physical kind that passes its checks goes on to what it is granted. -/
theorem physical_granted {s v : State} {ring : CmdRing} {tag : Tag} {q : Request} {kind : Physical} {c : Instr}
    {answers rest : List MemAnswer} {x : kind.Plan} (hp : Posted s ring tag q)
    (hk : physicalKind ring (ringKind q.data) = some kind) (hrow : postRow ring q.data answers = some c)
    (ha : Answered answers 3)
    (hj : kind.judge (word1 s answers q) (Run.start (s.waited answers 3) (answers.drop 3)) =
      (.pass x, Run.start v rest)) :
    exec c s = .next (Served ((if ringTrial q.data = true then kind.tried ring else kind.grant) q x
      (Run.start v rest)) tag) := by
  obtain ⟨p, he⟩ := serving_of_held hp.inHand
  obtain ⟨hfits, -⟩ := serves_post hp.inHand hp.cls
    (by rcases physicalKind_ring hk with ⟨rfl, -⟩ | ⟨rfl, -⟩ <;> decide) hrow
  have hx := serves_physical hp.inHand hp.cls hk hrow
  unfold Serves Physical.serve at hx
  rw [servePost_judged he ha (posted_postChecks hp hfits), hj] at hx
  exact hx

/-- A post of a service kind with the TRIAL flag that passes its checks. -/
theorem service_tried {s v : State} {tag : Tag} {q : Request} {kind : ServiceKind} {c : Instr}
    {answers rest : List MemAnswer} {x : kind.Plan} (hp : Posted s .service tag q) (ht : ringTrial q.data = true)
    (hk : serviceKind (ringKind q.data) = some kind) (hrow : postRow .service q.data answers = some c)
    (ha : Answered answers 3)
    (hj : kind.judge (word1 s answers q) (Run.start (s.waited answers 3) (answers.drop 3)) =
      (.pass x, Run.start v rest)) :
    exec c s = .next (Served (grantTrial .service [] none q (Run.start v rest)) tag) := by
  obtain ⟨p, he⟩ := serving_of_held hp.inHand
  have hx := serves_service hp.inHand hp.cls hk hrow
  unfold Serves ServiceKind.serve at hx
  rw [servePost_judged he ha (posted_postChecks hp (by simp [kindFits, hk])), hj, if_pos ht] at hx
  exact hx

/-! ### TRIAL -/

/-- What a passing TRIAL does that makes some writes (R100, R102, R159, R160). -/
theorem trial_ends {s v : State} {ring : CmdRing} {tag : Tag} {q : Request} {c : Instr} {rest : List MemAnswer}
    (hp : Posted s ring tag q) (hb : s.Beside v) (writes : List (Nat × Word))
    (hx : exec c s = .next (Served ((Run.start v rest).writing writes fun r => (.done, r.advance ring)) tag)) :
    OnlyBeside s v ∧
      (Answered rest writes.length → Undisturbed v (v.wroteAll rest writes) ∧ ∃ t, exec c s = .next t ∧
        Ends { v.wroteAll rest writes with cursors := advanced s ring } t tag .done [.status]) ∧
      (∀ k, k < writes.length → Answered rest k → ¬Answered rest (k + 1) →
        ∃ t, exec c s = .next t ∧ Abandoned (brokenOff v rest writes k) t tag) := by
  obtain ⟨p, he⟩ := serving_of_held hp.inHand
  have hve := hb.engine he
  have hg : v.mode = .guarded := (hb.mode he).trans hp.guarded
  refine ⟨onlyBeside_of_beside hb he, fun ha => ⟨undisturbed_wroteAll hve rest writes, _, hx, ?_⟩,
    fun k hk hdone hno => ⟨_, hx, writing_abandoned hg hve hk hdone hno _ tag⟩⟩
  rw [Run.writing_done (r := Run.start v rest) ha]
  have hw := hb.trans (v.wroteAll_beside rest writes)
  have hm : (Run.start (v.wroteAll rest writes) (rest.drop writes.length)).Made (v.wroteAll rest writes) [] :=
    .started ((hw.mode he).trans hp.guarded) _
  have hfree : (Run.start (v.wroteAll rest writes) (rest.drop writes.length)).Free := .start _ _
  exact (hm.advance hp (hw.cursors he) (hw.rings he)).ends (hfree.advance ring) (by simp) tag .done

/-- A RESOLVE whose target fits the part's account passes the checks of that target (R162). -/
theorem judgeTarget_resolves {v : State} {b : BoardRef} {l : CacheLine} {w1 : Word} {r : Resolution}
    (h : Resolves v b l w1 r) :
    ∃ target : BoardState, target.target = true ∧ cmdTarget w1 = target.code ∧ judgeTarget b target w1 l v = .pass r := by
  cases r with
  | derived target mask =>
    obtain ⟨ht, hcode, rfl, hmask, hstate⟩ := h
    refine ⟨target, by rcases ht with rfl | rfl | rfl <;> rfl, hcode, ?_⟩
    rw [judgeTarget_derived ht, if_pos (by simp [maskWithin, hmask, hstate])]
  | held c =>
    obtain ⟨hcode, hcup, htakes⟩ := h
    refine ⟨.held, rfl, hcode, ?_⟩
    show judgeHeld b w1 v = _
    rw [judgeHeld_cup hcup, if_pos ((Cup.takes_iff _ _).2 htakes)]
  | stacked i slot serial =>
    obtain ⟨hcode, hstation, rfl, m, hm, rfl, hslot⟩ := h
    refine ⟨.stacked, rfl, hcode, ?_⟩
    show judgeStacked b w1 v = _
    unfold judgeStacked
    rw [asFin_val hstation]
    rcases hslot with hslot | hslot
    · simp only [hm, hslot]; rfl
    · simp only [hm, hslot]; rfl
  | scrapped => exact ⟨.scrapped, rfl, h, rfl⟩
  | lost => exact ⟨.lost, rfl, h, rfl⟩

/-- Which plan a physical post passes with. -/
theorem physicalPasses_some {kind : Physical} {w1 : Word} {r r' : Run} {sel : Option Selection}
    (h : physicalPasses kind w1 r = some (sel, r')) :
    ∃ x : kind.Plan, kind.judge w1 r = (.pass x, r') ∧
      ∀ ring code, physicalKind ring code = some kind → ∀ q, kind.tried ring q x = fun r => grantTrial ring (match sel with
        | some x => [(q.word 2, placeTranslation x.station x.slot (r.st.cursor .stacker))]
        | none => []) (sel.map fun x => (x.station, x.slot)) q r := by
  cases kind with
  | cut =>
    simp only [physicalPasses] at h
    split at h
    · next x r0 hj =>
      obtain ⟨rfl, rfl⟩ := Prod.mk.inj (Option.some.inj h)
      exact ⟨x, hj, fun _ _ _ _ => rfl⟩
    · cases h
  | pick =>
    simp only [physicalPasses] at h
    split at h
    · next x r0 hj =>
      obtain ⟨rfl, rfl⟩ := Prod.mk.inj (Option.some.inj h)
      exact ⟨x, hj, fun _ _ _ _ => rfl⟩
    · cases h
  | place =>
    simp only [physicalPasses] at h
    split at h
    · next x r0 hj =>
      obtain ⟨rfl, rfl⟩ := Prod.mk.inj (Option.some.inj h)
      refine ⟨x, hj, fun ring code hk q => ?_⟩
      rcases physicalKind_ring hk with ⟨-, hk⟩ | ⟨rfl, -⟩
      · cases hk
      · rfl
    · cases h
  | discard =>
    simp only [physicalPasses] at h
    split at h
    · next x r0 hj =>
      obtain ⟨rfl, rfl⟩ := Prod.mk.inj (Option.some.inj h)
      exact ⟨x, hj, fun _ _ _ _ => rfl⟩
    · cases h

/-- Settles O24. -/
theorem trialIsTriedAndChangesNothing : Obligations.TrialIsTriedAndChangesNothing := by
  unfold Obligations.TrialIsTriedAndChangesNothing
  intro s v tag q ring answers rest ht ha hp w1 tried
  obtain ⟨p, he⟩ := serving_of_held hp.inHand
  have hwaited := s.waited_beside answers 3
  refine ⟨fun kind sel hrow hk hpass => ?_, fun kind hring hrow hk hpass hv hrest => ?_,
    fun b l r hring hrow hk hlooks hfetch hstate hres => ?_⟩
  · obtain ⟨x, hj, htried⟩ := physicalPasses_some hpass
    have hb : s.Beside v := by
      have hjb := kind.judge_beside w1 (Run.start (s.waited answers 3) (answers.drop 3))
      rw [hj] at hjb
      exact hwaited.trans hjb
    have hx := physical_granted hp hk hrow ha hj
    rw [if_pos ht, htried ring _ hk] at hx
    have hcursor : v.cursor .stacker = s.cursor .stacker := by rw [State.cursor, hb.cursors he]; rfl
    refine trial_ends hp hb _ ?_
    rw [← hcursor]
    exact hx
  · subst hring hv hrest
    obtain ⟨x, hj⟩ := ServiceKind.judge_passes hpass (answers.drop 3)
    exact trial_ends hp hwaited _ (service_tried hp ht hk hrow ha hj)
  · subst hring
    obtain ⟨target, ht', hcode, hj⟩ := judgeTarget_resolves hres
    exact trial_ends hp (hwaited.trans (fetched_beside hfetch)) _ (service_tried (kind := .resolve) hp ht hk hrow ha
      (judgeResolve_pass (hwaited.resolveLooksUp he hlooks) hfetch hstate ht' hcode hj))

end Sys2Proof.Machine
end

section
/-! PROOF. What every admitted physical command shares: its writes, its entry, its board and its nest (R83, R85, R89,
R102, R106, R110). -/

namespace Sys2Proof.Machine

open Sys2Proof.Claims

/-! ### The rows of the physical kinds -/

/-- The row of a physical kind without the TRIAL flag. -/
def Physical.row (kind : Physical) (answers : List MemAnswer) : Instr :=
  match kind with
  | .cut => .cut answers
  | .pick => .pick answers
  | .place => .place answers
  | .discard => .discard answers

/-- The physical kind of a row. -/
def Physical.ofRow : Instr → Option Physical
  | .cut _ => some .cut
  | .pick _ => some .pick
  | .place _ => some .place
  | .discard _ => some .discard
  | _ => none

theorem Physical.ofRow_row (kind : Physical) (answers : List MemAnswer) :
    Physical.ofRow (kind.row answers) = some kind := by cases kind <;> rfl

theorem physicalKind_of_row {ring : CmdRing} {data : Word} {answers : List MemAnswer} {kind : Physical}
    (hr : ring ≠ .service) (h : postRow ring data answers = some (kind.row answers)) :
    physicalKind ring (ringKind data) = some kind ∧ ringTrial data = false := by
  cases hk : physicalKind ring (ringKind data) with
  | none => rw [postRow_physical_none hr hk] at h; cases h
  | some kind' =>
    rw [postRow_physical hk] at h
    have ho := congrArg Physical.ofRow (Option.some.inj h)
    rw [Physical.ofRow_row] at ho
    cases ht : ringTrial data with
    | true => rw [ht, if_pos rfl] at ho; cases ho
    | false =>
      rw [ht, if_neg nofun] at ho
      exact ⟨by cases kind' <;> exact ho, rfl⟩

/-! ### The writes of an admitted command -/

section Admitted

variable {s v : State} {ring : CmdRing} {tag : Tag} {q : Request} {kind : Physical} {answers rest : List MemAnswer}
  {x : kind.Plan} {writes : List (Nat × Word)} {effect : Run → Run}
  (hp : Posted s ring tag q) (hr : ring ≠ .service) (hrow : postRow ring q.data answers = some (kind.row answers))
  (ha : Answered answers 3)
  (hj : kind.judge (word1 s answers q) (Run.start (s.waited answers 3) (answers.drop 3)) =
    (.pass x, Run.start v rest))
  (hg : kind.grant q x (Run.start v rest) = (Run.start v rest).writing writes fun r => (.done, effect r))
include hp hr hrow ha hj hg

theorem admitted_exec : s.Beside v ∧
    exec (kind.row answers) s = .next (Served ((Run.start v rest).writing writes fun r => (.done, effect r)) tag) := by
  obtain ⟨p, he⟩ := serving_of_held hp.inHand
  obtain ⟨hk, ht⟩ := physicalKind_of_row hr hrow
  have hb := kind.judge_beside (word1 s answers q) (Run.start (s.waited answers 3) (answers.drop 3))
  rw [hj] at hb
  have hx := physical_granted hp hk hrow ha hj
  rw [ht, if_neg nofun, hg] at hx
  exact ⟨(s.waited_beside answers 3).trans hb, hx⟩

/-- A HARD to one of its writes abandons the command (R102). -/
theorem admitted_breaks (k : Nat) (hk : k < writes.length) (hdone : Answered rest k) (hno : ¬Answered rest (k + 1)) :
    ∃ t, exec (kind.row answers) s = .next t ∧ Abandoned (brokenOff v rest writes k) t tag := by
  obtain ⟨p, he⟩ := serving_of_held hp.inHand
  obtain ⟨hb, hx⟩ := admitted_exec hp hr hrow ha hj hg
  exact ⟨_, hx, writing_abandoned ((hb.mode he).trans hp.guarded) (hb.engine he) hk hdone hno _ tag⟩

/-- Once its writes are made, the command takes effect. -/
theorem admitted_done (hdone : Answered rest writes.length) :
    exec (kind.row answers) s = .next ((effect (Run.start (v.wroteAll rest writes)
      (rest.drop writes.length))).conclude.finishHeld tag .done) ∧
      s.Beside v ∧ s.Beside (v.wroteAll rest writes) := by
  obtain ⟨hb, hx⟩ := admitted_exec hp hr hrow ha hj hg
  rw [Run.writing_done (r := Run.start v rest) hdone] at hx
  exact ⟨hx, hb, hb.trans (v.wroteAll_beside rest writes)⟩

end Admitted

/-! ### The entry -/

/-- An entry has opened (R85, R106, R110). -/
def State.opened (u : State) (i : Fin 32) (e : Entry) (limit : Nat) : State :=
  { u with
    entries := u.entries.set i (some { e with
      expiry := if limit = 0 then none else some (e.admitted + BitVec.ofNat 32 limit) })
    order := u.order ++ [i]
    due := if limit ≠ 0 ∧ limit ≤ (u.time - e.admitted).toNat then u.due ++ [i] else u.due }

theorem Run.Made.openEntry {r : Run} {u : State} {ids : List ImageId} (h : r.Made u ids) (i : Fin 32) (e : Entry)
    (limit : Nat) : (r.openEntry i e limit).Made (u.opened i e limit) (ids ++ [.entry i]) := by
  have hm := (h.modify (f := fun s => { s with
    order := s.order ++ [i]
    due := if dueAtOpening e.admitted s.time limit then s.due ++ [i] else s.due }) h.guarded).setEntry i
      (some { e with expiry := expiryTime e.admitted limit })
  refine hm.at_state ?_
  simp only [dueAtOpening, expiryTime, Bool.and_eq_true, bne_iff_ne, decide_eq_true_eq]
  rfl

theorem Run.Spares.openEntry (r : Run) (i : Fin 32) (e : Entry) (limit : Nat) : r.Spares (r.openEntry i e limit) :=
  (Spares.modify r _).trans (.setEntry _ i _)

/-! ### The claim -/

/-- The claim of a nest that has changed is re-evaluated (R66). -/
theorem Run.Made.reclaimSettled {r : Run} {w : State} {n : Nest} {c : NestContext} {ids : List ImageId}
    (h : r.Made (w.settledNest n c) ids) :
    ∃ more, (r.reclaim n).Made (w.settledNest n { c with claim := w.claimOf n }) (ids ++ more) := by
  have hm := h.setNest n { c with claim := w.claimOf n }
  rw [State.settledNest_withNest_state (c := c) (d := { c with claim := w.claimOf n }) rfl] at hm
  unfold Run.reclaim
  rw [h.shape, State.settledNest_nest, State.claimOf_congr (State.settledNest_entries w n c)]
  exact ⟨_, hm⟩

/-- Whether an entry of a kind names a nest once an entry has opened. -/
theorem kindNames_opened {u : State} {i : Fin 32} (hfree : u.entries.get i = none) (e : Entry) (limit : Nat)
    (k : EntryKind) (n : Nest) :
    (u.opened i e limit).kindNames k n = (u.kindNames k n || (e.kind == k && e.board.nest == n)) := by
  rw [Bool.eq_iff_iff, Bool.or_eq_true, State.kindNames, State.kindNames, Table.any_iff, Table.any_iff]
  constructor
  · rintro ⟨j, hj⟩
    change ((u.entries.set i _).get j).any _ = true at hj
    rw [Table.get_set] at hj
    split at hj
    · exact .inr hj
    · exact .inl ⟨j, hj⟩
  · rintro (⟨j, hj⟩ | h)
    · refine ⟨j, ?_⟩
      show ((u.entries.set i _).get j).any _ = true
      rw [Table.get_set_ne _ _ fun hji => by rw [hji, hfree] at hj; cases hj]
      exact hj
    · refine ⟨i, ?_⟩
      show ((u.entries.set i _).get i).any _ = true
      rw [Table.get_set_self]
      exact h

theorem claimOf_opened {u w : State} {i : Fin 32} (hfree : u.entries.get i = none) {e : Entry} {limit : Nat}
    (hw : w.entries = (u.opened i e limit).entries) (n : Nest) : w.claimOf n =
      if (u.kindNames .cut n || (e.kind == .cut && e.board.nest == n)) = true then .router
      else if (u.kindNames .pick n || (e.kind == .pick && e.board.nest == n)) = true then .picker else .none := by
  rw [State.claimOf_congr (s := u.opened i e limit) hw, State.claimOf, kindNames_opened hfree, kindNames_opened hfree]

theorem get_of_freeEntries {u : State} {i : Fin 32} {free : List (Fin 32)} (h : u.freeEntries = i :: free) :
    u.entries.get i = none := by
  have hmem : i ∈ u.freeEntries := by rw [h]; simp
  simpa [State.freeEntries, Table.mem_indices] using hmem

/-! ### The end of a command that opens one entry -/

/-- The state that a command of one entry makes, but for its cursor. -/
def State.admitted (u : State) (i : Fin 32) (e : Entry) (limit : Nat) (cups : Table 4 Cup) (k : Fin 64)
    (m : CacheLine) (h : BoardHw) (c : NestContext) : State :=
  (State.relined { u.opened i e limit with cups := cups } e.board k m h).settledNest e.board.nest c

theorem ends_records {x t : State} {cur : Cursors} {tag : Tag} {changed : List ImageId}
    (hends : Ends { x with cursors := cur } t tag .done changed) :
    t.records = x.records := ends_same hends fun u => u.records

theorem nests_at {u t : State} {m : Nest} {g : NestContext → NestContext}
    (h : ∀ n, t.nest n = if n = m then g (u.nest m) else u.nest n) (n : Nest) :
    t.nest n = if n = m then g (u.nest n) else u.nest n := by
  rw [h n]
  split
  · next hn => rw [hn]
  · rfl

/-- A command of one entry ends (R85, R89). -/
theorem admitted_ends {u t : State} {i : Fin 32} {e : Entry} {limit : Nat} {cups : Table 4 Cup} {k : Fin 64}
    {m : CacheLine} {h : BoardHw} {c : NestContext} {cur : Cursors} {tag : Tag} {changed : List ImageId}
    (hk : u.lineOf e.board = some k) (hl : u.cache.get k = some m) (hs : c.state = (u.nest e.board.nest).state)
    (hends : Ends { u.admitted i e limit cups k m h c with cursors := cur } t tag .done changed) :
    Ends { u with
        entries := (u.opened i e limit).entries, order := (u.opened i e limit).order, due := (u.opened i e limit).due
        cups := cups, cache := t.cache, recency := t.recency, walker := t.walker, nestA := t.nestA, nestB := t.nestB
        cursors := cur } t tag .done changed ∧
      Rewritten u t e.board m h ∧ ∀ n, t.nest n = if n = e.board.nest then c else u.nest n := by
  have hrec := ends_records hends
  have hflags : (u.admitted i e limit cups k m h c).flags = u.flags := by
    unfold State.admitted
    rw [← State.withNest_settled]
    · cases e.board.nest <;> rfl
    · rw [State.relined_nest, hs]
      cases e.board.nest <;> rfl
  have hnest (n : Nest) : t.nest n = if n = e.board.nest then c else u.nest n := by
    rw [State.records_nest hrec, State.admitted, State.settledNest_nests, State.relined_nest]
    cases n <;> rfl
  obtain ⟨hc, hr, hw⟩ := State.settledNest_cache (State.relined { u.opened i e limit with cups := cups } e.board k m h)
    e.board.nest c
  have hparts := hrec
  simp only [State.records, Prod.mk.injEq] at hparts
  obtain ⟨hcache, hrecency, hwalker, ha, hb, -⟩ := hparts
  refine ⟨ends_at hends ?_, State.relined_rewritten hk hl (hcache.trans hc) (hrecency.trans hr) (hwalker.trans hw), hnest⟩
  rw [hcache, hrecency, hwalker, ha, hb]
  have hshape : u.admitted i e limit cups k m h c = { u.admitted i e limit cups k m h c with flags := u.flags } := by
    rw [← hflags]
  rw [hshape, State.admitted, State.settledNest_shape]
  rfl

/-- The board of a command of one entry changes (R85). -/
theorem Run.Made.changeAdmitted {r : Run} {u : State} {i : Fin 32} {e : Entry} {limit : Nat} {cups : Table 4 Cup}
    {ids : List ImageId} (h : r.Made { u.opened i e limit with cups := cups } ids) {k : Fin 64} {m : CacheLine}
    (hk : u.lineOf e.board = some k) (hl : u.cache.get k = some m) {f : BoardHw → BoardHw}
    (hf : f m.words.hw ≠ m.words.hw) :
    ∃ more, (r.changeBoard e.board f).Made (u.admitted i e limit cups k m (f m.words.hw)
      { u.nest e.board.nest with status := .dirty }) (ids ++ more) := by
  obtain ⟨more, hm, -⟩ := h.changeCached (k := k) hk hl hf
  refine ⟨more, hm.at_state ?_⟩
  have hn : State.nest { u.opened i e limit with cups := cups } e.board.nest = u.nest e.board.nest := by
    cases e.board.nest <;> rfl
  rw [hn]
  rfl

/-- The claim of the nest of a command of one entry is re-evaluated (R66). -/
theorem Run.Made.reclaimAdmitted {r : Run} {u : State} {i : Fin 32} {e : Entry} {limit : Nat} {cups : Table 4 Cup}
    {k : Fin 64} {m : CacheLine} {hw : BoardHw} {c : NestContext} {ids : List ImageId}
    (h : r.Made (u.admitted i e limit cups k m hw c) ids) {claim : Claim}
    (hc : (u.opened i e limit).claimOf e.board.nest = claim) :
    ∃ more, (r.reclaim e.board.nest).Made (u.admitted i e limit cups k m hw { c with claim := claim })
      (ids ++ more) := by
  subst hc
  exact Run.Made.reclaimSettled h

/-- The cursor of a command of one entry advances (R79). -/
theorem Run.Made.advanceAdmitted {s u : State} {ring : CmdRing} {tag : Tag} {q : Request} (hp : Posted s ring tag q)
    {r : Run} {i : Fin 32} {e : Entry} {limit : Nat} {cups : Table 4 Cup} {k : Fin 64} {m : CacheLine} {hw : BoardHw}
    {c : NestContext} {ids : List ImageId} (h : r.Made (u.admitted i e limit cups k m hw c) ids)
    (hcur : u.cursors = s.cursors) (hrings : u.rings = s.rings) :
    (r.advance ring).Made { u.admitted i e limit cups k m hw c with cursors := advanced s ring } (ids ++ [.status]) := by
  refine h.advance hp (Eq.trans ?_ hcur) (Eq.trans ?_ hrings)
  · unfold State.admitted
    cases e.board.nest <;> rfl
  · unfold State.admitted
    cases e.board.nest <;> rfl

end Sys2Proof.Machine
end

section
/-! PROOF. CUT, PICK and DISCARD as they are admitted (R38, R39, R83, R85, R87 to R91, R98, R99, R102). -/

namespace Sys2Proof.Machine

open Sys2Proof.Claims

/-! ### CUT (R87 to R89) -/

theorem judgeCut_pass {u v : State} {answers rest : List MemAnswer} {w1 : Word} {b : BoardRef} {l : CacheLine}
    {span : Span} {i : Fin 32} {free : List (Fin 32)} (h : Fetched u answers b l v rest)
    (hf : FetchesBoard u .cut w1 b) (hc : firstFailing (v.cutChecks l (cmdSpan w1)) = none)
    (hspan : effectiveSpan (cmdSpan w1) l.words.hw.cutMask = some span) (hfree : v.freeEntries = i :: free) :
    judgeCut w1 (Run.start u answers) = (.pass ⟨b, span, i⟩, Run.start v rest) := by
  obtain ⟨hn, hp, hs, hlt⟩ := hf
  have hst : (Run.start u answers).st = u := rfl
  have hst' : (Run.start v rest).st = v := rfl
  simp only [judgeCut, hst, hst', nestChecks_ok hn hp hs hlt, fetch_found h, hc, hspan, hfree]

theorem cutChecks_pass {v : State} {l : CacheLine} {b : BoardRef} {written span : Span} {i : Fin 32}
    {free : List (Fin 32)} (hb : l.board = b) (hbusy : v.boardBusy b = false) (hhold : v.effectiveHold l ≠ .locked)
    (hstate : l.words.hw.state = .intact ∨ l.words.hw.state = .partCut) (hone : 1 ≤ written.count)
    (hfits : written.first + written.count ≤ l.words.hw.tabs)
    (hspan : effectiveSpan written l.words.hw.cutMask = some span) (hclaim : (v.nest b.nest).claim ≠ .picker)
    (hfree : v.freeEntries = i :: free) : firstFailing (v.cutChecks l written) = none := by
  subst hb
  have hgone : l.words.hw.state.gone = false := by rcases hstate with h | h <;> rw [h] <;> rfl
  have hne (x : BoardState) (h1 : x ≠ .intact) (h2 : x ≠ .partCut) : l.words.hw.state ≠ x := fun e => by
    rcases hstate with h | h
    · exact h1 (e.symm.trans h)
    · exact h2 (e.symm.trans h)
  simp [State.cutChecks, firstFailing, hbusy, hhold, hgone, hne .left nofun nofun, hne .uncertain nofun nofun,
    hne .free nofun nofun, hone, hfits, hspan, hclaim, hfree]

/-- The entry that a CUT opens (R85). -/
def cutEntry (u : State) (q : Request) (b : BoardRef) (span : Span) (now : Time) : Entry :=
  { newEntry .router (u.cursor .router) (ringSequence q.data) .cut b now with span := some span }

/-- What an admitted CUT does (R89). -/
theorem Run.Made.applyCut {s u : State} {tag : Tag} {q : Request} (hp : Posted s .router tag q) {r : Run}
    {ids : List ImageId} (h : r.Made u ids) (hcur : u.cursors = s.cursors) (hrings : u.rings = s.rings) {b : BoardRef}
    {i : Fin 32} {k : Fin 64} {m : CacheLine} (hi : u.entries.get i = none) (hk : u.lineOf b = some k)
    (hl : u.cache.get k = some m) (hs : m.words.hw.state ≠ .cutting) (span : Span) (now : Time) :
    ∃ more, (Machine.applyCut q ⟨b, span, i⟩ now r).Made
        { u.admitted i (cutEntry u q b span now) (u.limits.cut span) u.cups k m
            { m.words.hw with state := .cutting, untouched := false }
            { u.nest b.nest with status := .dirty, claim := .router } with cursors := advanced s .router }
        (ids ++ .entry i :: more ++ [.status]) ∧ r.Spares (Machine.applyCut q ⟨b, span, i⟩ now r) := by
  have hchange : ({ m.words.hw with state := .cutting, untouched := false } : BoardHw) ≠ m.words.hw :=
    fun heq => hs (congrArg BoardHw.state heq).symm
  have hclaim : (u.opened i (cutEntry u q b span now) (u.limits.cut span)).claimOf b.nest = .router := by
    rw [claimOf_opened hi rfl, if_pos (by simp [cutEntry, newEntry])]
  have hm := h.openEntry i (cutEntry u q b span now) (u.limits.cut span)
  obtain ⟨m1, hm⟩ := Run.Made.changeAdmitted (cups := u.cups) hm hk hl
    (f := fun h => { h with state := .cutting, untouched := false }) hchange
  obtain ⟨m2, hm⟩ := hm.reclaimAdmitted hclaim
  have hm := hm.advanceAdmitted hp hcur hrings
  have hspares := (((Run.Spares.openEntry r i (cutEntry u q b span now) (u.limits.cut span)).trans
    (.changeBoard _ b fun h => { h with state := .cutting, untouched := false })).trans (.reclaim _ b.nest)).trans
      (.advance _ .router)
  have hrun : Machine.applyCut q ⟨b, span, i⟩ now r =
      ((((r.openEntry i (cutEntry u q b span now) (u.limits.cut span)).changeBoard b fun h =>
        { h with state := .cutting, untouched := false }).reclaim b.nest).advance .router) := by
    rw [← h.shape]
    rfl
  rw [hrun]
  exact ⟨m1 ++ m2, hm.congr fun id => by simp, hspares⟩

/-- Settles O20. -/
theorem cutIsAdmitted : Obligations.CutIsAdmitted := by
  unfold Obligations.CutIsAdmitted
  intro s v tag q answers rest b l m span i free hp hrow ha hn hpos hactive hcount hfetch hbusy hhold hstate hone hfits
    hspan hclaim hfree limit writes u
  obtain ⟨p, he⟩ := serving_of_held hp.inHand
  have hj : Physical.judge .cut (word1 s answers q) (Run.start (s.waited answers 3) (answers.drop 3)) =
      (.pass ⟨b, span, i⟩, Run.start v rest) := judgeCut_pass hfetch
    ((s.waited_beside answers 3).fetchesBoard he (kind := .cut) ⟨hn, hpos.symm, hactive, hcount⟩)
    (cutChecks_pass (fetched_board hfetch) hbusy hhold hstate hone hfits hspan hclaim hfree) hspan hfree
  refine ⟨admitted_breaks (kind := .cut) hp nofun hrow ha hj rfl, fun hdone hcached hwords => ?_⟩
  obtain ⟨hexec, hv, hu⟩ := admitted_done (kind := .cut) hp nofun hrow ha hj rfl hdone
  have hu : s.Beside u := hu
  have hue : u.entries = v.entries := (hu.entries he).trans (hv.entries he).symm
  obtain ⟨k, hk, hl, -⟩ := State.cached_some hcached
  obtain ⟨more, hm, hspares⟩ := (Run.Made.started ((hu.mode he).trans hp.guarded) (rest.drop writes.length)).applyCut hp
    (hu.cursors he) (hu.rings he) (by rw [hue]; exact get_of_freeEntries hfree) hk hl (by
      rw [hwords]
      rcases hstate with h | h
      · rw [h]; exact nofun
      · rw [h]; exact nofun) span v.time
  have hends := hm.ends (hspares.free (.start _ _)) (by simp) tag .done
  obtain ⟨hends, hboard, hnests⟩ := admitted_ends hk hl (by exact rfl) hends
  have hlimit : u.limits.cut span = limit := by rw [hu.limits he, ← hv.limits he]; rfl
  have hslot : u.cursor .router = s.cursor .router := by rw [State.cursor, hu.cursors he]; rfl
  have horder : u.order = v.order := (hu.order he).trans (hv.order he).symm
  rw [hwords] at hboard
  refine ⟨_, hexec, ⟨_, by simp, by simp, ends_at hends ?_⟩, hboard,
    nests_at (g := fun c => { c with status := .dirty, claim := .router }) hnests⟩
  simp only [State.opened, hue, horder, hlimit, cutEntry, newEntry, hslot]
  rfl

end Sys2Proof.Machine
end

section
/-! PROOF. PICK and DISCARD as they are admitted (R38, R39, R90, R91, R98, R99). -/

namespace Sys2Proof.Machine

open Sys2Proof.Claims

/-! ### The cups that name a board (R38) -/

/-- What becomes of a cup when another comes to name the board, or the board goes (R38, R164). -/
def Cup.released (cup : Cup) (b : BoardRef) (but : Option (Fin 4)) (c : Fin 4) : Cup :=
  if cup.state = .suspect ∧ cup.ref = some b ∧ but ≠ some c then ⟨.suspect, none⟩ else cup

theorem Cup.released_released (cup : Cup) (b : BoardRef) (but : Option (Fin 4)) (c : Fin 4) :
    (cup.released b but c).released b but c = cup.released b but c := by
  by_cases h : cup.state = .suspect ∧ cup.ref = some b ∧ but ≠ some c
  · simp [Cup.released, h]
  · rw [show cup.released b but c = cup from if_neg h, Cup.released, if_neg h]

/-- One cup is looked at (R38). -/
theorem Run.Made.releaseCup {r : Run} {u : State} {ids : List ImageId} (h : r.Made u ids) (b : BoardRef)
    (but : Option (Fin 4)) (c : Fin 4) :
    ∃ more, (if (r.st.cups.get c).state == .suspect && (r.st.cups.get c).ref == some b && but != some c then
        r.setCup c ⟨.suspect, none⟩ else r).Made
      { u with cups := u.cups.set c ((u.cups.get c).released b but c) } (ids ++ more) := by
  rw [h.shape]
  by_cases hc : (u.cups.get c).state = .suspect ∧ (u.cups.get c).ref = some b ∧ but ≠ some c
  · rw [if_pos (by simpa [and_assoc] using hc), Cup.released, if_pos hc]
    exact ⟨_, h.setCup c ⟨.suspect, none⟩⟩
  · rw [if_neg (by simpa [and_assoc] using hc), Cup.released, if_neg hc, Table.set_get_self]
    exact ⟨[], by simpa using h⟩

/-- A change of each cup of a list that made twice is as made once. -/
theorem Run.Made.mapCups {g : Fin 4 → Cup → Cup} (hg : ∀ k cup, g k (g k cup) = g k cup) {step : Run → Fin 4 → Run}
    (hstep : ∀ {r : Run} {u : State} {ids : List ImageId} (c : Fin 4), r.Made u ids →
      ∃ more, (step r c).Made { u with cups := u.cups.set c (g c (u.cups.get c)) } (ids ++ more))
    (l : List (Fin 4)) {r : Run} {u : State} {ids : List ImageId} (h : r.Made u ids) :
    ∃ cups more, (l.foldl step r).Made { u with cups := cups } (ids ++ more) ∧
      ∀ k, cups.get k = if k ∈ l then g k (u.cups.get k) else u.cups.get k := by
  induction l generalizing r u ids with
  | nil => exact ⟨u.cups, [], by simpa using h, by simp⟩
  | cons c l ih =>
    obtain ⟨m1, h1⟩ := hstep c h
    obtain ⟨cups, m2, h2, hget⟩ := ih h1
    refine ⟨cups, m1 ++ m2, h2.congr fun id => by simp, fun k => ?_⟩
    rw [hget k]
    change (if k ∈ l then g k ((u.cups.set c _).get k) else (u.cups.set c _).get k) = _
    rw [Table.get_set]
    by_cases hk : k = c
    · subst hk
      simp [hg]
    · simp [hk]

/-- Every SUSPECT cup that names the board loses it (R38, R164). -/
theorem Run.Made.dropReferences {r : Run} {u : State} {ids : List ImageId} (h : r.Made u ids) (b : BoardRef)
    (but : Option (Fin 4)) : ∃ cups more, (r.dropReferences b but).Made { u with cups := cups } (ids ++ more) ∧
      ∀ k, cups.get k = (u.cups.get k).released b but k := by
  obtain ⟨cups, more, hm, hget⟩ := Run.Made.mapCups (g := fun k cup => cup.released b but k)
    (fun k cup => cup.released_released b but k) (fun c h => h.releaseCup b but c) (List.finRange 4) h
  exact ⟨cups, more, hm, fun k => by rw [hget k, if_pos (List.mem_finRange k)]⟩

theorem Run.Spares.dropReferences (r : Run) (b : BoardRef) (but : Option (Fin 4)) :
    r.Spares (r.dropReferences b but) := by
  unfold Run.dropReferences
  generalize List.finRange 4 = l
  induction l generalizing r with
  | nil => exact .refl r
  | cons c l ih =>
    refine Spares.trans ?_ (ih _)
    dsimp only
    split
    · exact .setCup r _ _
    · exact .refl r

/-- A cup takes the board (R38). -/
theorem Run.Made.giveCup {r : Run} {u : State} {ids : List ImageId} (h : r.Made u ids) (c : Fin 4) (cup : Cup)
    (b : BoardRef) : ∃ cups more, (r.giveCup c cup b).Made { u with cups := cups } (ids ++ more) ∧
      (u.cups.get c ≠ cup → .cup c ∈ more) ∧
      ∀ k, cups.get k = if k = c then cup else (u.cups.get k).released b none k := by
  obtain ⟨cups, more, hm, hget⟩ := (h.setCup c cup).dropReferences b (some c)
  rw [List.append_assoc] at hm
  refine ⟨cups, (if u.cups.get c = cup then [] else [ImageId.cup c]) ++ more, hm, fun hne => by simp [hne], fun k => ?_⟩
  rw [hget k]
  change ((u.cups.set c cup).get k).released b (some c) k = _
  rw [Table.get_set]
  by_cases hk : k = c
  · subst hk
    simp [Cup.released]
  · simp [Cup.released, hk, Ne.symm hk]

theorem Run.Spares.giveCup (r : Run) (c : Fin 4) (cup : Cup) (b : BoardRef) : r.Spares (r.giveCup c cup b) :=
  (Spares.setCup r c cup).trans (.dropReferences _ b _)

/-! ### PICK (R90, R91) -/

theorem pickChecks_pass {v : State} {l : CacheLine} {b : BoardRef} (hb : l.board = b) (hbusy : v.boardBusy b = false)
    (hhold : v.effectiveHold l = .isOpen) (hstate : l.words.hw.state = .free) :
    firstFailing (v.pickChecks l) = none := by
  subst hb
  simp [State.pickChecks, firstFailing, hbusy, hhold, hstate, BoardState.gone]

theorem judgePickCup_granted {v : State} {w1 : Word} {b : BoardRef} {c : Fin 4} {i : Fin 32} {free : List (Fin 32)}
    (hc : cmdCup w1 = c.val) (hempty : (v.cups.get c).state = .empty) (hclaim : (v.nest b.nest).claim ≠ .router)
    (hfree : v.freeEntries = i :: free) : judgePickCup b w1 v = .pass ⟨b, c, i⟩ := by
  simp only [judgePickCup, asFin_val hc, hempty, CupState.pickRefusal, if_neg hclaim, hfree]

/-- The entry that a PICK or DISCARD opens (R85). -/
def cupEntry (kind : EntryKind) (u : State) (q : Request) (b : BoardRef) (c : Fin 4) (now : Time) : Entry :=
  { newEntry .picker (u.cursor .picker) (ringSequence q.data) kind b now with cup := some c }

/-- What an admitted PICK does (R91). -/
theorem Run.Made.applyPick {s u : State} {tag : Tag} {q : Request} (hp : Posted s .picker tag q) {r : Run}
    {ids : List ImageId} (h : r.Made u ids) (hcur : u.cursors = s.cursors) (hrings : u.rings = s.rings) {b : BoardRef}
    {c : Fin 4} {i : Fin 32} {k : Fin 64} {m : CacheLine} (hi : u.entries.get i = none)
    (hempty : (u.cups.get c).state = .empty) (hk : u.lineOf b = some k) (hl : u.cache.get k = some m)
    (hs : m.words.hw.state ≠ .picking) (now : Time) :
    ∃ cups more, (Machine.applyPick q ⟨b, c, i⟩ now r).Made
        { u.admitted i (cupEntry .pick u q b c now) u.limits.pick cups k m
            { m.words.hw with state := .picking, cup := some c, untouched := false }
            { u.nest b.nest with
              status := .dirty, claim := if u.kindNames .cut b.nest then .router else .picker } with
          cursors := advanced s .picker }
        (ids ++ .entry i :: more ++ [.status]) ∧ .cup c ∈ more ∧ r.Spares (Machine.applyPick q ⟨b, c, i⟩ now r) ∧
      ∀ k, cups.get k = if k = c then ⟨.reserved, some b⟩ else (u.cups.get k).released b none k := by
  have hchange : ({ m.words.hw with state := .picking, cup := some c, untouched := false } : BoardHw) ≠ m.words.hw :=
    fun heq => hs (congrArg BoardHw.state heq).symm
  have hclaim : (u.opened i (cupEntry .pick u q b c now) u.limits.pick).claimOf b.nest =
      if u.kindNames .cut b.nest then .router else .picker := by
    rw [claimOf_opened hi rfl]
    simp [cupEntry, newEntry]
  have hm := h.openEntry i (cupEntry .pick u q b c now) u.limits.pick
  obtain ⟨cups, m1, hm, hmem, hcups⟩ := hm.giveCup c ⟨.reserved, some b⟩ b
  obtain ⟨m2, hm⟩ := Run.Made.changeAdmitted hm hk hl
    (f := fun h => { h with state := .picking, cup := some c, untouched := false }) hchange
  obtain ⟨m3, hm⟩ := hm.reclaimAdmitted hclaim
  have hm := hm.advanceAdmitted hp hcur hrings
  have hspares := ((((Run.Spares.openEntry r i (cupEntry .pick u q b c now) u.limits.pick).trans
    (.giveCup _ c ⟨.reserved, some b⟩ b)).trans
      (.changeBoard _ b fun h => { h with state := .picking, cup := some c, untouched := false })).trans
      (.reclaim _ b.nest)).trans (.advance _ .picker)
  have hrun : Machine.applyPick q ⟨b, c, i⟩ now r =
      (((((r.openEntry i (cupEntry .pick u q b c now) u.limits.pick).giveCup c ⟨.reserved, some b⟩ b).changeBoard b
        fun h => { h with state := .picking, cup := some c, untouched := false }).reclaim b.nest).advance .picker) := by
    rw [← h.shape]
    rfl
  rw [hrun]
  refine ⟨cups, m1 ++ m2 ++ m3, hm.congr fun id => by simp, ?_, hspares, hcups⟩
  have hne : u.cups.get c ≠ ⟨.reserved, some b⟩ := fun heq => by rw [heq] at hempty; cases hempty
  exact List.mem_append_left _ (List.mem_append_left _ (hmem hne))

theorem State.kindNames_congr {s t : State} (h : t.entries = s.entries) (k : EntryKind) (n : Nest) :
    t.kindNames k n = s.kindNames k n := by rw [State.kindNames, State.kindNames, h]

theorem ends_cups {u t : State} {i : Fin 32} {e : Entry} {limit : Nat} {cups : Table 4 Cup} {k : Fin 64}
    {m : CacheLine} {h : BoardHw} {c : NestContext} {cur : Cursors} {tag : Tag} {changed : List ImageId}
    (hends : Ends { u.admitted i e limit cups k m h c with cursors := cur } t tag .done changed) : t.cups = cups := by
  refine (ends_same hends fun u => u.cups).trans ?_
  unfold State.admitted
  cases e.board.nest <;> rfl

/-- Settles O21. -/
theorem pickIsAdmitted : Obligations.PickIsAdmitted := by
  unfold Obligations.PickIsAdmitted
  intro s v tag q answers rest b l m c i free hp hrow ha hn hpos hactive hcount hfetch hbusy hhold hstate hcup hempty
    hclaim hfree limit writes u
  obtain ⟨p, he⟩ := serving_of_held hp.inHand
  have hj : Physical.judge .pick (word1 s answers q) (Run.start (s.waited answers 3) (answers.drop 3)) =
      (.pass ⟨b, c, i⟩, Run.start v rest) := (judgePick_cup hfetch
    ((s.waited_beside answers 3).fetchesBoard he (kind := .pick) ⟨hn, hpos.symm, hactive, hcount⟩)
    (pickChecks_pass (fetched_board hfetch) hbusy hhold hstate)).trans
      (congrArg (·, Run.start v rest) (judgePickCup_granted hcup hempty hclaim hfree))
  refine ⟨admitted_breaks (kind := .pick) hp nofun hrow ha hj rfl, fun hdone hcached hwords => ?_⟩
  obtain ⟨hexec, hv, hu⟩ := admitted_done (kind := .pick) hp nofun hrow ha hj rfl hdone
  have hu : s.Beside u := hu
  have hue : u.entries = v.entries := (hu.entries he).trans (hv.entries he).symm
  have huc : u.cups = v.cups := (hu.cups he).trans (hv.cups he).symm
  obtain ⟨k, hk, hl, -⟩ := State.cached_some hcached
  obtain ⟨cups, more, hm, hmem, hspares, hcups⟩ := (Run.Made.started ((hu.mode he).trans hp.guarded)
    (rest.drop writes.length)).applyPick hp (hu.cursors he) (hu.rings he) (by rw [hue]; exact get_of_freeEntries hfree)
    (by rw [huc]; exact hempty) hk hl (by rw [hwords, hstate]; exact nofun) v.time
  have hends := hm.ends (hspares.free (.start _ _)) (by simp) tag .done
  obtain ⟨t, hexec, hends⟩ : ∃ t, exec (.pick answers) s = .next t ∧ Ends _ t tag .done _ := ⟨_, hexec, hends⟩
  have htcups := ends_cups hends
  obtain ⟨hends, hboard, hnests⟩ := admitted_ends hk hl (by exact rfl) hends
  have hlimit : u.limits.pick = limit := by rw [hu.limits he, ← hv.limits he]
  have hslot : u.cursor .picker = s.cursor .picker := by rw [State.cursor, hu.cursors he]; rfl
  have horder : u.order = v.order := (hu.order he).trans (hv.order he).symm
  rw [hwords] at hboard
  refine ⟨_, hexec, ⟨_, by simp, by simp [hmem], by simp, ends_at hends ?_⟩, hboard, fun k => ?_, fun n => ?_⟩
  · rw [htcups]
    simp only [State.opened, hue, horder, hlimit, cupEntry, newEntry, hslot]
  · rw [htcups]
    refine (hcups k).trans ?_
    rw [huc]
    simp [Cup.released]
  · refine (hnests n).trans ?_
    rw [State.kindNames_congr hue]
    by_cases hn : n = b.nest
    · rw [hn, if_pos rfl]
      exact if_pos rfl
    · rw [if_neg hn]
      exact if_neg hn

/-! ### DISCARD (R98, R99) -/

/-- A command whose cup holds a board that the cache has or fetches (R39, R92, R98). -/
theorem withCup_found {α : Type} {judge : Fin 4 → CacheLine → Run → Judged α × Run} {u v : State}
    {answers rest : List MemAnswer} {w1 : Word} {c : Fin 4} {b : BoardRef} {l : CacheLine} (hc : cmdCup w1 = c.val)
    (hcup : u.cups.get c = ⟨.loaded, some b⟩) (h : Fetched u answers b l v rest) :
    withCup w1 judge (Run.start u answers) = judge c l (Run.start v rest) := by
  rw [withCup_loaded hc hcup, fetch_found h]

theorem judgeDiscardBoard_granted {v : State} {l : CacheLine} {b : BoardRef} {c : Fin 4} {i : Fin 32}
    {free : List (Fin 32)} (hb : l.board = b) (hgrade : boardGrade l.words.w1 ≠ some .good)
    (hfree : v.freeEntries = i :: free) : judgeDiscardBoard c l v = .pass ⟨b, c, i⟩ := by
  simp only [judgeDiscardBoard, if_neg hgrade, hfree, hb]

/-- What an admitted DISCARD does (R99). -/
theorem Run.Made.applyDiscard {s u : State} {tag : Tag} {q : Request} (hp : Posted s .picker tag q) {r : Run}
    {ids : List ImageId} (h : r.Made u ids) (hcur : u.cursors = s.cursors) (hrings : u.rings = s.rings) {b : BoardRef}
    {c : Fin 4} {i : Fin 32} {k : Fin 64} {m : CacheLine} (hcup : u.cups.get c = ⟨.loaded, some b⟩)
    (hk : u.lineOf b = some k) (hl : u.cache.get k = some m) (hs : m.words.hw.state ≠ .discarding) (now : Time) :
    ∃ more, (Machine.applyDiscard q ⟨b, c, i⟩ now r).Made
        { u.admitted i (cupEntry .discard u q b c now) u.limits.discard (u.cups.set c ⟨.reservedOut, some b⟩) k m
            { m.words.hw with state := .discarding } { u.nest b.nest with status := .dirty } with
          cursors := advanced s .picker }
        (ids ++ .entry i :: .cup c :: more ++ [.nest b.nest, .status]) ∧
      r.Spares (Machine.applyDiscard q ⟨b, c, i⟩ now r) := by
  have hchange : ({ m.words.hw with state := .discarding } : BoardHw) ≠ m.words.hw :=
    fun heq => hs (congrArg BoardHw.state heq).symm
  have hne : u.cups.get c ≠ ⟨.reservedOut, some b⟩ := fun heq => by rw [heq] at hcup; cases hcup
  have hm := (h.openEntry i (cupEntry .discard u q b c now) u.limits.discard).setCup c ⟨.reservedOut, some b⟩
  obtain ⟨more, hm⟩ := Run.Made.changeAdmitted hm hk hl (f := fun h => { h with state := .discarding }) hchange
  have hm := (hm.image (.nest b.nest)).advanceAdmitted hp hcur hrings
  have hspares := ((((Run.Spares.openEntry r i (cupEntry .discard u q b c now) u.limits.discard).trans
    (.setCup _ c ⟨.reservedOut, some b⟩)).trans (.changeBoard _ b fun h => { h with state := .discarding })).trans
      (.image _ (.nest b.nest))).trans (.advance _ .picker)
  have hrun : Machine.applyDiscard q ⟨b, c, i⟩ now r =
      (((((r.openEntry i (cupEntry .discard u q b c now) u.limits.discard).setCup c ⟨.reservedOut, some b⟩).changeBoard b
        fun h => { h with state := .discarding }).image (.nest b.nest)).advance .picker) := by
    rw [← h.shape]
    rfl
  rw [hrun]
  refine ⟨more, hm.congr fun id => ?_, hspares⟩
  have hset : (u.opened i (cupEntry .discard u q b c now) u.limits.discard).cups.get c ≠ ⟨.reservedOut, some b⟩ := hne
  rw [if_neg hset]
  simp

/-- Settles O22. -/
theorem discardIsAdmitted : Obligations.DiscardIsAdmitted := by
  unfold Obligations.DiscardIsAdmitted
  intro s v tag q answers rest b l m c i free hp hrow ha hc hcup hfetch hgrade hstate hfree limit writes u
  obtain ⟨p, he⟩ := serving_of_held hp.inHand
  have hwaited : (s.waited answers 3).cups.get c = ⟨.loaded, some b⟩ := by
    rw [(s.waited_beside answers 3).cups he]; exact hcup
  have hj : Physical.judge .discard (word1 s answers q) (Run.start (s.waited answers 3) (answers.drop 3)) =
      (.pass ⟨b, c, i⟩, Run.start v rest) := (withCup_found hc hwaited hfetch).trans
    (congrArg (·, Run.start v rest) (judgeDiscardBoard_granted (fetched_board hfetch) hgrade hfree))
  refine ⟨admitted_breaks (kind := .discard) hp nofun hrow ha hj rfl, fun hdone hcached hwords => ?_⟩
  obtain ⟨hexec, hv, hu⟩ := admitted_done (kind := .discard) hp nofun hrow ha hj rfl hdone
  have hu : s.Beside u := hu
  have hue : u.entries = v.entries := (hu.entries he).trans (hv.entries he).symm
  have huc : u.cups = v.cups := (hu.cups he).trans (hv.cups he).symm
  obtain ⟨k, hk, hl, -⟩ := State.cached_some hcached
  obtain ⟨more, hm, hspares⟩ := (Run.Made.started ((hu.mode he).trans hp.guarded)
    (rest.drop writes.length)).applyDiscard (i := i) hp (hu.cursors he) (hu.rings he) (by rw [hu.cups he]; exact hcup)
    hk hl (by rw [hwords, hstate]; exact nofun) v.time
  have hends := hm.ends (hspares.free (.start _ _)) (by simp) tag .done
  obtain ⟨hends, hboard, hnests⟩ := admitted_ends hk hl (by exact rfl) hends
  have hlimit : u.limits.discard = limit := by rw [hu.limits he, ← hv.limits he]
  have hslot : u.cursor .picker = s.cursor .picker := by rw [State.cursor, hu.cursors he]; rfl
  have horder : u.order = v.order := (hu.order he).trans (hv.order he).symm
  rw [hwords] at hboard
  refine ⟨_, hexec, ⟨_, by simp, ends_at hends ?_⟩, hboard, nests_at (g := fun c => { c with status := .dirty }) hnests⟩
  simp only [State.opened, hue, huc, horder, hlimit, cupEntry, newEntry, hslot]
  rfl

end Sys2Proof.Machine
end

section
/-! PROOF. PLACE as it is admitted: its judgement, its pair and its selection (R92 to R95, R105, R147, R148). -/

namespace Sys2Proof.Machine

open Sys2Proof.Claims

/-! ### The judgement (R92 to R94) -/

theorem placeChecks_pass {v : State} {l : CacheLine} {b : BoardRef} {lane : Nat} (hb : l.board = b)
    (hgrade : ¬(boardGrade l.words.w1 = some .xout ∧ v.policy b.nest = some .discard))
    (hlane : lane = laneAuto ∨ lane = (v.effectiveLane l).val)
    (hkind : laneKindFits (boardGrade l.words.w1) (v.lanes.get (v.effectiveLane l)).kind = true)
    (hopen : (v.lanes.get (v.effectiveLane l)).state = .isOpen) : firstFailing (v.placeChecks l lane) = none := by
  subst hb
  have hgrade' : (boardGrade l.words.w1 == some .xout && v.policy l.board.nest == some .discard) = false := by
    simpa using hgrade
  have hlane' : (lane == laneAuto || lane == (v.effectiveLane l).val) = true := by simpa using hlane
  simp only [State.placeChecks, firstFailing, hgrade', hlane', hkind, hopen, LaneState.refusal]
  rfl

theorem judgePlaceBoard_granted {v : State} {l : CacheLine} {b : BoardRef} {w1 : Word} {c : Fin 4} {sel : Selection}
    {i j : Fin 32} {free : List (Fin 32)} (hb : l.board = b)
    (hchecks : firstFailing (v.placeChecks l (cmdLane w1)) = none) (hsel : v.select (v.effectiveLane l) = some sel)
    (hslot : v.slotNamed .stacker (v.cursor .stacker) = false) (hfree : v.freeEntries = i :: j :: free) :
    judgePlaceBoard w1 c l v = .pass ⟨b, c, sel, i, j⟩ := by
  simp only [judgePlaceBoard, hchecks, hsel, hslot, hfree, hb]
  rfl

theorem freeEntries_distinct {u : State} {i j : Fin 32} {free : List (Fin 32)} (h : u.freeEntries = i :: j :: free) :
    i ≠ j := by
  have hnodup : u.freeEntries.Nodup := by
    unfold State.freeEntries
    exact Table.nodup_indices _ _
  rw [h, List.nodup_cons] at hnodup
  exact fun hij => hnodup.1 (by simp [hij])

/-! ### The selection (R147, R148) -/

theorem freeSlot_free {order : LaneOrder} {slots : List SlotState} {k : Nat} (h : freeSlot order slots = some k) :
    slots[k]? = some .free := by
  have hmem : k ∈ (List.range slots.length).filter fun k => slots[k]? == some .free := by
    cases order with
    | up => exact List.mem_of_mem_head? h
    | down => exact List.mem_of_getLast? h
  simpa using (List.mem_filter.1 hmem).2

/-- A selection is of a station that fills, at a FREE slot (R147). -/
structure Selects (s : State) (sel : Selection) (mag : Magazine) : Prop where
  magazine : (s.stations.get sel.station).magazine = some mag
  state    : (s.stations.get sel.station).state = .ready ∨ (s.stations.get sel.station).state = .filling
  slot     : mag.slots[sel.slot]? = some .free

theorem select_selects {s : State} {lane : Fin 16} {sel : Selection} {mag : Magazine} (h : s.select lane = some sel)
    (hmag : (s.stations.get sel.station).magazine = some mag) : Selects s sel mag := by
  obtain ⟨index, -, hat⟩ := List.exists_of_findSome?_eq_some h
  unfold State.selectAt at hat
  dsimp only at hat
  split at hat
  · cases hat
  · next i hi =>
    split at hat
    · next hu =>
      split at hat
      · next m slot hm hslot =>
        cases hat
        rw [Station.slots_of_magazine hmag] at hslot
        have hstate := (Bool.and_eq_true_iff.1 hu).1
        exact ⟨hmag, by simpa using hstate, freeSlot_free hslot⟩
      · cases hat
    · cases hat

theorem stateBySlots_reserved {slots : List SlotState} {k : Nat} (h : slots[k]? = some .free) :
    stateBySlots (slots.set k .reserved) = .filling := by
  have hlt : k < slots.length := (List.getElem?_eq_some_iff.1 h).1
  have hmem : SlotState.reserved ∈ slots.set k .reserved := List.mem_set hlt _
  have hfree : ¬∀ x ∈ slots.set k .reserved, x = .free := fun hall => by cases hall _ hmem
  have hfull : ¬∀ x ∈ slots.set k .reserved, x ≠ .free ∧ x ≠ .reserved := fun hall => (hall _ hmem).2 rfl
  rw [stateBySlots, if_neg hfree, if_neg hfull]

/-- The station of a selection, once its slot is RESERVED (R138, R148). -/
def taken (st : Station) (mag : Magazine) (slot : Nat) : Station :=
  { st with state := .filling, magazine := some { mag with slots := mag.slots.set slot .reserved } }

theorem Selects.withSlots {s : State} {sel : Selection} {mag : Magazine} (h : Selects s sel mag) :
    (s.stations.get sel.station).withSlots ((s.stations.get sel.station).slots.set sel.slot .reserved) =
      taken (s.stations.get sel.station) mag sel.slot := by
  rw [Station.slots_of_magazine h.magazine, Station.withSlots_eq h.magazine, reslotted, taken,
    stateBySlots_reserved h.slot]
  rcases h.state with hs | hs <;> rw [hs]

theorem Selects.taken_ne {s : State} {sel : Selection} {mag : Magazine} (h : Selects s sel mag) :
    s.stations.get sel.station ≠ taken (s.stations.get sel.station) mag sel.slot := by
  intro heq
  have hm := congrArg Station.magazine heq
  rw [h.magazine] at hm
  have hslots : mag.slots = mag.slots.set sel.slot .reserved := congrArg Magazine.slots (Option.some.inj hm)
  have hfree := h.slot
  have hlt : sel.slot < mag.slots.length := (List.getElem?_eq_some_iff.1 hfree).1
  rw [hslots, List.getElem?_set_self hlt] at hfree
  cases hfree

/-- The lane of a selection, once a pair more pends in it (R148). -/
def loaded (l : Lane) (index : Nat) : Lane := { l with current := index, pending := l.pending + 1 }

theorem loaded_ne (l : Lane) (index : Nat) : l ≠ loaded l index := fun h => by
  have := congrArg Lane.pending h
  simp [loaded] at this

/-- The selection has been taken into the map (R148). -/
def State.took (u : State) (sel : Selection) (mag : Magazine) : State :=
  { u with
    lanes := u.lanes.set sel.lane (loaded (u.lanes.get sel.lane) sel.index)
    stations := u.stations.set sel.station (taken (u.stations.get sel.station) mag sel.slot) }

theorem Run.Made.takeSelection {r : Run} {u : State} {ids : List ImageId} (h : r.Made u ids) {sel : Selection}
    {mag : Magazine} (hsel : Selects u sel mag) :
    ∃ more, (r.takeSelection sel).Made (u.took sel mag) (ids ++ more) ∧ .lane sel.lane ∈ more ∧
      .station sel.station ∈ more ∧ r.Owes (r.takeSelection sel) [] true := by
  have hm := h.setLane sel.lane (loaded (u.lanes.get sel.lane) sel.index)
  rw [if_neg (loaded_ne _ _)] at hm
  have hspares := Run.Spares.setLane r sel.lane (loaded (u.lanes.get sel.lane) sel.index)
  have hrun : r.takeSelection sel = ((r.setLane sel.lane (loaded (u.lanes.get sel.lane) sel.index)).setSlots sel.station
      fun slots => slots.set sel.slot .reserved).touchLanes := by
    rw [← h.shape]
    rfl
  obtain ⟨more, hm, -, hstation, -⟩ := hm.setSlots sel.station (fun slots => slots.set sel.slot .reserved)
    (new := taken (u.stations.get sel.station) mag sel.slot) hsel.withSlots
  rw [hrun]
  have hrest := hspares.rest.trans (Run.setSlots_rest (r.setLane sel.lane (loaded (u.lanes.get sel.lane) sel.index))
    sel.station fun slots => slots.set sel.slot .reserved)
  refine ⟨.lane sel.lane :: more, (hm.touchLanes.at_state ?_).congr fun id => by simp, by simp,
    List.mem_cons_of_mem _ (hstation hsel.taken_ne), hrest.answers, hrest.empties,
    hrest.events.trans (List.append_nil _).symm, by simp [Run.touchLanes]⟩
  rw [State.restationed, if_neg (fun h => by cases h.1)]
  rfl

end Sys2Proof.Machine
end

section
/-! PROOF. What an admitted PLACE makes before it posts its PRESENT (R95, R105, R106, R148). -/

namespace Sys2Proof.Machine

open Sys2Proof.Claims

/-! ### The two entries of a pair (R85, R105) -/

/-- The PLACE entry of a pair. -/
def placedEntry (u : State) (q : Request) (p : PlacePlan) (now : Time) : Entry :=
  { newEntry .picker (u.cursor .picker) (ringSequence q.data) .place p.board now with
    cup := some p.cup, dest := some p.sel.dest, partner := some p.present
    expiry := if u.limits.pair = 0 then none else some (now + BitVec.ofNat 32 u.limits.pair) }

/-- The PRESENT entry of a pair. -/
def shownEntry (u : State) (q : Request) (p : PlacePlan) (now : Time) : Entry :=
  { placedEntry u q p now with
    ring := .stacker, slot := u.cursor .stacker, kind := .present, cup := none, partner := some p.place }

/-- The entries of a pair have opened (R95, R106). -/
def State.paired (u : State) (q : Request) (p : PlacePlan) (now : Time) : State :=
  { u with
    entries := (u.entries.set p.place (some (placedEntry u q p now))).set p.present (some (shownEntry u q p now))
    order := u.order ++ [p.place, p.present]
    due := if u.limits.pair ≠ 0 ∧ u.limits.pair ≤ (u.time - now).toNat then u.due ++ [p.place, p.present] else u.due }

/-- The entries of a pair have opened, and its cup is RESERVED_OUT (R95). -/
def State.handedOut (u : State) (q : Request) (p : PlacePlan) (now : Time) : State :=
  { u.paired q p now with cups := u.cups.set p.cup ⟨.reservedOut, some p.board⟩ }

theorem State.handedOut_nest (u : State) (q : Request) (p : PlacePlan) (now : Time) (n : Nest) :
    (u.handedOut q p now).nest n = u.nest n := by cases n <;> rfl

theorem opened_pair (u : State) (q : Request) (p : PlacePlan) (now : Time) :
    (u.opened p.place (placedEntry u q p now) u.limits.pair).opened p.present (shownEntry u q p now) u.limits.pair =
      u.paired q p now := by
  have hshape : (u.opened p.place (placedEntry u q p now) u.limits.pair).opened p.present (shownEntry u q p now)
      u.limits.pair = { u with
        entries := (u.paired q p now).entries
        order := u.order ++ [p.place] ++ [p.present]
        due := if u.limits.pair ≠ 0 ∧ u.limits.pair ≤ (u.time - now).toNat then
            (if u.limits.pair ≠ 0 ∧ u.limits.pair ≤ (u.time - now).toNat then u.due ++ [p.place] else u.due) ++ [p.present]
          else if u.limits.pair ≠ 0 ∧ u.limits.pair ≤ (u.time - now).toNat then u.due ++ [p.place] else u.due } := rfl
  rw [hshape, State.paired]
  by_cases hdue : u.limits.pair ≠ 0 ∧ u.limits.pair ≤ (u.time - now).toNat
  · simp only [if_pos hdue, List.append_assoc, List.cons_append, List.nil_append]
  · simp only [if_neg hdue, List.append_assoc, List.cons_append, List.nil_append]

/-! ### The state of an admitted PLACE -/

/-- The record of a board that is being placed (R95). -/
def placingHw (p : PlacePlan) (h : BoardHw) : BoardHw :=
  { h with state := .placing, placement := some ⟨p.sel.station, p.sel.slot, p.sel.serial⟩ }

/-- An admitted PLACE, but for its PRESENT's word 0 and the cursors (R95). -/
def State.placed (u : State) (q : Request) (p : PlacePlan) (now : Time) (mag : Magazine) (k : Fin 64) (m : CacheLine) :
    State :=
  ((State.relined (u.handedOut q p now) p.board k m
    (placingHw p m.words.hw)).settledNest p.board.nest { u.nest p.board.nest with status := .dirty }).took p.sel mag

theorem relined_withNest_shape (y : State) (b : BoardRef) (k : Fin 64) (m : CacheLine) (h : BoardHw) (n : Nest)
    (c : NestContext) : (y.relined b k m h).withNest n c = { y with
      cache := ((y.relined b k m h).withNest n c).cache, recency := ((y.relined b k m h).withNest n c).recency
      walker := ((y.relined b k m h).withNest n c).walker, nestA := ((y.relined b k m h).withNest n c).nestA
      nestB := ((y.relined b k m h).withNest n c).nestB } := by cases n <;> rfl

section Placed

variable (u : State) (q : Request) (p : PlacePlan) (now : Time) (mag : Magazine) (k : Fin 64) (m : CacheLine)

theorem State.placed_shape : u.placed q p now mag k m = { u with
    entries := (u.paired q p now).entries, order := (u.paired q p now).order, due := (u.paired q p now).due
    cups := u.cups.set p.cup ⟨.reservedOut, some p.board⟩
    stations := u.stations.set p.sel.station (taken (u.stations.get p.sel.station) mag p.sel.slot)
    lanes := u.lanes.set p.sel.lane (loaded (u.lanes.get p.sel.lane) p.sel.index)
    cache := (u.placed q p now mag k m).cache, recency := (u.placed q p now mag k m).recency
    walker := (u.placed q p now mag k m).walker, nestA := (u.placed q p now mag k m).nestA
    nestB := (u.placed q p now mag k m).nestB } := by
  have hw := relined_withNest_shape (u.handedOut q p now) p.board k m (placingHw p m.words.hw) p.board.nest
    { u.nest p.board.nest with status := .dirty }
  unfold State.placed
  rw [← State.withNest_settled (by rw [State.relined_nest, State.handedOut_nest])]
  generalize State.withNest (State.relined (u.handedOut q p now) p.board k m (placingHw p m.words.hw)) p.board.nest
    { u.nest p.board.nest with status := .dirty } = w at hw ⊢
  show w.took p.sel mag = { u with
    entries := (u.paired q p now).entries, order := (u.paired q p now).order, due := (u.paired q p now).due
    cups := u.cups.set p.cup ⟨.reservedOut, some p.board⟩
    stations := u.stations.set p.sel.station (taken (u.stations.get p.sel.station) mag p.sel.slot)
    lanes := u.lanes.set p.sel.lane (loaded (u.lanes.get p.sel.lane) p.sel.index)
    cache := w.cache, recency := w.recency, walker := w.walker, nestA := w.nestA, nestB := w.nestB }
  generalize w.cache = cache, w.recency = recency, w.walker = walker, w.nestA = a, w.nestB = b at hw ⊢
  subst hw
  rfl

theorem State.placed_nest (n : Nest) : (u.placed q p now mag k m).nest n =
    if n = p.board.nest then { u.nest n with status := .dirty } else u.nest n := by
  have htook (w : State) : (w.took p.sel mag).nest n = w.nest n := by cases n <;> rfl
  rw [State.placed, htook, State.settledNest_nests, State.relined_nest]
  split
  · next h => rw [h]
  · cases n <;> rfl

theorem State.placed_rewritten (hk : u.lineOf p.board = some k) (hl : u.cache.get k = some m) :
    Rewritten u (u.placed q p now mag k m) p.board m (placingHw p m.words.hw) := by
  obtain ⟨hc, hr, hw⟩ := State.settledNest_cache (State.relined (u.handedOut q p now) p.board k m (placingHw p m.words.hw)) p.board.nest
      { u.nest p.board.nest with status := .dirty }
  exact State.relined_rewritten hk hl hc hr hw

end Placed

/-- The plan's selection, read in a state that agrees on the stations. -/
theorem Selects.of_stations {s t : State} {sel : Selection} {mag : Magazine} (h : Selects s sel mag)
    (hst : t.stations = s.stations) : Selects t sel mag :=
  ⟨by rw [hst]; exact h.magazine, by rw [hst]; exact h.state, h.slot⟩

/-- What an admitted PLACE does before it posts its PRESENT (R95). -/
theorem Run.Made.applyPlace {u : State} {q : Request} {p : PlacePlan} {r : Run} {ids : List ImageId}
    (h : r.Made u ids) {k : Fin 64} {m : CacheLine} {mag : Magazine}
    (hcup : (u.cups.get p.cup).state = .loaded) (hk : u.lineOf p.board = some k) (hl : u.cache.get k = some m)
    (hs : m.words.hw.state ≠ .placing) (hsel : Selects u p.sel mag) (now : Time) :
    ∃ more, (Machine.applyPlace q p now r).Made (u.placed q p now mag k m) (ids ++ more) ∧
      (∀ id ∈ [.entry p.place, .entry p.present, .cup p.cup, .lane p.sel.lane, .station p.sel.station,
        .nest p.board.nest], id ∈ more) ∧ r.Owes (Machine.applyPlace q p now r) [] true := by
  have hchange : placingHw p m.words.hw ≠ m.words.hw := fun heq => hs (congrArg BoardHw.state heq).symm
  have hne : (u.paired q p now).cups.get p.cup ≠ ⟨.reservedOut, some p.board⟩ := fun heq => by
    rw [show (u.paired q p now).cups.get p.cup = u.cups.get p.cup from rfl] at heq
    rw [heq] at hcup
    cases hcup
  have hm := (h.openEntry p.place (placedEntry u q p now) u.limits.pair).openEntry p.present
    (shownEntry u q p now) u.limits.pair
  rw [opened_pair] at hm
  have hm := hm.setCup p.cup ⟨.reservedOut, some p.board⟩
  rw [if_neg hne] at hm
  have hm := hm.at_state (u' := u.handedOut q p now) rfl
  obtain ⟨m1, hm, -⟩ := hm.changeCached (k := k) hk hl hchange
  rw [State.handedOut_nest] at hm
  obtain ⟨m2, hm, hlane, hstation, howes⟩ := hm.takeSelection (hsel.of_stations (t := (State.relined (u.handedOut q p now) p.board k m (placingHw p m.words.hw)).settledNest
      p.board.nest { u.nest p.board.nest with status := .dirty }) (State.settledNest_stations _ _ _))
  have hm := hm.image (.nest p.board.nest)
  have hspares := (((Run.Spares.openEntry r p.place (placedEntry u q p now) u.limits.pair).trans
    (.openEntry _ p.present (shownEntry u q p now) u.limits.pair)).trans
      (.setCup _ p.cup ⟨.reservedOut, some p.board⟩)).trans (.changeBoard _ p.board (placingHw p))
  have howes := (hspares.owes.trans howes).trans (Run.Spares.image _ (.nest p.board.nest)).owes
  have hrun : Machine.applyPlace q p now r = ((((((r.openEntry p.place (placedEntry u q p now) u.limits.pair).openEntry
      p.present (shownEntry u q p now) u.limits.pair).setCup p.cup ⟨.reservedOut, some p.board⟩).changeBoard p.board
        (placingHw p)).takeSelection p.sel).image (.nest p.board.nest)) := by
    rw [← h.shape]
    rfl
  rw [hrun]
  refine ⟨.entry p.place :: .entry p.present :: .cup p.cup :: m1 ++ m2 ++ [.nest p.board.nest],
    hm.congr fun id => by simp, fun id hid => ?_, howes⟩
  simp only [List.mem_cons, List.not_mem_nil, or_false] at hid
  rcases hid with rfl | rfl | rfl | rfl | rfl | rfl <;> simp [hlane, hstation]

end Sys2Proof.Machine
end

section
/-! PROOF. How an admitted PLACE ends: its PRESENT is posted, or the pair expires with cause MEMORY (R96, R97, R103,
R112, R113, R144 to R146). -/

namespace Sys2Proof.Machine

open Sys2Proof.Claims

/-! ### The two cursors -/

/-- The cursors after a PLACE: those of the picker and the stacker have advanced (R96). -/
def placedCursors (s : State) : Cursors :=
  (s.cursors.set .picker ((s.ring .picker).after (s.cursor .picker))).set .stacker
    ((s.ring .stacker).after (s.cursor .stacker))

theorem Run.Made.advanceBoth {s y : State} {tag : Tag} {q : Request} (hp : Posted s .picker tag q) {r : Run}
    {ids : List ImageId} (h : r.Made y ids) (hc : y.cursors = s.cursors) (hr : y.rings = s.rings) :
    ∃ more, ((r.advance .picker).advance .stacker).Made { y with cursors := placedCursors s } (ids ++ more) ∧
      .status ∈ more := by
  have hm := h.advance hp hc hr
  have hslot : State.cursor { y with cursors := advanced s .picker } .stacker = s.cursor .stacker := rfl
  have hring : State.ring { y with cursors := advanced s .picker } .stacker = s.ring .stacker := by
    rw [State.ring, State.ring, hr]
  have hm' := hm.setCursors (placedCursors s)
  have hrun : (r.advance .picker).advance .stacker = (r.advance .picker).setCursors (placedCursors s) := by
    rw [Run.advance, hm.shape, hslot, hring]
    rfl
  rw [hrun]
  exact ⟨_, hm'.congr fun id => by rw [List.append_assoc], by simp⟩

theorem Run.Spares.advanceBoth (r : Run) : r.Spares ((r.advance .picker).advance .stacker) :=
  (Spares.advance r .picker).trans (.advance _ .stacker)

/-! ### The PRESENT's word 0 (R97, R103) -/

theorem postPresent_done {q : Request} {p : PlacePlan} {a : Nat} {r : Run} (h : Answered r.answers 1) :
    postPresent q p a r = (r.write a (presentWord0 markValid (ringSequence q.data))).2 := by
  unfold postPresent
  rw [Run.write_done h]

theorem postPresent_hard {q : Request} {p : PlacePlan} {a : Nat} {r : Run} (h : ¬Answered r.answers 1) :
    postPresent q p a r = (r.write a (presentWord0 markValid (ringSequence q.data))).2.expire p.place .memory := by
  unfold postPresent
  rw [Run.write_hard h]

/-- A run that owes the settling of the lanes ends with them settled, and only the lanes and their flags depend on
it (R144, R146). -/
theorem Run.Made.endsLanes {r : Run} {y : State} {cur : Cursors} {ids : List ImageId}
    (h : r.Made { y with cursors := cur } ids) (hl : r.lanes = true) (he : r.empties = []) (hv : r.events = [])
    (hn : ids ≠ []) {tag : Tag} {t : State} (ht : r.conclude.finishHeld tag .done = t) :
    ∃ more, Ends { y with lanes := t.lanes, flags := t.flags, cursors := cur } t tag .done (ids ++ more) ∧
      (∀ k, t.lanes.get k = reevaluated t (y.lanes.get k)) ∧ LaneFlags y t y.lanes.get ∧
      FlagsBut y t [.laneStopped, .laneExhausted] := by
  obtain ⟨z, more, hends, hz, hget⟩ := h.endsSettled hl he hv hn tag .done
  rw [ht] at hends
  have hlanes := ends_same hends fun u => u.lanes
  have hflags := ends_same hends fun u => u.flags
  have hstations := ends_same hends fun u => u.stations
  refine ⟨more, ends_at hends ?_, fun k => ?_, ?_, fun f hf => ?_⟩
  · rw [hlanes, hflags]
    exact hz.shape
  · rw [hlanes, hget k]
    exact reevaluated_congr (hstations.trans hz.stations).symm _
  · exact laneFlags_congr hz.flags (fun _ _ => rfl) (fun f _ => State.flag_congr hflags f) hlanes
  · rw [State.flag_congr hflags]
    exact hz.others f hf

/-- The PRESENT's VALID mark is written, and the PLACE ends (R97). -/
theorem placed_posted {s x : State} {tag : Tag} {q : Request} (hp : Posted s .picker tag q) {r : Run}
    {ids : List ImageId} (h : r.Made x ids) {k : Fin 18} (he : x.engine = .serving k) (hc : x.cursors = s.cursors)
    (hr : x.rings = s.rings) (hl : r.lanes = true) (hempties : r.empties = []) (hevents : r.events = [])
    (hdone : Answered r.answers 1) (p : PlacePlan) (a : Nat) {y : State}
    (hy : y = x.wrote r.answers (a, presentWord0 markValid (ringSequence q.data))) {t : State}
    (ht : (((postPresent q p a r).advance .picker).advance .stacker).conclude.finishHeld tag .done = t) :
    ∃ more, Ends { y with lanes := t.lanes, flags := t.flags, cursors := placedCursors s } t tag .done (ids ++ more) ∧
      .status ∈ more ∧ (∀ k, t.lanes.get k = reevaluated t (x.lanes.get k)) ∧ LaneFlags y t x.lanes.get ∧
      FlagsBut y t [.laneStopped, .laneExhausted] := by
  have hb : x.Beside y := by rw [hy]; exact x.wrote_beside _ _
  rw [postPresent_done hdone] at ht
  obtain ⟨m1, hm, -, -, hwempties, hwevents, hwlanes⟩ := h.write he a (presentWord0 markValid (ringSequence q.data))
  generalize (r.write a (presentWord0 markValid (ringSequence q.data))).2 = w at hm hwempties hwevents hwlanes ht
  rw [emptied, hdone.next, if_neg nofun, ← hy] at hm
  obtain ⟨m2, hm, hstatus⟩ := hm.advanceBoth hp ((hb.cursors he).trans hc) ((hb.rings he).trans hr)
  have hspares := Run.Spares.advanceBoth w
  obtain ⟨m3, hends, hlanes, hlaneFlags, hbut⟩ := hm.endsLanes (hspares.lanes.trans (hwlanes.trans hl))
    (hspares.rest.empties.trans (hwempties.trans hempties)) (hspares.rest.events.trans (hwevents.trans hevents))
    (List.ne_nil_of_mem (List.mem_append_right _ hstatus)) ht
  rw [hb.lanes he] at hlanes hlaneFlags
  exact ⟨m1 ++ m2 ++ m3, by simpa only [List.append_assoc] using hends, by simp [hstatus], hlanes, hlaneFlags, hbut⟩

/-! ### The pair expires with cause MEMORY (R103, R112, R113) -/

theorem noted_cursors (u : State) (src : Source) (capture : Capture) (cur : Cursors) :
    noted { u with cursors := cur } src capture = { noted u src capture with cursors := cur } := by
  unfold noted
  show (match u.captureOf src with | none => _ | some _ => _) = _
  cases u.captureOf src <;> rfl

theorem PairExpired.withCursors {u y : State} {p r : Fin 32} {place present : Entry} {d : Destination} {c : Fin 4}
    {cause : ExpiryCause} (h : PairExpired u y p r place present d c cause) (cur : Cursors) :
    PairExpired { u with cursors := cur } { y with cursors := cur } p r place present d c cause := by
  refine ⟨?_, ?_, h.uncertain, h.station, ⟨h.laneFlags.stopped, h.laneFlags.exhausted⟩, h.others⟩
  · have hshape := h.shape
    generalize y.flags = flags, y.cache = cache, y.recency = recency, y.walker = walker, y.nestA = a, y.nestB = b
      at hshape ⊢
    subst hshape
    rfl
  · exact h.records.trans (State.rewritten_records (u := u) (v := { u with cursors := cur }) rfl _ _).symm

/-- A run that has made a pair expire ends with its capture filled and the lanes settled (R112, R113, R144). -/
theorem PairExpired.endsHeld {u y : State} {run : Run} {ids : List ImageId} {p r : Fin 32} {place present : Entry}
    {d : Destination} {c : Fin 4} {cause : ExpiryCause} {ev : Event} {k : Fin 18}
    (hy : PairExpired u y p r place present d c cause) (hm : run.Made y ids) (he : y.engine = .serving k)
    (hl : run.lanes = true) (hempties : run.empties = []) (hevents : run.events = [ev]) (hn : ids ≠ [])
    {tag : Tag} {t : State} (ht : run.conclude.finishHeld tag .done = t) :
    ∃ more, Ends { noted (expiredPair u p r place present d c cause) ev.source
          ⟨ev.cause, ev.sect, ev.cycle, ev.refs, u.time⟩ with
        lanes := t.lanes, flags := t.flags, cache := t.cache, recency := t.recency, walker := t.walker
        nestA := t.nestA, nestB := t.nestB } t tag .done (ids ++ more) ∧
      t.records = y.records ∧ PairGone u t d [.capture ev.source] ∧
      (u.captureOf ev.source = none → t.flag (.capture ev.source) = true) := by
  obtain ⟨z, laneIds, marked, hc, hz, hget, -, -⟩ := hm.concludes he
  have hget := hget hl
  rw [Run.marks, hempties, hevents, List.map_nil] at hc
  have hends := hc.ends (by simp [hn]) tag .done
  rw [ht] at hends
  have htime : z.time = u.time := by rw [hz.shape, hy.shape]; rfl
  have hev : [ev].foldl State.handed z = noted z ev.source ⟨ev.cause, ev.sect, ev.cycle, ev.refs, u.time⟩ := by
    simp only [List.foldl_cons, List.foldl_nil, State.handed, htime]
  have hends := ends_at hends hev
  have hrec := ends_same hends fun u => u.records
  have hlanes := ends_same hends fun u => u.lanes
  have hflags := ends_same hends fun u => u.flags
  have hstations := ends_same hends fun u => u.stations
  have hzr : z.records = y.records := (congrArg State.records hz.shape).trans rfl
  refine ⟨_, ends_at (by simp only [List.append_assoc] at hends; exact hends)
    (noted_of_lanes _ _ (hz.shape_of hy.shape) hrec hlanes hflags), hrec.trans ((noted_records _ _ _).trans hzr),
    hy.gone hz hget (hlanes.trans (noted_lanes _ _ _)) (hstations.trans (noted_stations _ _ _)) (by simp)
      fun f hf => ?_, fun hcap => ?_⟩
  · rw [State.flag_congr hflags]
    exact noted_flag_other (by simpa using hf)
  · have hzc : z.captureOf ev.source = none := by rw [← hcap, hz.shape, hy.shape]; rfl
    rw [State.flag_congr hflags, noted_flag]
    exact .inr ⟨hzc, rfl⟩

/-- Memory answers the PRESENT's word 0 HARD: the pair expires, and the PLACE ends (R103, R112, R113). -/
theorem placed_expired {s x : State} {tag : Tag} {q : Request} (hp : Posted s .picker tag q) {r : Run}
    {ids : List ImageId} (h : r.Made x ids) {k : Fin 18} (he : x.engine = .serving k) (hc : x.cursors = s.cursors)
    (hr : x.rings = s.rings) (hempties : r.empties = []) (hevents : r.events = [])
    (hhard : ¬Answered r.answers 1) {p : PlacePlan} (a : Nat) {place present : Entry} {d : Destination}
    (hpair : Pair x p.place p.present place present d p.cup) (hstored : place.stored = none) {y : State}
    (hy : y = x.awaitNext r.answers) {t : State}
    (ht : (((postPresent q p a r).advance .picker).advance .stacker).conclude.finishHeld tag .done = t) :
    ∃ more, Ends { noted (expiredPair { y with flags := y.flags ||| Flag.memory.bits } p.place p.present place present d
            p.cup .memory) .picker ⟨.memory, none, none, expiryRefs place p.place (some p.cup), y.time⟩ with
        lanes := t.lanes, flags := t.flags, cursors := placedCursors s, cache := t.cache, recency := t.recency
        walker := t.walker, nestA := t.nestA, nestB := t.nestB } t tag .done (ids ++ more) ∧
      .status ∈ more ∧ Lost y t place.board .memory ∧ t.flag .memory = true ∧
      (y.captureOf .picker = none → t.flag (.capture .picker) = true) ∧
      PairGone y t d [.memory, .capture .picker] := by
  have hb : x.Beside y := by rw [hy]; exact x.awaitNext_beside _
  rw [postPresent_hard hhard] at ht
  obtain ⟨m1, hm, -, -, hwempties, hwevents, -⟩ := h.write he a (presentWord0 markValid (ringSequence q.data))
  generalize (r.write a (presentWord0 markValid (ringSequence q.data))).2 = w at hm hwempties hwevents ht
  rw [emptied, Answered.next_not hhard, if_pos rfl, ← hy] at hm
  have hentries : y.entries = x.entries := hb.entries he
  have hpair' : Pair { y with flags := y.flags ||| Flag.memory.bits } p.place p.present place present d p.cup :=
    ⟨hpair.distinct, hentries.symm ▸ hpair.atPlace, hentries.symm ▸ hpair.atPresent, hpair.kinds, hpair.board,
      hpair.linked, hpair.dest, hpair.cup⟩
  have hh : Half p.place p.present place present p.place p.present place present := ⟨.inl ⟨rfl, rfl, rfl, rfl⟩⟩
  have hexpire : w.expire p.place .memory = (w.expireBoth p.place p.present place present d p.cup .memory).keepEvent
      (pairEvent place p.place place p.cup .memory) := by
    have hw : w.st.entries.get p.place = some place := by rw [hm.shape]; exact hpair'.atPlace
    rw [Run.expire, hw]
    simp only
    rw [if_pos (by rw [hpair.kinds.1]; rfl)]
    exact Run.expirePair_eq (by rw [hm.shape]; exact hpair') hh .memory
  have hev : pairEvent place p.place place p.cup .memory =
      ⟨.picker, .memory, none, none, expiryRefs place p.place (some p.cup)⟩ := by
    rw [pairEvent, missing, if_pos hstored]
    rfl
  rw [hexpire, hev] at ht
  obtain ⟨v, m2, hm, hv, -, -, -⟩ := hm.expireBoth hpair' hh .memory
  have howes := (w.expireBoth_owes p.place p.present place present d p.cup .memory).keepEvent
    ⟨.picker, .memory, none, none, expiryRefs place p.place (some p.cup)⟩
  have hm := hm.keepEvent ⟨.picker, .memory, none, none, expiryRefs place p.place (some p.cup)⟩
  generalize (w.expireBoth p.place p.present place present d p.cup .memory).keepEvent
    ⟨.picker, .memory, none, none, expiryRefs place p.place (some p.cup)⟩ = g at hm howes ht
  have hvc : v.cursors = s.cursors := by rw [hv.shape]; exact (hb.cursors he).trans hc
  have hvr : v.rings = s.rings := by rw [hv.shape]; exact (hb.rings he).trans hr
  have hve : v.engine = .serving k := by rw [hv.shape]; exact hb.engine he
  obtain ⟨m3, hm, hstatus⟩ := hm.advanceBoth hp hvc hvr
  have hspares := Run.Spares.advanceBoth g
  obtain ⟨m4, hends, hrec, hgone, hcap⟩ := (hv.withCursors (placedCursors s)).endsHeld hm hve
    (hspares.lanes.trans (by rw [howes.lanes]; simp))
    (hspares.rest.empties.trans (howes.empties.trans (hwempties.trans hempties)))
    (hspares.rest.events.trans (by rw [howes.events, hwevents, hevents]; rfl))
    (List.ne_nil_of_mem (List.mem_append_right _ hstatus)) ht
  have hraised (f : Flag) : State.flag { y with flags := y.flags ||| Flag.memory.bits } f = true ↔
      y.flag f = true ∨ f = .memory := State.flag_raised (s := y) (f := .memory) rfl f
  have hsame (f : Flag) (hf : f ≠ .memory) : State.flag { y with flags := y.flags ||| Flag.memory.bits } f = y.flag f := by
    rw [Bool.eq_iff_iff, hraised]
    simp [hf]
  have hmemory : t.flag .memory = true := by
    rw [hgone.others .memory (by simp)]
    exact (hraised .memory).2 (.inr rfl)
  refine ⟨m1 ++ m2 ++ m3 ++ m4, ends_at (by simpa only [List.append_assoc] using hends) ?_, by simp [hstatus],
    lost_of_records (hrec.trans (hv.records.trans (State.rewritten_records (u := y)
      (v := { y with flags := y.flags ||| Flag.memory.bits }) rfl _ _))), hmemory, hcap, ?_⟩
  · have hcur : expiredPair { ({ y with flags := y.flags ||| Flag.memory.bits } : State) with
        cursors := placedCursors s } p.place p.present place present d p.cup .memory =
        { expiredPair { y with flags := y.flags ||| Flag.memory.bits } p.place p.present place present d p.cup .memory with
          cursors := placedCursors s } := rfl
    rw [hcur, noted_cursors]
  · refine ⟨hgone.lanes, hgone.uncertain, ?_, ?_, fun f hf => ?_⟩
    · rw [hgone.station]
      exact or_congr (iff_of_eq (congrArg (· = true) (hsame .stationChange nofun))) Iff.rfl
    · exact laneFlags_congr hgone.laneFlags (fun f hf => (hsame f fun h => by
        rw [h] at hf
        exact hf.elim nofun nofun).symm) (fun _ _ => rfl) rfl
    · simp only [List.cons_append, List.mem_cons, not_or] at hf
      obtain ⟨hfm, hf⟩ := hf
      rw [hgone.others f (by simpa using hf)]
      exact hsame f hfm

/-! ### The statement -/

/-- The pair that an admitted PLACE opens. -/
theorem placed_pair {u : State} {q : Request} {p : PlacePlan} (now : Time) (h : p.place ≠ p.present) {x : State}
    (hx : x.entries = (u.paired q p now).entries) :
    Pair x p.place p.present (placedEntry u q p now) (shownEntry u q p now) p.sel.dest p.cup where
  distinct := h
  atPlace := by
    rw [hx, State.paired, Table.get_set_ne _ _ h, Table.get_set_self]
  atPresent := by
    rw [hx, State.paired, Table.get_set_self]
  kinds := ⟨rfl, rfl⟩
  board := rfl
  linked := ⟨rfl, rfl⟩
  dest := ⟨rfl, rfl⟩
  cup := ⟨rfl, rfl⟩

/-- Settles O23. -/
theorem placeIsAdmitted : Obligations.PlaceIsAdmitted := by
  unfold Obligations.PlaceIsAdmitted
  intro s v tag q answers rest b l m c sel mag i j free hp hrow ha hc hcup hfetch hstate hgrade hlane hkind hopen hsel
    hmag hslot hfree _ limit a seq expiry dest place present writes u last cursors
  obtain ⟨n, he⟩ := serving_of_held hp.inHand
  have hwaited : (s.waited answers 3).cups.get c = ⟨.loaded, some b⟩ := by
    rw [(s.waited_beside answers 3).cups he]; exact hcup
  have hb := fetched_board hfetch
  have hj : Physical.judge .place (word1 s answers q) (Run.start (s.waited answers 3) (answers.drop 3)) =
      (.pass ⟨b, c, sel, i, j⟩, Run.start v rest) := (withCup_found hc hwaited hfetch).trans
    (congrArg (·, Run.start v rest) (judgePlaceBoard_granted hb (placeChecks_pass hb hgrade hlane hkind hopen) hsel
      hslot hfree))
  have hv : s.Beside v := (admitted_exec (kind := .place) hp nofun hrow ha hj rfl).1
  have hvc : v.cursors = s.cursors := hv.cursors he
  have hvr : v.rings = s.rings := hv.rings he
  have hring : v.ring .stacker = s.ring .stacker := by rw [State.ring, State.ring, hvr]
  have hcursor (ring : CmdRing) : v.cursor ring = s.cursor ring := by rw [State.cursor, State.cursor, hvc]
  have hg : Physical.grant .place q ⟨b, c, sel, i, j⟩ (Run.start v rest) = (Run.start v rest).writing writes fun r =>
      (.done, ((postPresent q ⟨b, c, sel, i, j⟩ a (Machine.applyPlace q ⟨b, c, sel, i, j⟩ v.time r)).advance
        .picker).advance .stacker) := by
    show (Run.start v rest).writing [((v.ring .stacker).slotAddr (v.cursor .stacker) + 8,
          presentWord1 sel.station sel.slot sel.serial sel.pitch),
        ((v.ring .stacker).slotAddr (v.cursor .stacker) + 16, presentWord2 b (v.cursor .picker)),
        ((v.ring .stacker).slotAddr (v.cursor .stacker) + 24, verdictAdmitted (some j) v.time),
        (q.word 2, placeTranslation sel.station sel.slot (v.cursor .stacker)),
        (q.word 3, verdictAdmitted (some i) v.time), (q.word 0, q.data)]
      (fun r => (.done, ((postPresent q ⟨b, c, sel, i, j⟩ ((v.ring .stacker).slotAddr (v.cursor .stacker))
        (Machine.applyPlace q ⟨b, c, sel, i, j⟩ v.time r)).advance .picker).advance .stacker)) = _
    rw [hring, hcursor, hcursor]
  refine ⟨admitted_breaks (kind := .place) hp nofun hrow ha hj hg, fun hdone hcached hwords => ?_⟩
  obtain ⟨hexec, -, hu⟩ := admitted_done (kind := .place) hp nofun hrow ha hj hg hdone
  have hu : s.Beside u := hu
  have hue : u.entries = v.entries := (hu.entries he).trans (hv.entries he).symm
  have huc : u.cups = v.cups := (hu.cups he).trans (hv.cups he).symm
  have hust : u.stations = v.stations := (hu.stations he).trans (hv.stations he).symm
  have hulanes : u.lanes = v.lanes := (hu.lanes he).trans (hv.lanes he).symm
  have hlimit : u.limits.pair = limit := by rw [hu.limits he, ← hv.limits he]
  have hucursor (ring : CmdRing) : u.cursor ring = s.cursor ring := by rw [State.cursor, State.cursor, hu.cursors he]
  have horder : u.order = v.order := (hu.order he).trans (hv.order he).symm
  obtain ⟨k, hk, hl, -⟩ := State.cached_some hcached
  have hselects : Selects u sel mag := (select_selects hsel hmag).of_stations hust
  obtain ⟨more, hm, hmem, howes⟩ := (Run.Made.started ((hu.mode he).trans hp.guarded)
    (rest.drop writes.length)).applyPlace (q := q) (p := ⟨b, c, sel, i, j⟩) (by rw [hu.cups he, hcup]) hk hl
    (by rw [hwords, hstate]; exact nofun) hselects v.time
  have hplace : placedEntry u q ⟨b, c, sel, i, j⟩ v.time = place := by
    rw [placedEntry, hlimit, hucursor]
    rfl
  have hpresent : shownEntry u q ⟨b, c, sel, i, j⟩ v.time = present := by
    rw [shownEntry, hplace, hucursor]
  have hshape := u.placed_shape q ⟨b, c, sel, i, j⟩ v.time mag k m
  have hnest := u.placed_nest q ⟨b, c, sel, i, j⟩ v.time mag k m
  have hrewritten := u.placed_rewritten q ⟨b, c, sel, i, j⟩ v.time mag k m hk hl
  have hpair := placed_pair (u := u) (q := q) (p := ⟨b, c, sel, i, j⟩) v.time (freeEntries_distinct hfree)
    (x := u.placed q ⟨b, c, sel, i, j⟩ v.time mag k m) ((congrArg State.entries hshape).trans rfl)
  have hxe : (u.placed q ⟨b, c, sel, i, j⟩ v.time mag k m).engine = .serving n :=
    (congrArg State.engine hshape).trans (hu.engine he)
  have hxc : (u.placed q ⟨b, c, sel, i, j⟩ v.time mag k m).cursors = s.cursors :=
    (congrArg State.cursors hshape).trans (hu.cursors he)
  have hxr : (u.placed q ⟨b, c, sel, i, j⟩ v.time mag k m).rings = s.rings :=
    (congrArg State.rings hshape).trans (hu.rings he)
  have hexec : exec (.place answers) s = .next ((((postPresent q ⟨b, c, sel, i, j⟩ a
    (Machine.applyPlace q ⟨b, c, sel, i, j⟩ v.time (Run.start u (rest.drop writes.length)))).advance
      .picker).advance .stacker).conclude.finishHeld tag .done) := hexec
  have hparts : (u.paired q ⟨b, c, sel, i, j⟩ v.time).entries = (v.entries.set i (some place)).set j (some present) ∧
      (u.paired q ⟨b, c, sel, i, j⟩ v.time).order = v.order ++ [i, j] ∧
      (u.paired q ⟨b, c, sel, i, j⟩ v.time).due =
        if limit ≠ 0 ∧ limit ≤ (u.time - v.time).toNat then u.due ++ [i, j] else u.due := by
    rw [State.paired, hplace, hpresent, hue, horder, hlimit]
    exact ⟨rfl, rfl, rfl⟩
  rw [hparts.1, hparts.2.1, hparts.2.2, huc, hust, hulanes] at hshape
  rw [hplace, hpresent] at hpair
  generalize u.placed q ⟨b, c, sel, i, j⟩ v.time mag k m = x at hm hshape hnest hrewritten hpair hxe hxc hxr
  generalize Machine.applyPlace q ⟨b, c, sel, i, j⟩ v.time (Run.start u (rest.drop writes.length)) = R
    at hm howes hexec
  obtain ⟨t, ht⟩ : ∃ t, (((postPresent q ⟨b, c, sel, i, j⟩ a R).advance .picker).advance
    .stacker).conclude.finishHeld tag .done = t := ⟨_, rfl⟩
  rw [ht] at hexec
  have hanswers : R.answers = last := howes.answers
  rw [hwords] at hrewritten
  have himages {more' : List ImageId} (hstatus : .status ∈ more') : ∀ id ∈ [.entry i, .entry j, .cup c, .lane sel.lane,
      .station sel.station, .nest b.nest, .status], id ∈ [] ++ more ++ more' := fun id hid => by
    have hid' : id ∈ [ImageId.entry i, .entry j, .cup c, .lane sel.lane, .station sel.station, .nest b.nest] ∨
        id = .status := by simpa [or_assoc] using hid
    rcases hid' with h | rfl
    · exact List.mem_append_left _ (List.mem_append_right _ (hmem id h))
    · exact List.mem_append_right _ hstatus
  refine ⟨x, t, hexec, hshape, hrewritten, hnest, fun hlast => ?_, fun hlast => ?_⟩
  · obtain ⟨more', hends, hstatus, hlanes, hflags, hbut⟩ := placed_posted hp hm hxe hxc hxr howes.lanes howes.empties
      howes.events (hanswers ▸ hlast) ⟨b, c, sel, i, j⟩ a rfl ht
    rw [hanswers] at hends hflags hbut
    exact ⟨⟨_, himages hstatus, hends⟩, hlanes, hflags, hbut⟩
  · obtain ⟨more', hends, hstatus, hlost, hmemory, hcap, hgone⟩ := placed_expired hp hm hxe hxc hxr howes.empties
      howes.events (hanswers ▸ hlast) a hpair rfl rfl ht
    rw [hanswers] at hends hlost hcap hgone
    exact ⟨⟨_, himages hstatus, hends⟩, hlost, hmemory, hcap, hgone⟩

end Sys2Proof.Machine
end

section
/-! PROOF. The removal of several entries at once, with their EMPTY marks and the claims of their nests (R66, R80,
R121). -/

namespace Sys2Proof.Machine

open Sys2Proof.Claims

/-! ### The table without some entries -/

/-- Some entries have been removed from the table (R121). -/
def withoutAll (u : State) (l : List (Fin 32)) : State := l.foldl without u

theorem withoutAll_shape (u : State) (l : List (Fin 32)) : withoutAll u l = { u with
    entries := (withoutAll u l).entries, order := (withoutAll u l).order, due := (withoutAll u l).due } := by
  induction l generalizing u with
  | nil => rfl
  | cons i l ih => exact ih (without u i)

theorem withoutAll_entries (u : State) (l : List (Fin 32)) (k : Fin 32) :
    (withoutAll u l).entries.get k = if k ∈ l then none else u.entries.get k := by
  induction l generalizing u with
  | nil => simp [withoutAll]
  | cons i l ih =>
    refine (ih (without u i)).trans ?_
    show (if k ∈ l then none else (u.entries.set i none).get k) = _
    rw [Table.get_set]
    by_cases hk : k = i <;> simp [hk]

theorem withoutAll_order {u : State} (h : u.order.Nodup) (l : List (Fin 32)) (k : Fin 32) :
    k ∈ (withoutAll u l).order ↔ k ∈ u.order ∧ k ∉ l := by
  induction l generalizing u with
  | nil => simp [withoutAll]
  | cons i l ih =>
    refine (ih (u := without u i) (h.erase i)).trans ?_
    show k ∈ u.order.erase i ∧ k ∉ l ↔ _
    rw [h.mem_erase_iff, List.mem_cons]
    tauto

theorem withoutAll_due {u : State} (h : u.due.Nodup) (l : List (Fin 32)) (k : Fin 32) :
    k ∈ (withoutAll u l).due ↔ k ∈ u.due ∧ k ∉ l := by
  induction l generalizing u with
  | nil => simp [withoutAll]
  | cons i l ih =>
    refine (ih (u := without u i) (h.erase i)).trans ?_
    show k ∈ u.due.erase i ∧ k ∉ l ↔ _
    rw [h.mem_erase_iff, List.mem_cons]
    tauto

theorem withoutAll_settledNest (u : State) (l : List (Fin 32)) (n : Nest) (c : NestContext) :
    withoutAll (u.settledNest n c) l = (withoutAll u l).settledNest n c := by
  induction l generalizing u with
  | nil => rfl
  | cons i l ih =>
    show withoutAll (without (u.settledNest n c) i) l = _
    rw [without_settledNest]
    exact ih (without u i)

theorem withoutAll_nest (u : State) (l : List (Fin 32)) (n : Nest) : (withoutAll u l).nest n = u.nest n := by
  rw [withoutAll_shape]
  cases n <;> rfl

/-! ### The marks that the removed entries leave -/

/-- The EMPTY marks that the removal of some entries leaves to be written (R80). -/
def marksOf (s : State) (l : List (Fin 32)) : List (Nat × BitVec 8) :=
  l.flatMap fun i => (s.entries.get i).toList.flatMap Entry.mark

theorem Run.Made.freeEntries {r : Run} {u : State} {ids : List ImageId} (h : r.Made u ids) (l : List (Fin 32))
    (hn : l.Nodup) (he : ∀ i ∈ l, (u.entries.get i).isSome) :
    (l.foldl Run.freeEntry r).Made (withoutAll u l) (ids ++ l.map .entry) ∧
      r.Removes (l.foldl Run.freeEntry r) (marksOf u l) := by
  induction l generalizing r u ids with
  | nil => exact ⟨h.congr (by simp), rfl, by simp [marksOf], rfl, rfl⟩
  | cons i l ih =>
    obtain ⟨hi, hn⟩ := List.nodup_cons.1 hn
    obtain ⟨e, hentry⟩ := Option.isSome_iff_exists.1 (he i List.mem_cons_self)
    have hother {k : Fin 32} (hk : k ∈ l) : (without u i).entries.get k = u.entries.get k :=
      Table.get_set_ne _ _ fun hki => hi (hki ▸ hk)
    obtain ⟨hm, hr⟩ := h.freeEntry hentry
    obtain ⟨hm, hr'⟩ := ih hm hn fun k hk => by
      rw [hother hk]
      exact he k (List.mem_cons_of_mem _ hk)
    have hmarks : marksOf (without u i) l = marksOf u l := by
      unfold marksOf
      exact List.flatMap_congr fun k hk => by rw [hother hk]
    rw [hmarks] at hr'
    refine ⟨hm.congr fun id => by simp, hr'.answers.trans hr.answers, ?_, hr'.events.trans hr.events,
      hr'.lanes.trans hr.lanes⟩
    rw [List.foldl_cons, hr'.empties, hr.empties, marksOf, marksOf, List.flatMap_cons, hentry]
    simp

/-- The marks of the entries that a test picks out of the list, as the statements write them (R80). -/
theorem marksOf_filter (s : State) (gone : Entry → Bool) :
    (marksOf s (s.order.filter fun i => (s.entries.get i).any gone)).map
        (fun p => (s.stackerRing.slotAddr p.1, presentWord0 0 p.2)) = emptyMarks s gone := by
  unfold marksOf emptyMarks
  induction s.order with
  | nil => rfl
  | cons i l ih =>
    rw [List.filterMap_cons, List.filter_cons, ← ih]
    cases he : s.entries.get i with
    | none => simp
    | some e =>
      by_cases hg : gone e = true
      · by_cases hk : e.kind = .present
        · simp [he, hg, hk, Entry.mark, emptyMark]
        · simp [he, hg, hk, Entry.mark]
      · simp [hg]

/-! ### The claims -/

/-- Entries of one nest: its claim is re-evaluated where one of them is a CUT or a PICK (R66). -/
theorem State.claimedBy_nest {s : State} {ids : List (Fin 32)} {n : Nest}
    (h : ∀ i ∈ ids, ∀ e, s.entries.get i = some e → e.board.nest = n) [Decidable (∃ i ∈ ids, ∃ e,
      s.entries.get i = some e ∧ (e.kind = .cut ∨ e.kind = .pick))] :
    s.claimedBy ids = if ∃ i ∈ ids, ∃ e, s.entries.get i = some e ∧ (e.kind = .cut ∨ e.kind = .pick) then [n]
      else [] := by
  have hp (n' : Nest) : (ids.any fun i => (s.entries.get i).any fun e => e.kind.claims && e.board.nest == n') = true ↔
      n' = n ∧ ∃ i ∈ ids, ∃ e, s.entries.get i = some e ∧ (e.kind = .cut ∨ e.kind = .pick) := by
    simp only [List.any_eq_true, Option.any_eq_true, Bool.and_eq_true, beq_iff_eq, EntryKind.claims_iff]
    constructor
    · rintro ⟨i, hi, e, he, hk, rfl⟩
      exact ⟨h i hi e he, i, hi, e, he, hk⟩
    · rintro ⟨rfl, i, hi, e, he, hk⟩
      exact ⟨i, hi, e, he, hk, h i hi e he⟩
  unfold State.claimedBy
  by_cases hex : ∃ i ∈ ids, ∃ e, s.entries.get i = some e ∧ (e.kind = .cut ∨ e.kind = .pick)
  · rw [if_pos hex]
    cases n with
    | a => simp only [List.filter_cons, (hp .a).2 ⟨rfl, hex⟩, if_true, List.filter_nil,
        if_neg fun hb => Nest.noConfusion ((hp .b).1 hb).1]
    | b => simp only [List.filter_cons, (hp .b).2 ⟨rfl, hex⟩, if_true, List.filter_nil,
        if_neg fun ha => Nest.noConfusion ((hp .a).1 ha).1]
  · rw [if_neg hex]
    simp only [List.filter_cons, List.filter_nil, if_neg fun ha => hex ((hp .a).1 ha).2,
      if_neg fun hb => hex ((hp .b).1 hb).2]

end Sys2Proof.Machine
end

section
/-! PROOF. What RESOLVE does to its board, the table, the cups, the slot and the nest (R65, R67, R121, R138, R161 to
R164). -/

namespace Sys2Proof.Machine

open Sys2Proof.Claims

/-! ### Steps on a nest that has changed -/

theorem State.settledNest_cups (u : State) (n : Nest) (c : NestContext) (cups : Table 4 Cup) :
    { u.settledNest n c with cups := cups } = State.settledNest { u with cups := cups } n c := by cases n <;> rfl

theorem State.restationed_settledNest {w : State} {n : Nest} {c : NestContext} (h : c.state = (w.nest n).state)
    (i : Fin 8) (new : Station) :
    (w.settledNest n c).restationed i new = (w.restationed i new).settledNest n c := by
  have h' : c.state = ((w.restationed i new).nest n).state := h.trans (by cases n <;> rfl)
  rw [← State.withNest_settled h, ← State.withNest_settled h']
  cases n <;> rfl

theorem State.restationed_nest (w : State) (i : Fin 8) (new : Station) (n : Nest) :
    (w.restationed i new).nest n = w.nest n := by cases n <;> rfl

/-- What the removal of entries, and what goes with it, leaves of a run's duties. -/
structure Run.Leaves (r r' : Run) (marks : List (Nat × BitVec 8)) (touched : Bool) : Prop where
  answers : r'.answers = r.answers
  empties : r'.empties = r.empties ++ marks
  events  : r'.events = r.events
  lanes   : r'.lanes = (r.lanes || touched)

theorem Run.Removes.leaves {r r' : Run} {marks : List (Nat × BitVec 8)} (h : r.Removes r' marks) :
    r.Leaves r' marks false :=
  ⟨h.answers, h.empties, h.events, h.lanes.trans (Bool.or_false _).symm⟩

theorem Run.Leaves.owes {r r' r'' : Run} {marks : List (Nat × BitVec 8)} {x y : Bool} (h : r.Leaves r' marks x)
    (k : r'.Owes r'' [] y) : r.Leaves r'' marks (x || y) :=
  ⟨k.answers.trans h.answers, k.empties.trans h.empties, k.events.trans ((List.append_nil _).trans h.events),
    by rw [k.lanes, h.lanes, Bool.or_assoc]⟩

theorem Run.Leaves.spares {r r' r'' : Run} {marks : List (Nat × BitVec 8)} {x : Bool} (h : r.Leaves r' marks x)
    (k : r'.Spares r'') : r.Leaves r'' marks x := by
  simpa using h.owes k.owes

theorem Run.Spares.leaves {r r' r'' : Run} {marks : List (Nat × BitVec 8)} {x : Bool} (h : r.Spares r')
    (k : r'.Leaves r'' marks x) : r.Leaves r'' marks x :=
  ⟨k.answers.trans h.rest.answers, by rw [k.empties, h.rest.empties], k.events.trans h.rest.events,
    by rw [k.lanes, h.lanes]⟩

theorem Run.SameRest.touchLanes {r r' : Run} (h : r.SameRest r') : r.Owes r'.touchLanes [] true :=
  ⟨h.answers, h.empties, h.events.trans (List.append_nil _).symm, by simp [Run.touchLanes]⟩

/-- Entries of one nest are removed, and its claim is re-evaluated where one was a CUT or a PICK (R66, R121). -/
theorem Run.Made.removeSettledAll {r : Run} {w : State} {n : Nest} {c : NestContext} {ids : List ImageId}
    (h : r.Made (w.settledNest n c) ids) {l : List (Fin 32)} (hn : l.Nodup) (he : ∀ i ∈ l, (w.entries.get i).isSome)
    (hnest : ∀ i ∈ l, ∀ e, w.entries.get i = some e → e.board.nest = n) :
    ∃ claim more, (r.removeEntries l).Made ((withoutAll w l).settledNest n { c with claim := claim })
        (ids ++ l.map .entry ++ more) ∧
      ((∃ i ∈ l, ∃ e, w.entries.get i = some e ∧ (e.kind = .cut ∨ e.kind = .pick)) →
        claim = (withoutAll w l).claimOf n) ∧
      ((¬∃ i ∈ l, ∃ e, w.entries.get i = some e ∧ (e.kind = .cut ∨ e.kind = .pick)) → claim = c.claim) ∧
      r.Removes (r.removeEntries l) (marksOf w l) := by
  classical
  have hentries : (w.settledNest n c).entries = w.entries := State.settledNest_entries _ _ _
  obtain ⟨hm, hr⟩ := h.freeEntries l hn (by rw [hentries]; exact he)
  rw [withoutAll_settledNest] at hm
  rw [marksOf, hentries, ← marksOf] at hr
  have hclaimed : r.st.claimedBy l = if ∃ i ∈ l, ∃ e, w.entries.get i = some e ∧ (e.kind = .cut ∨ e.kind = .pick) then
      [n] else [] := by
    rw [h.shape, State.claimedBy_nest (n := n) (by rw [hentries]; exact hnest), hentries]
  unfold Run.removeEntries
  simp only [hclaimed]
  by_cases hex : ∃ i ∈ l, ∃ e, w.entries.get i = some e ∧ (e.kind = .cut ∨ e.kind = .pick)
  · rw [if_pos hex]
    obtain ⟨more, hm⟩ := hm.reclaimSettled
    exact ⟨_, more, hm, fun _ => rfl, fun hno => absurd hex hno, hr.spares (.reclaim _ n)⟩
  · rw [if_neg hex]
    exact ⟨c.claim, [], hm.congr fun id => by simp, fun hyes => absurd hyes hex, fun _ => rfl, hr⟩

/-! ### The cups and the slot (R138, R164) -/

/-- Whether a RESOLVE touches the lanes: the target STACKED does (R144). -/
def touches : Resolution → Bool
  | .stacked _ _ _ => true
  | .derived _ _ | .held _ | .scrapped | .lost => false

/-- The slot of a board that is resolved as STACKED is OCCUPIED (R138, R164). -/
def State.slotted (w : State) : Resolution → State
  | .stacked i slot _ =>
    w.restationed i ((w.stations.get i).withSlots ((w.stations.get i).slots.set slot .occupied))
  | .derived _ _ | .held _ | .scrapped | .lost => w

theorem State.slotted_shape (w : State) (x : Resolution) : w.slotted x = { w with
    stations := (w.slotted x).stations, flags := (w.slotted x).flags } := by cases x <;> rfl

theorem State.slotted_nest (w : State) (x : Resolution) (n : Nest) : (w.slotted x).nest n = w.nest n := by
  rw [State.slotted_shape]
  cases n <;> rfl

theorem State.slotted_flag (w : State) (x : Resolution) (f : Flag) : (w.slotted x).flag f = true ↔
    w.flag f = true ∨ (f = .stationChange ∧
      ∃ i, ((w.slotted x).stations.get i).state = .full ∧ (w.stations.get i).state ≠ .full) := by
  have hsame : ¬∃ i, (w.stations.get i).state = .full ∧ (w.stations.get i).state ≠ .full :=
    fun ⟨_, h, h'⟩ => h' h
  cases x with
  | stacked i slot serial =>
    have hget (j : Fin 8) (new : Station) : ((w.restationed i new).stations.get j) =
        if j = i then new else w.stations.get j := Table.get_set _ _ _ _
    show (w.restationed i _).flag f = true ↔ _ ∨ (_ ∧ ∃ j, ((w.restationed i _).stations.get j).state = _ ∧ _)
    rw [State.restationed_flag]
    refine or_congr Iff.rfl ⟨fun ⟨hfull, hf⟩ => ⟨hf, i, by rw [hget, if_pos rfl]; exact hfull.1, hfull.2⟩, ?_⟩
    rintro ⟨hf, j, hj, hnot⟩
    rw [hget] at hj
    split at hj
    · next hji =>
      subst hji
      exact ⟨⟨hj, hnot⟩, hf⟩
    · exact absurd hj hnot
  | derived _ _ => exact ⟨.inl, fun h => h.elim id fun ⟨_, h⟩ => absurd h hsame⟩
  | held _ => exact ⟨.inl, fun h => h.elim id fun ⟨_, h⟩ => absurd h hsame⟩
  | scrapped => exact ⟨.inl, fun h => h.elim id fun ⟨_, h⟩ => absurd h hsame⟩
  | lost => exact ⟨.inl, fun h => h.elim id fun ⟨_, h⟩ => absurd h hsame⟩

theorem resolvedCup_released {x : Resolution} (hx : ∀ k, x ≠ .held k) (b : BoardRef) (k : Fin 4) (cup : Cup) :
    resolvedCup x b k cup = cup.released b none k := by
  simp [resolvedCup, hx k, Cup.released]

/-- The cups of a RESOLVE are settled (R164). -/
theorem Run.Made.dropSettled {r : Run} {w : State} {b : BoardRef} {n : Nest} {c : NestContext} {ids : List ImageId}
    (h : r.Made (w.settledNest n c) ids) {x : Resolution} (hx : ∀ k, x ≠ .held k) :
    ∃ cups more, (r.dropReferences b none).Made (State.settledNest { w with cups := cups } n c) (ids ++ more) ∧
      ∀ k, cups.get k = resolvedCup x b k (w.cups.get k) := by
  obtain ⟨cups, more, hm, hget⟩ := h.dropReferences b none
  rw [State.settledNest_cups] at hm
  refine ⟨cups, more, hm, fun k => ?_⟩
  rw [hget, resolvedCup_released hx]
  congr 1
  cases n <;> rfl

/-- The cups, the slot and the count of a RESOLVE are settled (R65, R164). -/
theorem Run.Made.settle {r : Run} {w : State} {b : BoardRef} {c : NestContext} {ids : List ImageId}
    (h : r.Made (w.settledNest b.nest c) ids) (hs : c.state = (w.nest b.nest).state) (x : Resolution) :
    ∃ cups more, (r.settle b x).Made ((State.slotted { w with cups := cups } x).settledNest b.nest
        (if resolvedEnds x = true then countedDown c else c)) (ids ++ more) ∧
      (∀ k, cups.get k = resolvedCup x b k (w.cups.get k)) ∧ r.Owes (r.settle b x) [] (touches x) := by
  have hdrop := Run.Spares.dropReferences r b none
  have terminal {x : Resolution} (hx : ∀ k, x ≠ .held k) :
      ∃ cups more, ((r.dropReferences b none).boardEnded b.nest).Made
        (State.settledNest { w with cups := cups } b.nest (countedDown c)) (ids ++ more) ∧
        (∀ k, cups.get k = resolvedCup x b k (w.cups.get k)) ∧
        r.Owes ((r.dropReferences b none).boardEnded b.nest) [] false := by
    obtain ⟨cups, m1, hm, hcups⟩ := h.dropSettled (b := b) hx
    obtain ⟨m2, hm, -⟩ := hm.boardEndedSettled (hs.trans (by cases b.nest <;> rfl))
    exact ⟨cups, m1 ++ m2, hm.congr fun id => by simp, hcups, (hdrop.trans (.boardEnded _ b.nest)).owes⟩
  cases x with
  | derived state mask =>
    obtain ⟨cups, more, hm, hcups⟩ := h.dropSettled (b := b) (x := .derived state mask) fun _ => nofun
    exact ⟨cups, more, hm, hcups, hdrop.owes⟩
  | held c' =>
    obtain ⟨cups, more, hm, -, hcups⟩ := h.giveCup c' (loadedWith b) b
    rw [State.settledNest_cups] at hm
    refine ⟨cups, more, hm, fun k => ?_, (Run.Spares.giveCup r c' (loadedWith b) b).owes⟩
    have hw : (w.settledNest b.nest c).cups = w.cups := by cases b.nest <;> rfl
    rw [hcups, hw]
    by_cases hk : k = c'
    · simp [resolvedCup, hk, loadedWith]
    · simp [resolvedCup, hk, Ne.symm hk, Cup.released]
  | scrapped => exact terminal (x := .scrapped) fun _ => nofun
  | lost => exact terminal (x := .lost) fun _ => nofun
  | stacked i slot serial =>
    obtain ⟨cups, m1, hm, hcups⟩ := h.dropSettled (b := b) (x := .stacked i slot serial) fun _ => nofun
    have hstations : (State.settledNest { w with cups := cups } b.nest c).stations = w.stations :=
      State.settledNest_stations _ _ _
    have hstate : c.state = (State.nest { w with cups := cups } b.nest).state := hs.trans (by cases b.nest <;> rfl)
    obtain ⟨m2, hm, -⟩ := hm.setSlots i (fun slots => slots.set slot .occupied) (new :=
      (w.stations.get i).withSlots ((w.stations.get i).slots.set slot .occupied)) (by rw [hstations])
    rw [State.restationed_settledNest hstate] at hm
    obtain ⟨m3, hm, -⟩ := hm.touchLanes.boardEndedSettled (by rw [State.restationed_nest]; exact hstate)
    refine ⟨cups, m1 ++ m2 ++ m3, hm.congr fun id => by simp, hcups, ?_⟩
    have hrest := (hdrop.rest.trans (Run.setSlots_rest (r.dropReferences b none) i fun slots =>
      slots.set slot .occupied))
    have hended := Run.Spares.boardEnded (((r.dropReferences b none).setSlots i fun slots =>
      slots.set slot .occupied).touchLanes) b.nest
    exact hrest.touchLanes.trans hended.owes

end Sys2Proof.Machine
end

section
/-! PROOF. RESOLVE gives a board its true state (R144, R146, R160 to R164). -/

namespace Sys2Proof.Machine

open Sys2Proof.Claims

/-! ### The effects of an accepted RESOLVE (R163, R164) -/

theorem resolution_board (x : Resolution) (h : BoardHw) : x.board h = resolvedBoard x h := by cases x <;> rfl

/-- A state in which a RESOLVE has changed the board, the table, the cups and the slot, but for the nest. -/
def State.reassigned (u : State) (b : BoardRef) (x : Resolution) (k : Fin 64) (m : CacheLine)
    (cups : Table 4 Cup) : State :=
  State.slotted { withoutAll (u.relined b k m (resolvedBoard x m.words.hw)) (u.entriesOf b) with cups := cups } x

/-- The nest of a resolved board (R65, R66, R67). -/
def resolvedNest (w u : State) (b : BoardRef) (x : Resolution) (claim : Claim) : NestContext :=
  let c : NestContext := { u.nest b.nest with status := .dirty, claim := claim }
  drained (w.nestNamed b.nest) (if resolvedEnds x = true then countedDown c else c)

theorem mem_entriesOf_listed {u : State} (hlist : TableListed u) {b : BoardRef} {i : Fin 32} :
    i ∈ u.entriesOf b ↔ ∃ e, u.entries.get i = some e ∧ e.board = b := by
  rw [Run.State.mem_entriesOf]
  exact ⟨And.right, fun ⟨e, he, hb⟩ => ⟨(hlist.2.2.1 i).2 (by simp [he]), e, he, hb⟩⟩

theorem withoutAll_congr {u v : State} (he : v.entries = u.entries) (ho : v.order = u.order) (hd : v.due = u.due)
    (l : List (Fin 32)) : (withoutAll v l).entries = (withoutAll u l).entries ∧
      (withoutAll v l).order = (withoutAll u l).order ∧ (withoutAll v l).due = (withoutAll u l).due := by
  induction l generalizing u v with
  | nil => exact ⟨he, ho, hd⟩
  | cons i l ih =>
    exact ih (u := without u i) (v := without v i) (congrArg (·.set i none) he) (congrArg (·.erase i) ho)
      (congrArg (·.erase i) hd)

section Reassigned

variable (u : State) (b : BoardRef) (x : Resolution) (k : Fin 64) (m : CacheLine) (cups : Table 4 Cup)

theorem State.reassigned_shape : u.reassigned b x k m cups = { u with
    entries := (u.reassigned b x k m cups).entries, order := (u.reassigned b x k m cups).order
    due := (u.reassigned b x k m cups).due, cache := (u.reassigned b x k m cups).cache
    recency := (u.reassigned b x k m cups).recency, walker := (u.reassigned b x k m cups).walker
    cups := cups, stations := (u.reassigned b x k m cups).stations, flags := (u.reassigned b x k m cups).flags } := by
  unfold State.reassigned
  have hw := withoutAll_shape (u.relined b k m (resolvedBoard x m.words.hw)) (u.entriesOf b)
  generalize withoutAll (u.relined b k m (resolvedBoard x m.words.hw)) (u.entriesOf b) = w at hw ⊢
  have hx := State.slotted_shape { w with cups := cups } x
  generalize State.slotted { w with cups := cups } x = y at hx ⊢
  generalize w.entries = entries, w.order = order, w.due = due at hw
  subst hw
  generalize y.stations = stations, y.flags = flags at hx
  subst hx
  rfl

theorem State.reassigned_nest (n : Nest) : (u.reassigned b x k m cups).nest n = u.nest n := by
  rw [State.reassigned_shape]
  cases n <;> rfl

/-- The parts of a state that a RESOLVE changes apart from its nest. -/
theorem State.reassigned_parts :
    (u.reassigned b x k m cups).entries = (withoutAll u (u.entriesOf b)).entries ∧
      (u.reassigned b x k m cups).order = (withoutAll u (u.entriesOf b)).order ∧
      (u.reassigned b x k m cups).due = (withoutAll u (u.entriesOf b)).due ∧
      (u.reassigned b x k m cups).cache = (u.relined b k m (resolvedBoard x m.words.hw)).cache ∧
      (u.reassigned b x k m cups).recency = (u.relined b k m (resolvedBoard x m.words.hw)).recency ∧
      (u.reassigned b x k m cups).walker = (u.relined b k m (resolvedBoard x m.words.hw)).walker ∧
      (u.reassigned b x k m cups).stations = (u.slotted x).stations := by
  have hshape := withoutAll_shape (u.relined b k m (resolvedBoard x m.words.hw)) (u.entriesOf b)
  obtain ⟨he, ho, hd⟩ := withoutAll_congr (u := u) (v := u.relined b k m (resolvedBoard x m.words.hw)) rfl rfl rfl
    (u.entriesOf b)
  have hcache : (withoutAll (u.relined b k m (resolvedBoard x m.words.hw)) (u.entriesOf b)).cache =
      (u.relined b k m (resolvedBoard x m.words.hw)).cache := by rw [hshape]
  have hrecency : (withoutAll (u.relined b k m (resolvedBoard x m.words.hw)) (u.entriesOf b)).recency =
      (u.relined b k m (resolvedBoard x m.words.hw)).recency := by rw [hshape]
  have hwalker : (withoutAll (u.relined b k m (resolvedBoard x m.words.hw)) (u.entriesOf b)).walker =
      (u.relined b k m (resolvedBoard x m.words.hw)).walker := by rw [hshape]
  have hstations : (withoutAll (u.relined b k m (resolvedBoard x m.words.hw)) (u.entriesOf b)).stations =
      u.stations := by rw [hshape]; rfl
  unfold State.reassigned
  rw [State.slotted_shape]
  refine ⟨he, ho, hd, hcache, hrecency, hwalker, ?_⟩
  cases x with
  | stacked i slot serial =>
    show (withoutAll _ _).stations.set i (((withoutAll _ _).stations.get i).withSlots _) = _
    rw [hstations]
    rfl
  | derived _ _ => exact hstations
  | held _ => exact hstations
  | scrapped => exact hstations
  | lost => exact hstations

end Reassigned

/-- What an accepted RESOLVE does, but for the lanes and the EMPTY marks (R163, R164). -/
theorem Run.Made.applyResolve {r : Run} {u : State} {ids : List ImageId} (h : r.Made u ids) {b : BoardRef}
    {x : Resolution} {k : Fin 64} {m : CacheLine} (hk : u.lineOf b = some k) (hl : u.cache.get k = some m)
    (hchange : resolvedBoard x m.words.hw ≠ m.words.hw) (hlist : TableListed u) :
    ∃ cups claim more, (Machine.applyResolve (b, x) r).Made ((u.reassigned b x k m cups).settledNest b.nest
        (resolvedNest (u.reassigned b x k m cups) u b x claim)) (ids ++ more) ∧
      (∀ k, cups.get k = resolvedCup x b k (u.cups.get k)) ∧
      ((∃ i e, u.entries.get i = some e ∧ e.board = b ∧ (e.kind = .cut ∨ e.kind = .pick)) →
        claim = (u.reassigned b x k m cups).claimOf b.nest) ∧
      ((¬∃ i e, u.entries.get i = some e ∧ e.board = b ∧ (e.kind = .cut ∨ e.kind = .pick)) →
        claim = (u.nest b.nest).claim) ∧
      (∀ i ∈ u.entriesOf b, .entry i ∈ more) ∧ .nest b.nest ∈ more ∧
      r.Leaves (Machine.applyResolve (b, x) r) (marksOf u (u.entriesOf b)) (touches x) := by
  have hrun : Machine.applyResolve (b, x) r = ((((r.changeBoard b (resolvedBoard x)).removeEntries
      ((r.changeBoard b (resolvedBoard x)).st.entriesOf b)).settle b x).drainTest b.nest).image (.nest b.nest) := by
    have hboard : x.board = resolvedBoard x := funext (resolution_board x)
    rw [← hboard]
    rfl
  obtain ⟨m1, hm, -⟩ := h.changeCached (k := k) hk hl hchange
  have hof : (r.changeBoard b (resolvedBoard x)).st.entriesOf b = u.entriesOf b := by
    rw [hm.shape]
    cases b.nest <;> rfl
  have hspares := Run.Spares.changeBoard r b (resolvedBoard x)
  rw [hrun, hof]
  generalize r.changeBoard b (resolvedBoard x) = r1 at hm hspares
  have hmem {i : Fin 32} := mem_entriesOf_listed hlist (b := b) (i := i)
  obtain ⟨claim, m2, hm, hyes, hno, hremoves⟩ := hm.removeSettledAll (l := u.entriesOf b) (hlist.1.filter _)
    (fun i hi => by
      obtain ⟨e, he, -⟩ := hmem.1 hi
      exact Option.isSome_iff_exists.2 ⟨e, he⟩)
    (fun i hi e he => by
      obtain ⟨e', he', hb⟩ := hmem.1 hi
      cases (show u.entries.get i = some e from he).symm.trans he'
      rw [hb])
  generalize r1.removeEntries (u.entriesOf b) = r2 at hm hremoves
  obtain ⟨cups, m3, hm, hcups, howes⟩ := hm.settle (b := b) (by
    show (u.nest b.nest).state = _
    rw [withoutAll_nest, State.relined_nest]) x
  have hm : (r2.settle b x).Made ((u.reassigned b x k m cups).settledNest b.nest
      (if resolvedEnds x = true then countedDown { u.nest b.nest with status := .dirty, claim := claim }
        else { u.nest b.nest with status := .dirty, claim := claim })) _ := hm
  generalize r2.settle b x = r3 at hm howes
  obtain ⟨m4, hm, -⟩ := hm.drainSettled (fun hstop hstopped => by
    rw [State.reassigned_nest] at hstopped
    split at hstop
    · rcases countedDown_state { u.nest b.nest with status := .dirty, claim := claim } with h | h
      · rw [h, hstopped] at hstop
        cases hstop
      · rw [h] at hstop
        cases hstop
    · rw [show ({ u.nest b.nest with status := .dirty, claim := claim } : NestContext).state = _ from hstopped] at hstop
      cases hstop)
  have hm := hm.image (.nest b.nest)
  have hduty := ((hspares.leaves hremoves.leaves).owes howes).spares ((Run.Spares.drainTest r3 b.nest).trans
    (.image _ (.nest b.nest)))
  have hentries : (withoutAll (u.relined b k m (resolvedBoard x m.words.hw)) (u.entriesOf b)).entries =
      (u.reassigned b x k m cups).entries := by rw [State.reassigned, State.slotted_shape]
  have hkind : (∃ i ∈ u.entriesOf b, ∃ e, u.entries.get i = some e ∧ (e.kind = .cut ∨ e.kind = .pick)) ↔
      ∃ i e, u.entries.get i = some e ∧ e.board = b ∧ (e.kind = .cut ∨ e.kind = .pick) := by
    constructor
    · rintro ⟨i, hi, e, he, hk⟩
      obtain ⟨e', he', hb⟩ := hmem.1 hi
      cases he.symm.trans he'
      exact ⟨i, e, he, hb, hk⟩
    · rintro ⟨i, e, he, hb, hk⟩
      exact ⟨i, hmem.2 ⟨e, he, hb⟩, e, he, hk⟩
  refine ⟨cups, claim, m1 ++ (u.entriesOf b).map .entry ++ m2 ++ m3 ++ m4 ++ [.nest b.nest],
    hm.congr fun id => by simp, fun k => ?_, fun hex => ?_, fun hnex => ?_, fun i hi => by simp [hi], by simp, hduty⟩
  · rw [hcups, withoutAll_shape]
    rfl
  · rw [hyes (hkind.2 hex), State.claimOf_congr hentries]
  · exact hno fun h => hnex (hkind.1 h)

end Sys2Proof.Machine
end

section
/-! PROOF. RESOLVE as the statement tells it (R65, R67, R80, R121, R138, R144, R146, R160 to R164). -/

namespace Sys2Proof.Machine

open Sys2Proof.Claims

/-! ### A service command that passes its checks after a lookup -/

section Granted

variable {s v : State} {tag : Tag} {q : Request} {kind : ServiceKind} {answers rest : List MemAnswer} {x : kind.Plan}
  (hp : Posted s .service tag q) (hrow : postRow .service q.data answers = some (kind.row answers))
  (ha : Answered answers 3)
  (hj : kind.judge (word1 s answers q) (Run.start (s.waited answers 3) (answers.drop 3)) =
    (.pass x, Run.start v rest))
include hp hrow ha hj

theorem service_granted : exec (kind.row answers) s =
    .next (Served (grantService kind.effect q x (Run.start v rest)) tag) := by
  obtain ⟨p, he⟩ := serving_of_held hp.inHand
  obtain ⟨hk, ht⟩ := serviceKind_of_row hrow
  have hx := ServiceKind.serves_row (answers := answers) hp.inHand hp.cls hk ht
  unfold Serves at hx
  rw [servePost_judged he ha (posted_postChecks hp (by simp [kindFits, hk])), hj] at hx
  exact hx

/-- Once its verdict and word 0 are written, it takes effect. -/
theorem service_takes_effect (hdone : Answered rest 2) :
    exec (kind.row answers) s = .next (((kind.effect x (Run.start (v.wroteAll rest
      [(q.word 3, verdictAdmitted none v.time), (q.word 0, q.data)]) (rest.drop 2))).advance
        .service).conclude.finishHeld tag .done) := by
  rw [service_granted hp hrow ha hj, grantService_done kind.effect q x hdone]
  rfl

variable (hb : s.Beside v)
include hb

/-- A HARD to the verdict or the forward abandons it (R102, R160). -/
theorem service_breaks (k : Nat) (hk : k < 2) (hdone : Answered rest k) (hno : ¬Answered rest (k + 1)) :
    ∃ t, exec (kind.row answers) s = .next t ∧
      Abandoned (brokenOff v rest [(q.word 3, verdictAdmitted none v.time), (q.word 0, q.data)] k) t tag := by
  obtain ⟨p, he⟩ := serving_of_held hp.inHand
  exact ⟨_, service_granted hp hrow ha hj,
    writing_abandoned ((hb.mode he).trans hp.guarded) (hb.engine he) hk hdone hno _ tag⟩

end Granted

theorem TableListed.fetched {u v : State} {answers rest : List MemAnswer} {b : BoardRef} {l : CacheLine}
    (h : TableListed u) (hf : Fetched u answers b l v rest) : TableListed v := by
  have hk := tableListed_closed.toSteady.lookup (r := Run.start u answers) h b
  rw [hf] at hk
  exact hk

/-! ### The resolved state -/

section Resolved

variable {u : State} {b : BoardRef} {x : Resolution} {k : Fin 64} {m : CacheLine} {cups : Table 4 Cup}

theorem State.reassigned_flag (f : Flag) : (u.reassigned b x k m cups).flag f = true ↔ u.flag f = true ∨
    (f = .stationChange ∧ ∃ i, ((u.slotted x).stations.get i).state = .full ∧ (u.stations.get i).state ≠ .full) := by
  have hshape := withoutAll_shape (u.relined b k m (resolvedBoard x m.words.hw)) (u.entriesOf b)
  have hstations : (withoutAll (u.relined b k m (resolvedBoard x m.words.hw)) (u.entriesOf b)).stations =
      u.stations := by rw [hshape]; rfl
  have hflags : (withoutAll (u.relined b k m (resolvedBoard x m.words.hw)) (u.entriesOf b)).flags = u.flags := by
    rw [hshape]; rfl
  have hparts := (u.reassigned_parts b x k m cups).2.2.2.2.2.2
  rw [← hparts]
  refine (State.slotted_flag _ x f).trans (or_congr ?_ ?_)
  · exact iff_of_eq (congrArg (· = true) (State.flag_congr hflags f))
  · show _ ∧ (∃ i, _ ∧ ((withoutAll _ _).stations.get i).state ≠ _) ↔ _
    rw [hstations]
    rfl

/-- The state of a RESOLVE once its cursor has advanced and its lanes have settled. -/
structure NestSettled (y z : State) (n : Nest) (c : NestContext) (cur : Cursors) : Prop where
  shape  : z = { y with
    nestA := z.nestA, nestB := z.nestB, lanes := z.lanes, flags := z.flags, cursors := cur }
  nests  : ∀ n', z.nest n' = if n' = n then c else y.nest n'
  flags  : ∀ f, f ≠ .laneStopped → f ≠ .laneExhausted → (z.flag f = true ↔ y.flag f = true ∨
    (f = .nestStopped n ∧ c.state = .stopped ∧ (y.nest n).state ≠ .stopped) ∨
    (f = .nestComplete n ∧ c.state = .complete ∧ (y.nest n).state ≠ .complete))
  lanes  : LaneFlags y z y.lanes.get

theorem Relaned.settledNest {y z : State} {n : Nest} {c : NestContext} {cur : Cursors} {more : List ImageId}
    (h : Relaned { y.settledNest n c with cursors := cur } z more) : NestSettled y z n c cur := by
  have hn (m : Nest) := State.settledNest_nests y n m c
  have hf := State.settledNest_flag y n c
  have hl : (y.settledNest n c).lanes = y.lanes := State.settledNest_lanes _ _ _
  have hs := State.settledNest_shape y n c
  refine ⟨?_, fun n' => ?_, fun f h1 h2 => ?_, ?_⟩
  · have hz := h.shape
    generalize y.settledNest n c = Y at hz hs
    generalize z.lanes = lanes, z.flags = flags at hz ⊢
    subst hz
    generalize Y.nestA = a, Y.nestB = b, Y.flags = flags' at hs
    subst hs
    rfl
  · rw [h.shape, ← hn]
    cases n' <;> rfl
  · rw [h.others f (by simp [h1, h2])]
    exact hf f
  · have hflags := h.flags
    have hold : ({ y.settledNest n c with cursors := cur } : State).lanes = y.lanes := hl
    rw [hold] at hflags
    refine laneFlags_congr hflags (fun f hf' => ?_) (fun _ _ => rfl) rfl
    rw [Bool.eq_iff_iff]
    refine Iff.symm ((hf f).trans ?_)
    rcases hf' with rfl | rfl <;> simp

/-- A resolved state differs from the one before it in what a RESOLVE changes. -/
theorem NestSettled.resolved_shape {y z : State} {n : Nest} {c : NestContext} {cur : Cursors}
    (h : NestSettled y z n c cur) (hy : y = { u with
      entries := y.entries, order := y.order, due := y.due, cache := y.cache, recency := y.recency
      walker := y.walker, cups := cups, stations := y.stations, flags := y.flags }) :
    z = { u with
      entries := z.entries, order := z.order, due := z.due, cache := z.cache, recency := z.recency
      walker := z.walker, nestA := z.nestA, nestB := z.nestB, cups := z.cups, stations := z.stations
      lanes := z.lanes, flags := z.flags, cursors := cur } := by
  have hz := h.shape
  clear h
  generalize z.nestA = a, z.nestB = b, z.lanes = lanes, z.flags = flags at hz
  subst hz
  generalize y.entries = entries, y.order = order, y.due = due, y.cache = cache, y.recency = recency,
    y.walker = walker, y.stations = stations, y.flags = flags' at hy
  subst hy
  rfl

end Resolved

theorem settledNest_steady (y : State) (n : Nest) (c : NestContext) : (y.settledNest n c).cursors = y.cursors ∧
    (y.settledNest n c).rings = y.rings ∧ (y.settledNest n c).engine = y.engine := by cases n <;> exact ⟨rfl, rfl, rfl⟩

theorem resolvedBoard_certain {v : State} {b : BoardRef} {l : CacheLine} {w1 : Word} {r : Resolution}
    (h : Resolves v b l w1 r) (hw : BoardHw) : (resolvedBoard r hw).state ≠ .uncertain := by
  cases r with
  | derived target mask =>
    obtain ⟨ht, -⟩ := h
    rcases ht with rfl | rfl | rfl <;> exact nofun
  | held c => exact nofun
  | stacked i slot serial => exact nofun
  | scrapped => exact nofun
  | lost => exact nofun

/-- The EMPTY marks of the entries that a RESOLVE removes (R80). -/
theorem resolve_marks {s u : State} {p : Fin 18} (he : s.engine = .serving p) (hu : s.Beside u) (b : BoardRef) :
    (marksOf u (u.entriesOf b)).map (fun p => (u.stackerRing.slotAddr p.1, presentWord0 0 p.2)) =
      emptyMarks s fun e => decide (e.board = b) := by
  have hm := marksOf_filter u fun e => decide (e.board = b)
  have hs : emptyMarks u (fun e => decide (e.board = b)) = emptyMarks s fun e => decide (e.board = b) := by
    unfold emptyMarks emptyMark
    rw [hu.order he, hu.entries he, hu.stackerRing he]
  rw [← hs, ← hm]
  rfl

/-- Settles O31. -/
theorem resolveSettlesTheBoard : Obligations.ResolveSettlesTheBoard := by
  unfold Obligations.ResolveSettlesTheBoard
  intro s v tag q answers rest b l m r hp hrow ha hlist hn hpos hloaded hcount hfetch hstate hres writes u gone
  obtain ⟨p, he⟩ := serving_of_held hp.inHand
  have hw : s.Beside (s.waited answers 3) := s.waited_beside answers 3
  have hv : s.Beside v := hw.trans (fetched_beside hfetch)
  obtain ⟨target, ht, hcode, hjt⟩ := judgeTarget_resolves hres
  have hlooks : ResolveLooksUp s (word1 s answers q) b := ⟨hn, hpos.symm, (targetNamed_iff _).2 ⟨target, by rw [hcode]; exact resolveTarget_code ht⟩,
    hloaded, hcount⟩
  have hj : ServiceKind.judge .resolve (word1 s answers q) (Run.start (s.waited answers 3) (answers.drop 3)) =
      (.pass (b, r), Run.start v rest) :=
    judgeResolve_pass (hw.resolveLooksUp he hlooks) hfetch hstate ht hcode hjt
  refine ⟨service_breaks (kind := .resolve) hp hrow ha hj hv, fun hdone hcached hwords => ?_⟩
  have hexec := service_takes_effect (kind := .resolve) hp hrow ha hj hdone
  have hu : s.Beside u := hv.trans (v.wroteAll_beside rest writes)
  have hlistu : TableListed u := State.Beats.kept TableListed.beat (v.wroteAll_beats rest writes)
    ((State.Beats.kept TableListed.beat (s.waited_beats answers 3) hlist).fetched hfetch)
  obtain ⟨k, hk, hl, -⟩ := State.cached_some hcached
  have hchange : resolvedBoard r m.words.hw ≠ m.words.hw := fun heq => by
    have hstates := congrArg BoardHw.state heq
    rw [hwords, hstate] at hstates
    exact resolvedBoard_certain hres _ hstates
  obtain ⟨cups, claim, more, hm, hcups, hclaims, hkeeps, hentries, hnest, hduty⟩ :=
    (Run.Made.started ((hu.mode he).trans hp.guarded) (rest.drop 2)).applyResolve (x := r) hk hl hchange hlistu
  have hys := u.reassigned_shape b r k m cups
  obtain ⟨hye, hyo, hyd, hyc, hyr, hyw, hyst⟩ := u.reassigned_parts b r k m cups
  have hyn := u.reassigned_nest b r k m cups
  have hyf := State.reassigned_flag (u := u) (b := b) (x := r) (k := k) (m := m) (cups := cups)
  generalize u.reassigned b r k m cups = y at hm hclaims hys hye hyo hyd hyc hyr hyw hyst hyn hyf
  have hye' : y.engine = .serving p := (congrArg State.engine hys).trans (hu.engine he)
  have hyl : y.lanes = s.lanes := (congrArg State.lanes hys).trans (hu.lanes he)
  have hm := hm.advance hp (((settledNest_steady y b.nest _).1.trans (congrArg State.cursors hys)).trans (hu.cursors he))
    (((settledNest_steady y b.nest _).2.1.trans (congrArg State.rings hys)).trans (hu.rings he))
  have hduty := hduty.spares (.advance _ .service)
  have hexec : exec (.resolve answers) s = .next (((Machine.applyResolve (b, r) (Run.start u (rest.drop 2))).advance
    .service).conclude.finishHeld tag .done) := hexec
  generalize (Machine.applyResolve (b, r) (Run.start u (rest.drop 2))).advance .service = R at hm hduty hexec
  obtain ⟨z, m2, marked, hc, hz, hget, hsame, -⟩ := hm.concludes (p := p)
    ((settledNest_steady y b.nest _).2.2.trans hye')
  have hns := hz.settledNest
  have hends := hc.ends (by simp) tag .done
  have hring : (State.stackerRing { y.settledNest b.nest (resolvedNest y u b r claim) with
      cursors := advanced s .service }) = u.stackerRing := by
    show ((y.settledNest b.nest _).rings.map _).getD _ = (u.rings.map _).getD _
    rw [(settledNest_steady y b.nest _).2.1, hys]
  have hmarks : R.marks u.stackerRing = emptyMarks s gone := by
    rw [Run.marks, hduty.empties]
    exact resolve_marks he hu b
  rw [hring, hmarks, hduty.events, hduty.answers] at hends
  have hzs := hns.shape
  have hze : z.entries = (withoutAll u (u.entriesOf b)).entries := (congrArg State.entries hzs).trans hye
  have hzst : z.stations = (u.slotted r).stations := (congrArg State.stations hzs).trans hyst
  have hus : u.stations = s.stations := hu.stations he
  have hgone (i : Fin 32) : i ∉ u.entriesOf b ↔ ∀ e, s.entries.get i = some e → e.board ≠ b := by
    rw [mem_entriesOf_listed hlistu, hu.entries he]
    simp
  refine ⟨z, _, hexec, ?shape, ⟨_, ?status, ?nest, fun i e hi hb => ?entry, hends⟩, ?rewritten, fun i e hi => ?entries,
    fun i hi => ?free, fun i => ?order, fun i => ?due, fun i => ?cups, fun i hi => ?stations,
    fun i slot serial mag hr hmag => ?station, fun i => ?lanes, fun n hne => ?nests, ?context, ?nestFlags, ?laneFlags,
    ?stationChange, fun f hf => ?flags⟩
  case shape => exact hns.resolved_shape hys
  case status => simp
  case nest => simp [hnest]
  case entry =>
    have hmem := hentries i ((mem_entriesOf_listed hlistu).2 ⟨e, by rw [hu.entries he]; exact hi, hb⟩)
    simp [hmem]
  case rewritten =>
    rw [← hwords]
    exact State.relined_rewritten hk hl ((congrArg State.cache hzs).trans hyc) ((congrArg State.recency hzs).trans hyr)
      ((congrArg State.walker hzs).trans hyw)
  case entries =>
    rw [hze, withoutAll_entries, hu.entries he, hi]
    by_cases hb : e.board = b
    · rw [if_pos hb, if_pos ((mem_entriesOf_listed hlistu).2 ⟨e, by rw [hu.entries he]; exact hi, hb⟩)]
    · rw [if_neg hb, if_neg ((hgone i).2 fun e' he' => by cases hi.symm.trans he'; exact hb)]
  case free =>
    rw [hze, withoutAll_entries, hu.entries he, hi]
    simp
  case order =>
    rw [show z.order = _ from (congrArg State.order hzs).trans hyo, withoutAll_order hlistu.1, hu.order he, hgone]
  case due =>
    rw [show z.due = _ from (congrArg State.due hzs).trans hyd, withoutAll_due hlistu.2.1, hgone]
  case cups =>
    have hz : z.cups = cups := (congrArg State.cups hzs).trans (congrArg State.cups hys)
    rw [hz, hcups, hu.cups he, hv.cups he]
  case stations =>
    rw [hzst, ← hus]
    cases r with
    | stacked j slot serial => exact Table.get_set_ne _ _ fun hij => hi slot serial (by rw [hij])
    | derived _ _ => rfl
    | held _ => rfl
    | scrapped => rfl
    | lost => rfl
  case station =>
    subst hr
    rw [hzst, ← hus]
    rw [← hus] at hmag
    refine (Table.get_set_self _ _ _).trans ?_
    rw [Station.slots_of_magazine hmag, Station.withSlots_eq hmag]
  case lanes =>
    have hget' (ht : touches r = true) : z.lanes.get i = reevaluated z (s.lanes.get i) := by
      have h := hget (by rw [hduty.lanes, ht, Bool.or_true]) i
      rw [reevaluated_congr hz.stations]
      refine h.trans ?_
      show reevaluated _ ((y.settledNest b.nest _).lanes.get i) = _
      rw [State.settledNest_lanes, hyl]
    have hsame' (ht : touches r = false) : z.lanes = s.lanes := by
      rw [hsame (by rw [hduty.lanes, ht]; rfl)]
      exact (State.settledNest_lanes _ _ _).trans hyl
    cases r with
    | stacked j slot serial => exact hget' rfl
    | derived _ _ => exact congrArg (·.get i) (hsame' rfl)
    | held _ => exact congrArg (·.get i) (hsame' rfl)
    | scrapped => exact congrArg (·.get i) (hsame' rfl)
    | lost => exact congrArg (·.get i) (hsame' rfl)
  case nests =>
    rw [hns.nests n, if_neg hne, hyn]
  case context =>
    have hclaim : claim = if ∃ i e, s.entries.get i = some e ∧ e.board = b ∧ (e.kind = .cut ∨ e.kind = .pick) then
        z.claimOf b.nest else (u.nest b.nest).claim := by
      rw [hu.entries he] at hclaims hkeeps
      split
      · next h => rw [hclaims h, State.claimOf_congr (hze.trans hye.symm)]
      · next h => exact hkeeps h
    rw [hns.nests, if_pos rfl, resolvedNest, hclaim, State.nestNamed_congr (hze.trans hye.symm)]
  case nestFlags =>
    constructor
    · rw [hns.flags (.nestComplete b.nest) nofun nofun, hyf, hns.nests, if_pos rfl, hyn]
      simp
    · rw [hns.flags (.nestStopped b.nest) nofun nofun, hyf, hns.nests, if_pos rfl, hyn]
      simp
  case laneFlags =>
    have hl := hns.lanes
    rw [hyl] at hl
    refine laneFlags_congr hl (fun f hf => ?_) (fun _ _ => rfl) rfl
    rw [Bool.eq_iff_iff, hyf]
    rcases hf with rfl | rfl <;> simp
  case stationChange =>
    rw [hns.flags .stationChange nofun nofun, hyf, hzst, ← hus]
    simp
  case flags =>
    simp only [List.mem_cons, List.not_mem_nil, or_false, not_or] at hf
    obtain ⟨h1, h2, h3, h4, h5⟩ := hf
    rw [Bool.eq_iff_iff, hns.flags f h4 h5, hyf]
    simp [h1, h2, h3]

end Sys2Proof.Machine
end

section
/-! PROOF. The boards that a CELL_CLEAR finds in flight become UNCERTAIN (R27, R30, R49, R56, R70, R167). -/

namespace Sys2Proof.Machine

open Sys2Proof.Claims

theorem nodup_eraseDups {α : Type} [BEq α] [LawfulBEq α] (l : List α) : l.eraseDups.Nodup := by
  match l with
  | [] => simp
  | a :: l =>
    rw [List.eraseDups_cons, List.nodup_cons]
    refine ⟨fun h => ?_, nodup_eraseDups _⟩
    have := (List.mem_filter.1 (List.mem_eraseDups.1 h)).2
    simp at this
termination_by l.length
decreasing_by
  have := List.length_filter_le (fun b => !b == a) l
  simp only [List.length_cons]
  omega

/-! ### Several boards change -/

/-- A board whose record would change by becoming UNCERTAIN with the cause CLEARED. -/
def State.losable (u : State) (b : BoardRef) : Prop :=
  ∃ l, u.cached b = some l ∧ madeUncertain .cleared l.words.hw ≠ l.words.hw

/-- Some boards have become UNCERTAIN with the cause CLEARED: their records, their nests' status and the walker
have changed, and where the records lie has not (R27, R30, R49, R56, R70). -/
structure BoardsLost (u t : State) (lost : BoardRef → Prop) : Prop where
  shape  : t = { u with
    cache := t.cache, recency := t.recency, walker := t.walker, nestA := t.nestA, nestB := t.nestB }
  lines  : ∀ b, t.lineOf b = u.lineOf b
  backs  : ∀ i, (t.cache.get i).map CacheLine.writeBack = (u.cache.get i).map CacheLine.writeBack
  cached : ∀ b l, lost b → u.cached b = some l → t.cached b = some { l with
    words := l.words.withHw { madeUncertain .cleared l.words.hw with time := u.time }, dirty := true }
  others : ∀ b, ¬lost b → t.cached b = u.cached b
  told   : Told u t lost
  nests  : ∀ n, t.nest n = { u.nest n with status := (t.nest n).status }
  dirty  : ∀ n b, lost b → b.nest = n → (t.nest n).status = .dirty
  same   : ∀ n, (∀ b, lost b → b.nest ≠ n) → (t.nest n).status = (u.nest n).status

theorem records_shape_trans {u t t' : State} (h : t = { u with
      cache := t.cache, recency := t.recency, walker := t.walker, nestA := t.nestA, nestB := t.nestB })
    (h' : t' = { t with
      cache := t'.cache, recency := t'.recency, walker := t'.walker, nestA := t'.nestA, nestB := t'.nestB }) :
    t' = { u with
      cache := t'.cache, recency := t'.recency, walker := t'.walker, nestA := t'.nestA, nestB := t'.nestB } := by
  generalize t'.cache = cache, t'.recency = recency, t'.walker = walker, t'.nestA = a, t'.nestB = b at h' ⊢
  generalize t.cache = cache', t.recency = recency', t.walker = walker', t.nestA = a', t.nestB = b' at h
  subst h
  exact h'

theorem BoardsLost.refl (u : State) : BoardsLost u u fun _ => False :=
  ⟨rfl, fun _ => rfl, fun _ => rfl, fun _ _ h => h.elim, fun _ _ => rfl, ⟨fun _ _ _ h => h.elim, fun _ => rfl⟩,
    fun _ => rfl, fun _ _ h => h.elim, fun _ _ => rfl⟩

theorem BoardsLost.congr {u t : State} {lost lost' : BoardRef → Prop} (h : BoardsLost u t lost)
    (hl : ∀ b, lost b ↔ lost' b) : BoardsLost u t lost' := by
  rwa [← show lost = lost' from funext fun b => propext (hl b)]

theorem Passed.lines {u t : State} {j : RunningJob} {b : BoardRef} (hl : t.lineOf b = u.lineOf b)
    (hb : ∀ i, (t.cache.get i).map CacheLine.writeBack = (u.cache.get i).map CacheLine.writeBack) :
    Passed t j b ↔ Passed u j b := by
  have back (s s' : State) (h : ∀ i, (s'.cache.get i).map CacheLine.writeBack = (s.cache.get i).map CacheLine.writeBack)
      {i : Fin 64} {l : CacheLine} (hs : s.cache.get i = some l) :
      ∃ l', s'.cache.get i = some l' ∧ l'.writeBack = l.writeBack := by
    have := h i
    rw [hs] at this
    simpa using this
  unfold Passed
  rw [hl]
  constructor
  · rintro ⟨hjob, i, l, hi, hget, h⟩
    obtain ⟨l', hget', hw⟩ := back t u (fun i => (hb i).symm) hget
    exact ⟨hjob, i, l', hi, hget', hw ▸ h⟩
  · rintro ⟨hjob, i, l, hi, hget, h⟩
    obtain ⟨l', hget', hw⟩ := back u t hb hget
    exact ⟨hjob, i, l', hi, hget', hw ▸ h⟩

/-- The walker is told of one change after others (R49, R56). -/
theorem told_trans {u t t' : State} {lost : BoardRef → Prop} {b : BoardRef} (h : Told u t lost)
    (k : Told t t' (· = b)) (hpassed : ∀ j b, Passed t j b ↔ Passed u j b) :
    Told u t' fun b' => lost b' ∨ b' = b := by
  have hjob (j : RunningJob) (b : BoardRef) : Passed u { j with redirtied := true } b ↔ Passed u j b := Iff.rfl
  have hsecond (j j' : RunningJob) (hj : t.walker = .running j') (heq : j' = j ∨ j' = { j with redirtied := true })
      (hp : Passed u j b) : t'.walker = .running { j with redirtied := true } := by
    rcases heq with rfl | rfl
    · exact k.passed _ b hj rfl ((hpassed _ _).2 hp)
    · exact k.passed { j with redirtied := true } b hj rfl ((hpassed _ _).2 hp)
  refine ⟨fun j b' hj hlost hp => ?_, fun hno => ?_⟩
  · have hfirst : t.walker = .running j ∨ t.walker = .running { j with redirtied := true } := by
      by_cases hany : ∃ c, lost c ∧ Passed u j c
      · obtain ⟨c, hc, hpc⟩ := hany
        exact .inr (h.passed j c hj hc hpc)
      · refine .inl ((h.still fun j' c hj' hc hpc => ?_).trans hj)
        cases hj.symm.trans hj'
        exact hany ⟨c, hc, hpc⟩
    by_cases hb : Passed u j b
    · rcases hfirst with hw | hw
      · exact hsecond j _ hw (.inl rfl) hb
      · exact hsecond j _ hw (.inr rfl) hb
    · have hl : lost b' := hlost.resolve_right fun he => hb (he ▸ hp)
      have hw := h.passed j b' hj hl hp
      refine (k.still fun j' c hj' hc hpc => ?_).trans hw
      subst hc
      cases hw.symm.trans hj'
      exact hb ((hpassed _ _).1 hpc)
  · have hw := h.still fun j c hj hc => hno j c hj (.inl hc)
    refine (k.still fun j c hj hc hpc => ?_).trans hw
    exact hno j c (hw ▸ hj) (.inr hc) ((hpassed j c).1 hpc)

/-- One board more becomes UNCERTAIN (R27, R30, R49, R56, R70). -/
theorem BoardsLost.step {u t : State} {lost : BoardRef → Prop} (h : BoardsLost u t lost) {b : BoardRef}
    (hb : ¬lost b) : BoardsLost u (t.rewritten b (madeUncertain .cleared)) fun b' =>
      lost b' ∨ (b' = b ∧ u.losable b) := by
  have hcb : t.cached b = u.cached b := h.others b hb
  by_cases hlost : u.losable b
  · obtain ⟨l, hl, hne⟩ := hlost
    have hlt : t.cached b = some l := hcb.trans hl
    obtain ⟨hr, hn⟩ := State.rewritten_of_cached (f := madeUncertain .cleared) hlt hne
    obtain ⟨i, hi, hget, hboard⟩ := State.cached_some hlt
    have htime : t.time = u.time := by rw [h.shape]
    have hcache : (t.rewritten b (madeUncertain .cleared)).cache = t.cache.set i (some { l with
        words := l.words.withHw { madeUncertain .cleared l.words.hw with time := t.time }, dirty := true }) := by
      rw [State.rewritten_changed hi hget hne, State.withNest_cache]
      rfl
    have hshape := State.rewritten_shape t b (madeUncertain .cleared)
    generalize t.rewritten b (madeUncertain .cleared) = t' at hr hn hcache hshape
    refine BoardsLost.congr (lost := fun b' => lost b' ∨ b' = b) ?_ fun b' =>
      or_congr Iff.rfl ⟨fun he => ⟨he, l, hl, hne⟩, And.left⟩
    refine ⟨?_, fun b' => ?_, fun k => ?_, fun b' l' hb' hl' => ?_, fun b' hb' => ?_, ?_, fun n => ?_, fun n b' hb' hbn =>
      ?_, fun n hno => ?_⟩
    · exact records_shape_trans h.shape hshape
    · rw [← h.lines b']
      rw [State.lineOf_congr (s := t.setLine i (some { l with
        words := l.words.withHw { madeUncertain .cleared l.words.hw with time := t.time }, dirty := true })) hcache]
      exact State.lineOf_setLine (l' := { l with
        words := l.words.withHw { madeUncertain .cleared l.words.hw with time := t.time }, dirty := true }) hget rfl b'
    · rw [← h.backs k, hcache, Table.get_set]
      split
      · next hk => rw [hk, hget, Option.map_some, Option.map_some]
      · rfl
    · by_cases hbb : b' = b
      · subst hbb
        cases hl.symm.trans hl'
        rw [hr.board, htime]
      · rw [hr.others b' hbb]
        exact h.cached b' l' (hb'.resolve_right hbb) hl'
    · rw [hr.others b' fun he => hb' (.inr he)]
      exact h.others b' fun he => hb' (.inl he)
    · exact told_trans h.told hr.walker fun j c => Passed.lines (h.lines c) h.backs
    · rw [hn n, h.nests n]
      split
      · rfl
      · rfl
    · rw [hn n]
      split
      · rfl
      · next hnb => exact h.dirty n b' (hb'.resolve_right fun he => hnb (he ▸ hbn.symm)) hbn
    · rw [hn n, if_neg fun he => hno b (.inr rfl) he.symm]
      exact h.same n fun b' hb' => hno b' (.inl hb')
  · have hsame : t.rewritten b (madeUncertain .cleared) = t := State.rewritten_same fun l hl => by
      by_contra hne
      exact hlost ⟨l, hcb ▸ hl, hne⟩
    rw [hsame]
    exact h.congr fun b' => by simp [hlost]

theorem Run.Made.loseBoards (bs : List BoardRef) {r : Run} {u t : State} {lost : BoardRef → Prop} {ids : List ImageId}
    (h : r.Made t ids) (hl : BoardsLost u t lost) (hn : bs.Nodup) (hfresh : ∀ b ∈ bs, ¬lost b) :
    ∃ t' more, (bs.foldl (fun r b => r.changeBoard b (BoardHw.lostTrack .cleared)) r).Made t' (ids ++ more) ∧
      BoardsLost u t' fun b => lost b ∨ (b ∈ bs ∧ u.losable b) := by
  induction bs generalizing r t lost ids with
  | nil => exact ⟨t, [], h.congr (by simp), hl.congr (by simp)⟩
  | cons b bs ih =>
    obtain ⟨hb, hn⟩ := List.nodup_cons.1 hn
    obtain ⟨m1, hm, -⟩ := h.changeBoard b (BoardHw.lostTrack .cleared)
    obtain ⟨t', m2, hm, hlost⟩ := ih hm (hl.step (hfresh b List.mem_cons_self)) hn fun b' hb' => by
      rintro (h | ⟨rfl, -⟩)
      · exact hfresh b' (List.mem_cons_of_mem _ hb') h
      · exact hb hb'
    refine ⟨t', m1 ++ m2, hm.congr fun id => by simp, hlost.congr fun b' => ?_⟩
    rw [List.mem_cons]
    constructor
    · rintro ((h | ⟨rfl, h⟩) | ⟨h, h'⟩)
      · exact .inl h
      · exact .inr ⟨.inl rfl, h⟩
      · exact .inr ⟨.inr h, h'⟩
    · rintro (h | ⟨rfl | h, h'⟩)
      · exact .inl (.inl h)
      · exact .inl (.inr ⟨rfl, h'⟩)
      · exact .inr ⟨h, h'⟩

end Sys2Proof.Machine
end

section
/-! PROOF. What a CELL_CLEAR does to the table, the cups, the slots, the lanes and the nests (R66, R67, R121, R138,
R145, R146, R168). -/

namespace Sys2Proof.Machine

open Sys2Proof.Claims

/-! ### The table (R66, R121) -/

/-- Every entry has been removed, and the claims of the nests of a CUT or a PICK are NONE (R66, R121). -/
structure TableCleared (t w : State) : Prop where
  shape  : w = { t with entries := w.entries, order := [], due := [], nestA := w.nestA, nestB := w.nestB }
  free   : ∀ i, w.entries.get i = none
  nests  : ∀ n, w.nest n = { t.nest n with claim := (w.nest n).claim }
  claim  : ∀ n, (∃ i e, t.entries.get i = some e ∧ e.board.nest = n ∧ (e.kind = .cut ∨ e.kind = .pick)) →
    (w.nest n).claim = .none
  keeps  : ∀ n, (¬∃ i e, t.entries.get i = some e ∧ e.board.nest = n ∧ (e.kind = .cut ∨ e.kind = .pick)) →
    (w.nest n).claim = (t.nest n).claim

theorem kindNames_none {w : State} (h : ∀ i, w.entries.get i = none) (k : EntryKind) (n : Nest) :
    w.kindNames k n = false := by
  rw [Bool.eq_false_iff]
  intro hk
  obtain ⟨i, hi⟩ := (Table.any_iff _ _).1 hk
  rw [h i] at hi
  cases hi

theorem nestNamed_none {w : State} (h : ∀ i, w.entries.get i = none) (n : Nest) : w.nestNamed n = false := by
  rw [Bool.eq_false_iff]
  intro hk
  obtain ⟨i, hi⟩ := (Table.any_iff _ _).1 hk
  rw [h i] at hi
  cases hi

theorem claimOf_none {w : State} (h : ∀ i, w.entries.get i = none) (n : Nest) : w.claimOf n = .none := by
  rw [State.claimOf, kindNames_none h, kindNames_none h]
  rfl

theorem Run.Made.reclaims (l : List Nest) {r : Run} {u : State} {ids : List ImageId} (h : r.Made u ids) :
    ∃ w more, (l.foldl Run.reclaim r).Made w (ids ++ more) ∧ w = { u with nestA := w.nestA, nestB := w.nestB } ∧
      ∀ n, w.nest n = if n ∈ l then { u.nest n with claim := u.claimOf n } else u.nest n := by
  induction l generalizing r u ids with
  | nil => exact ⟨u, [], h.congr (by simp), rfl, by simp⟩
  | cons m l ih =>
    obtain ⟨m1, hm, -⟩ := h.reclaim m
    obtain ⟨w, m2, hm, hw, hn⟩ := ih hm
    refine ⟨w, m1 ++ m2, hm.congr fun id => by simp, ?_, fun n => ?_⟩
    · generalize w.nestA = a, w.nestB = b at hw ⊢
      subst hw
      cases m <;> rfl
    · have hclaim (c : NestContext) : (u.withNest m c).claimOf n = u.claimOf n :=
        State.claimOf_congr (by cases m <;> rfl) n
      rw [hn n, State.nest_withNest, hclaim]
      by_cases hnm : n = m
      · rw [hnm, if_pos rfl, if_pos List.mem_cons_self]
        split <;> rfl
      · simp [hnm]

theorem mem_claimedBy {s : State} {ids : List (Fin 32)} {n : Nest} : n ∈ s.claimedBy ids ↔
    ∃ i ∈ ids, ∃ e, s.entries.get i = some e ∧ (e.kind = .cut ∨ e.kind = .pick) ∧ e.board.nest = n := by
  have hall : n ∈ [Nest.a, Nest.b] := by cases n <;> simp
  simp only [State.claimedBy, List.mem_filter, hall, true_and, List.any_eq_true, Option.any_eq_true,
    Bool.and_eq_true, beq_iff_eq, EntryKind.claims_iff]

/-- Every entry is removed (R66, R80, R121). -/
theorem Run.Made.removeAll {r : Run} {t : State} {ids : List ImageId} (h : r.Made t ids) (hlist : TableListed t) :
    ∃ w more, (r.removeEntries r.st.order).Made w (ids ++ more) ∧ TableCleared t w ∧
      r.Removes (r.removeEntries r.st.order) (marksOf t t.order) := by
  obtain ⟨horder, hdue, hin, hsub⟩ := hlist
  obtain ⟨hm, hr⟩ := h.freeEntries t.order horder fun i hi => (hin i).1 hi
  have hfree (i : Fin 32) : (withoutAll t t.order).entries.get i = none := by
    rw [withoutAll_entries]
    by_cases hi : i ∈ t.order
    · rw [if_pos hi]
    · rw [if_neg hi]
      exact Option.not_isSome_iff_eq_none.1 fun hs => hi ((hin i).2 hs)
  have hno : (withoutAll t t.order).order = [] := List.eq_nil_iff_forall_not_mem.2 fun i hi => by
    obtain ⟨h1, h2⟩ := (withoutAll_order horder t.order i).1 hi
    exact h2 h1
  have hnd : (withoutAll t t.order).due = [] := List.eq_nil_iff_forall_not_mem.2 fun i hi => by
    obtain ⟨h1, h2⟩ := (withoutAll_due hdue t.order i).1 hi
    exact h2 (hsub i h1)
  have hshape := withoutAll_shape t t.order
  have hnests := withoutAll_nest t t.order
  rw [hno, hnd] at hshape
  unfold Run.removeEntries
  simp only [h.shape]
  generalize withoutAll t t.order = v at hm hfree hshape hnests
  obtain ⟨w, more, hm, hw, hn⟩ := hm.reclaims (t.claimedBy t.order)
  have hclaimed (n : Nest) : n ∈ t.claimedBy t.order ↔
      ∃ i e, t.entries.get i = some e ∧ e.board.nest = n ∧ (e.kind = .cut ∨ e.kind = .pick) := by
    rw [mem_claimedBy]
    constructor
    · rintro ⟨i, -, e, he, hk, hb⟩
      exact ⟨i, e, he, hb, hk⟩
    · rintro ⟨i, e, he, hb, hk⟩
      exact ⟨i, (hin i).2 (by simp [he]), e, he, hk, hb⟩
  refine ⟨w, t.order.map .entry ++ more, hm.congr fun id => by simp, ⟨?_, fun i => ?_, fun n => ?_, fun n hex => ?_,
    fun n hex => ?_⟩, hr.spares (.foldl (fun r n => .reclaim r n) _ _)⟩
  · generalize w.nestA = a, w.nestB = b at hw ⊢
    subst hw
    generalize v.entries = entries at hshape
    subst hshape
    rfl
  · rw [hw]
    exact hfree i
  · rw [hn n, hnests n]
    split <;> rfl
  · rw [hn n, if_pos ((hclaimed n).2 hex)]
    exact claimOf_none hfree n
  · rw [hn n, if_neg fun h => hex ((hclaimed n).1 h), hnests n]

theorem Run.Made.entryImages (l : List (Fin 32)) {r : Run} {u : State} {ids : List ImageId} (h : r.Made u ids) :
    (l.foldl (fun r i => r.image (.entry i)) r).Made u (ids ++ l.map .entry) := by
  induction l generalizing r ids with
  | nil => exact h.congr (by simp)
  | cons i l ih => exact (ih (h.image (.entry i))).congr fun id => by simp

/-! ### The cups (R168) -/

theorem Cup.cleared_eq (c : Cup) :
    c.cleared = if c.state = .reserved ∨ c.state = .reservedOut then { c with state := .suspect } else c := by
  unfold Cup.cleared
  cases c.state <;> rfl

theorem Cup.cleared_cleared (c : Cup) : c.cleared.cleared = c.cleared := by
  rw [Cup.cleared_eq c]
  split
  · rfl
  · next h => rw [Cup.cleared_eq, if_neg h]

/-! ### The slots (R138, R168) -/

/-- A station as a CELL_CLEAR leaves it (R138, R168). -/
def Station.cleared (st : Station) : Station :=
  match st.magazine with
  | some m => if .reserved ∈ m.slots then reslotted st m (m.slots.map clearedSlot) else st
  | none => st

theorem SlotState.cleared_eq : SlotState.cleared = clearedSlot := by
  funext x
  cases x <;> rfl

theorem Run.Made.clearStation {r : Run} {u : State} {ids : List ImageId} (h : r.Made u ids) (i : Fin 8) :
    ∃ more, (r.clearStation i).Made (u.restationed i (u.stations.get i).cleared) (ids ++ more) := by
  have hsame (hc : (u.stations.get i).cleared = u.stations.get i) :
      u.restationed i (u.stations.get i).cleared = u := by
    rw [hc, State.restationed, if_neg (fun hf => hf.2 hf.1), Table.set_get_self]
  unfold Run.clearStation
  rw [h.shape]
  cases hm : (u.stations.get i).magazine with
  | none =>
    have hslots : (u.stations.get i).slots = [] := by simp [Station.slots, hm]
    rw [hsame (by rw [Station.cleared, hm]), hslots, if_neg nofun]
    exact ⟨[], h.congr (by simp)⟩
  | some m =>
    rw [Station.slots_of_magazine hm]
    by_cases hres : SlotState.reserved ∈ m.slots
    · obtain ⟨more, hmade, -⟩ := h.setSlots i (fun slots => slots.map SlotState.cleared)
        (new := (u.stations.get i).cleared) (by
          rw [Station.slots_of_magazine hm, Station.withSlots_eq hm, Station.cleared, hm, SlotState.cleared_eq]
          exact (if_pos hres).symm)
      rw [if_pos (by simpa using hres)]
      exact ⟨more, hmade⟩
    · rw [hsame (by rw [Station.cleared, hm]; exact if_neg hres), if_neg (by simpa using hres)]
      exact ⟨[], h.congr (by simp)⟩

theorem Run.clearStation_rest (r : Run) (i : Fin 8) : r.SameRest (r.clearStation i) := by
  unfold Run.clearStation
  split
  · exact r.setSlots_rest _ _
  · exact .refl r

/-- The RESERVED slots of some stations are SUSPECT (R138, R168). -/
structure StationsCleared (u y : State) (l : List (Fin 8)) : Prop where
  shape : y = { u with stations := y.stations, flags := y.flags }
  get   : ∀ k, y.stations.get k = if k ∈ l then (u.stations.get k).cleared else u.stations.get k
  flags : ∀ f, y.flag f = true ↔ u.flag f = true ∨
    (f = .stationChange ∧ ∃ i, (y.stations.get i).state = .full ∧ (u.stations.get i).state ≠ .full)

theorem Run.Made.clearStations (l : List (Fin 8)) (hl : l.Nodup) {r : Run} {u : State} {ids : List ImageId}
    (h : r.Made u ids) : ∃ y more, (l.foldl Run.clearStation r).Made y (ids ++ more) ∧ StationsCleared u y l := by
  induction l generalizing r u ids with
  | nil => exact ⟨u, [], h.congr (by simp), rfl, by simp, fun f => ⟨.inl, fun h => h.elim id
      fun ⟨_, _, h, h'⟩ => absurd h h'⟩⟩
  | cons i l ih =>
    obtain ⟨hi, hl⟩ := List.nodup_cons.1 hl
    obtain ⟨m1, hm⟩ := h.clearStation i
    obtain ⟨y, m2, hm, hshape, hget, hflags⟩ := ih hl hm
    have hfirst (k : Fin 8) : (u.restationed i (u.stations.get i).cleared).stations.get k =
        if k = i then (u.stations.get i).cleared else u.stations.get k := Table.get_set _ _ _ _
    have hat : y.stations.get i = (u.stations.get i).cleared := by rw [hget, if_neg hi, hfirst, if_pos rfl]
    have hother {k : Fin 8} (hk : k ≠ i) : (u.restationed i (u.stations.get i).cleared).stations.get k =
        u.stations.get k := (hfirst k).trans (if_neg hk)
    refine ⟨y, m1 ++ m2, hm.congr fun id => by simp, ?_, fun k => ?_, fun f => ?_⟩
    · generalize y.stations = stations, y.flags = flags at hshape ⊢
      subst hshape
      rfl
    · by_cases hk : k = i
      · rw [hk, hat]
        simp
      · rw [hget, hother hk]
        simp [hk]
    · rw [hflags, State.restationed_flag, or_assoc]
      refine or_congr Iff.rfl ?_
      constructor
      · rintro (⟨⟨hfull, hnot⟩, hf⟩ | ⟨hf, k, hfull, hnot⟩)
        · exact ⟨hf, i, by rw [hat]; exact hfull, hnot⟩
        · refine ⟨hf, k, hfull, fun hu => hnot ?_⟩
          by_cases hk : k = i
          · rw [hk, hfirst, if_pos rfl, ← hat, ← hk]
            exact hfull
          · rw [hother hk]
            exact hu
      · rintro ⟨hf, k, hfull, hnot⟩
        by_cases hk : k = i
        · subst hk
          exact .inl ⟨⟨hat ▸ hfull, hnot⟩, hf⟩
        · exact .inr ⟨hf, k, hfull, by rw [hother hk]; exact hnot⟩

/-! ### The lanes (R145, R146, R168) -/

/-- A lane of which no pair pends any more, before the re-evaluation (R145, R146). -/
def emptied0 (l : Lane) : Lane := noticed { l with pending := 0 }

theorem Lane.eases_emptied0 (l : Lane) : l.Eases (emptied0 l) := by
  have hs : (emptied0 l).state = l.state := by rw [emptied0, noticed_state]
  refine ⟨.inl hs, ?_⟩
  rw [hs]
  exact noticed_stop { l with pending := 0 }

theorem Run.Made.clearLanes (l : List (Fin 16)) (hl : l.Nodup) {r : Run} {u : State} {ids : List ImageId}
    (h : r.Made u ids) : ∃ z more, (l.foldl (fun r k => r.setPending k 0) r).Made z (ids ++ more) ∧ Relaned u z more ∧
      ∀ k, z.lanes.get k = if k ∈ l then emptied0 (u.lanes.get k) else u.lanes.get k := by
  induction l generalizing r u ids with
  | nil => exact ⟨u, [], h.congr (by simp), .refl u, by simp⟩
  | cons i l ih =>
    obtain ⟨hi, hl⟩ := List.nodup_cons.1 hl
    have hm := h.announce i { u.lanes.get i with pending := 0 }
    have hx := relaned_announce u i (l := { u.lanes.get i with pending := 0 }) rfl fun h => h
    have hrun : r.setPending i 0 = r.announce i { u.lanes.get i with pending := 0 } := by
      rw [Run.setPending, h.shape]
    rw [List.foldl_cons, hrun]
    obtain ⟨z, m', hm', hz, hget⟩ := ih hl hm
    have hxget (k : Fin 16) : ((u.lanes.set i (noticed { u.lanes.get i with pending := 0 })).get k) =
        if k = i then emptied0 (u.lanes.get i) else u.lanes.get k := Table.get_set _ _ _ _
    refine ⟨z, _, hm'.congr fun id => by simp only [List.append_assoc], hx.trans hz fun k => ?_, fun k => ?_⟩
    · by_cases hk : k = i
      · refine .inr ((hget k).trans (if_neg ?_))
        rw [hk]
        exact hi
      · exact .inl ((hxget k).trans (if_neg hk))
    · rw [hget]
      show (if k ∈ l then emptied0 ((u.lanes.set i _).get k) else (u.lanes.set i _).get k) = _
      rw [hxget]
      by_cases hk : k = i
      · rw [hk, if_pos rfl, if_neg hi, if_pos List.mem_cons_self]
      · simp [hk]

end Sys2Proof.Machine
end

section
/-! PROOF. The effects of a CELL_CLEAR put together (R167, R168). -/

namespace Sys2Proof.Machine

open Sys2Proof.Claims

/-! ### The drain of both nests (R67) -/

/-- A nest after the drain test, where no entry names it (R67). -/
def NestContext.drainedFree (c : NestContext) : NestContext :=
  { c with state := if c.state = .stopping then .stopped else c.state }

theorem drained_free (c : NestContext) : drained false c = c.drainedFree := by
  unfold drained NestContext.drainedFree
  by_cases hs : c.state = .stopping
  · simp [hs]
  · simp [hs]

/-- Both nests have been drained, where no entry names them (R67). -/
structure NestsDrained (u d : State) : Prop where
  shape : d = { u with nestA := d.nestA, nestB := d.nestB, flags := d.flags }
  nests : ∀ n, d.nest n = (u.nest n).drainedFree
  flags : ∀ f, d.flag f = true ↔ u.flag f = true ∨ ∃ n, f = .nestStopped n ∧ (u.nest n).state = .stopping

theorem Run.Made.drainFree {r : Run} {u : State} {ids : List ImageId} (h : r.Made u ids) {n : Nest}
    (hfree : u.nestNamed n = false) :
    ∃ d more, (r.drainTest n).Made d (ids ++ more) ∧
      d = { u with nestA := d.nestA, nestB := d.nestB, flags := d.flags } ∧
      (∀ m, d.nest m = if m = n then (u.nest n).drainedFree else u.nest m) ∧
      ∀ f, d.flag f = true ↔ u.flag f = true ∨ (f = .nestStopped n ∧ (u.nest n).state = .stopping) := by
  obtain ⟨more, hm, -⟩ := h.drainTest n
  rw [hfree, drained_free] at hm
  refine ⟨_, more, hm, State.settledNest_shape _ _ _, fun m => State.settledNest_nests _ _ _ _, fun f => ?_⟩
  rw [State.settledNest_flag, NestContext.drainedFree]
  refine or_congr Iff.rfl ?_
  by_cases hs : (u.nest n).state = .stopping
  · simp [hs]
  · simp [hs]

theorem Run.Made.drainBoth {r : Run} {u : State} {ids : List ImageId} (h : r.Made u ids)
    (hfree : ∀ i, u.entries.get i = none) :
    ∃ d more, ((r.drainTest .a).drainTest .b).Made d (ids ++ more) ∧ NestsDrained u d := by
  obtain ⟨c, m1, hm, hc, hcn, hcf⟩ := h.drainFree (nestNamed_none hfree .a)
  obtain ⟨d, m2, hm, hd, hdn, hdf⟩ := hm.drainFree (n := .b) (nestNamed_none (by rw [hc]; exact hfree) .b)
  have hcb : c.nest .b = u.nest .b := hcn .b
  refine ⟨d, m1 ++ m2, hm.congr fun id => by simp, ?_, fun n => ?_, fun f => ?_⟩
  · generalize d.nestA = a, d.nestB = b, d.flags = flags at hd ⊢
    generalize c.nestA = a', c.nestB = b', c.flags = flags' at hc
    subst hc
    exact hd
  · rw [hdn n]
    cases n with
    | a => exact hcn .a
    | b => rw [if_pos rfl, hcb]
  · rw [hdf, hcf, hcb, or_assoc]
    refine or_congr Iff.rfl ⟨fun h => h.elim (fun h => ⟨.a, h⟩) fun h => ⟨.b, h⟩, ?_⟩
    rintro ⟨n, h⟩
    cases n with
    | a => exact .inl h
    | b => exact .inr h

theorem Run.Made.clearCup {r : Run} {u : State} {ids : List ImageId} (h : r.Made u ids) (c : Fin 4) :
    ∃ more, (r.setCup c (r.st.cups.get c).cleared).Made
      { u with cups := u.cups.set c (u.cups.get c).cleared } (ids ++ more) := by
  rw [h.shape]
  exact ⟨_, h.setCup c _⟩

/-! ### The whole of it -/

/-- An entry in flight names the board. -/
def State.flying (u : State) (b : BoardRef) : Prop :=
  ∃ i e, u.entries.get i = some e ∧ e.inFlight = true ∧ e.board = b

theorem mem_boardsInFlight {u : State} (hlist : TableListed u) {b : BoardRef} :
    b ∈ u.boardsInFlight ↔ u.flying b := by
  rw [State.boardsInFlight, List.mem_eraseDups, List.mem_filterMap]
  constructor
  · rintro ⟨i, -, hi⟩
    obtain ⟨e, he, hb⟩ := Option.bind_eq_some_iff.1 hi
    split at hb
    · next hf => exact ⟨i, e, he, hf, Option.some.inj hb⟩
    · cases hb
  · rintro ⟨i, e, he, hf, hb⟩
    exact ⟨i, (hlist.2.2.1 i).2 (by simp [he]), by simp [he, hf, hb]⟩

/-- A CUT or a PICK of the nest is in the table. -/
def State.claimed (u : State) (n : Nest) : Prop :=
  ∃ i e, u.entries.get i = some e ∧ e.board.nest = n ∧ (e.kind = .cut ∨ e.kind = .pick)

/-- The cell has been cleared, but for the cursor, the re-evaluation of the lanes and the EMPTY marks (R168). -/
structure CellCleared (u y : State) : Prop where
  shape     : y = { u with
    entries := y.entries, order := [], due := [], cache := y.cache, recency := y.recency, walker := y.walker
    nestA := y.nestA, nestB := y.nestB, cups := y.cups, stations := y.stations, lanes := y.lanes, flags := y.flags }
  free      : ∀ i, y.entries.get i = none
  cached    : ∀ b l, u.flying b ∧ u.losable b → u.cached b = some l → y.cached b = some { l with
    words := l.words.withHw { madeUncertain .cleared l.words.hw with time := u.time }, dirty := true }
  others    : ∀ b, ¬(u.flying b ∧ u.losable b) → y.cached b = u.cached b
  told      : Told u y fun b => u.flying b ∧ u.losable b
  cups      : ∀ k, y.cups.get k = (u.cups.get k).cleared
  stations  : ∀ i, y.stations.get i = (u.stations.get i).cleared
  lanes     : ∀ k, y.lanes.get k = emptied0 (u.lanes.get k)
  nests     : ∀ n, y.nest n =
    { (u.nest n).drainedFree with claim := (y.nest n).claim, status := (y.nest n).status }
  claim     : ∀ n, u.claimed n → (y.nest n).claim = .none
  keeps     : ∀ n, ¬u.claimed n → (y.nest n).claim = (u.nest n).claim
  dirty     : ∀ n b, u.flying b ∧ u.losable b → b.nest = n → (y.nest n).status = .dirty
  same      : ∀ n, (∀ b, u.flying b ∧ u.losable b → b.nest ≠ n) → (y.nest n).status = (u.nest n).status
  laneFlags : LaneFlags u y u.lanes.get
  flags     : ∀ f, f ≠ .laneStopped → f ≠ .laneExhausted → (y.flag f = true ↔ u.flag f = true ∨
    (f = .stationChange ∧ ∃ i, (y.stations.get i).state = .full ∧ (u.stations.get i).state ≠ .full) ∨
    (∃ n, f = .nestStopped n ∧ (u.nest n).state = .stopping) ∨ (f = .uncertain ∧ ∃ b, u.flying b))

/-- The steps of a CELL_CLEAR, one after the other. -/
structure CellClearSteps (u t w c z d y : State) (cups : Table 4 Cup) (more : List ImageId) : Prop where
  lost     : BoardsLost u t fun b => u.flying b ∧ u.losable b
  table    : TableCleared t w
  suspects : ∀ k, cups.get k = (w.cups.get k).cleared
  stations : StationsCleared { w with cups := cups } c (List.finRange 8)
  relaned  : Relaned c z more
  lanes    : ∀ k, z.lanes.get k = emptied0 (c.lanes.get k)
  drained  : NestsDrained z d
  shape    : y = { d with flags := y.flags }
  flags    : ∀ f, y.flag f = true ↔ d.flag f = true ∨ (f = .uncertain ∧ ∃ b, u.flying b)

namespace CellClearSteps

variable {u t w c z d y : State} {cups : Table 4 Cup} {more : List ImageId}
  (h : CellClearSteps u t w c z d y cups more)
include h

theorem shape_clear : w = { t with
      entries := w.entries, order := [], due := [], nestA := w.nestA, nestB := w.nestB } ∧
    d = { w with
      cups := cups, stations := c.stations, lanes := z.lanes, nestA := d.nestA, nestB := d.nestB, flags := d.flags } := by
  refine ⟨h.table.shape, ?_⟩
  have hc := h.stations.shape
  have hz := h.relaned.shape
  have hd := h.drained.shape
  clear h
  generalize d.nestA = a, d.nestB = b, d.flags = flags at hd ⊢
  generalize z.lanes = lanes, z.flags = flags' at hz ⊢
  generalize c.stations = stations, c.flags = flags'' at hc ⊢
  subst hc
  subst hz
  exact hd

theorem drains : y = { w with
    cups := cups, stations := c.stations, lanes := z.lanes, nestA := d.nestA, nestB := d.nestB, flags := y.flags } := by
  have hd := h.shape_clear.2
  have hy := h.shape
  clear h
  generalize y.flags = flags at hy ⊢
  generalize d.nestA = a, d.nestB = b, d.flags = flags' at hd ⊢
  subst hd
  exact hy

theorem shape_lost : y = { u with
    entries := y.entries, order := [], due := [], cache := y.cache, recency := y.recency, walker := y.walker
    nestA := y.nestA, nestB := y.nestB, cups := y.cups, stations := y.stations, lanes := y.lanes
    flags := y.flags } := by
  have hy := h.drains
  have hw := h.table.shape
  have ht := h.lost.shape
  clear h
  generalize y.flags = flags at hy
  subst hy
  generalize w.nestA = a', w.nestB = b', w.entries = entries at hw
  subst hw
  generalize t.nestA = a', t.nestB = b', t.cache = cache, t.recency = recency, t.walker = walker at ht
  subst ht
  rfl

theorem table_kept : w.flags = u.flags ∧ w.stations = u.stations ∧ w.lanes = u.lanes ∧ w.cups = u.cups := by
  rw [h.table.shape, h.lost.shape]
  exact ⟨rfl, rfl, rfl, rfl⟩

theorem stations_lanes : c.lanes = u.lanes :=
  (congrArg State.lanes h.stations.shape).trans h.table_kept.2.2.1

theorem relaned_nest (n : Nest) : z.nest n = w.nest n := by
  have hz : z.nest n = c.nest n := by rw [h.relaned.shape]; cases n <;> rfl
  have hc : c.nest n = w.nest n := by rw [h.stations.shape]; cases n <;> rfl
  exact hz.trans hc

theorem nest_lost (n : Nest) : y.nest n = (w.nest n).drainedFree := by
  have hy : y.nest n = d.nest n := by rw [h.shape]; cases n <;> rfl
  rw [hy, h.drained.nests, h.relaned_nest]

theorem nest_cleared (n : Nest) : y.nest n =
    { (u.nest n).drainedFree with claim := (w.nest n).claim, status := (t.nest n).status } := by
  rw [h.nest_lost, h.table.nests, h.lost.nests]
  rfl

theorem claimed_lost (n : Nest) : (∃ i e, t.entries.get i = some e ∧ e.board.nest = n ∧
    (e.kind = .cut ∨ e.kind = .pick)) ↔ u.claimed n := by
  rw [show t.entries = u.entries from (congrArg State.entries h.lost.shape).trans rfl, State.claimed]

theorem flag_lost (f : Flag) (h1 : f ≠ .laneStopped) (h2 : f ≠ .laneExhausted) : y.flag f = true ↔
    u.flag f = true ∨
      (f = .stationChange ∧ ∃ i, (c.stations.get i).state = .full ∧ (u.stations.get i).state ≠ .full) ∨
      (∃ n, f = .nestStopped n ∧ (u.nest n).state = .stopping) ∨ (f = .uncertain ∧ ∃ b, u.flying b) := by
  obtain ⟨hwf, hws, -, -⟩ := h.table_kept
  have hw : w.flag f = u.flag f := State.flag_congr hwf f
  have hz : z.flag f = c.flag f := h.relaned.others f (by simp [h1, h2])
  have hn (n : Nest) : (z.nest n).state = (u.nest n).state := by
    rw [h.relaned_nest, h.table.nests, h.lost.nests]
  have hc : c.flag f = true ↔ w.flag f = true ∨ (f = .stationChange ∧
      ∃ i, (c.stations.get i).state = .full ∧ (w.stations.get i).state ≠ .full) := h.stations.flags f
  rw [h.flags, h.drained.flags, hz, hc, hw, hws]
  simp only [hn, or_assoc]

theorem laneFlags_lost : LaneFlags u y u.lanes.get := by
  have hflags := h.relaned.flags
  rw [h.stations_lanes] at hflags
  refine laneFlags_congr hflags (fun f hf => ?_) (fun f hf => ?_) (by rw [h.drains])
  · have hc : c.flag f = true ↔ w.flag f = true ∨ _ := h.stations.flags f
    rw [Bool.eq_iff_iff, hc, State.flag_congr h.table_kept.1]
    rcases hf with rfl | rfl <;> simp
  · rw [Bool.eq_iff_iff, h.flags, h.drained.flags]
    rcases hf with rfl | rfl <;> simp

theorem cleared : CellCleared u y := by
  have hy := h.drains
  have hcache : y.cache = t.cache := by rw [hy]; exact (congrArg State.cache h.table.shape).trans rfl
  have hwalker : y.walker = t.walker := by rw [hy]; exact (congrArg State.walker h.table.shape).trans rfl
  have hstations : y.stations = c.stations := by rw [hy]
  obtain ⟨-, hws, -, hwc⟩ := h.table_kept
  have hn := h.nest_cleared
  refine ⟨h.shape_lost, fun i => ?_, fun b l hb hl => ?_, fun b hb => ?_, ⟨fun j b hj hb hp => ?_, fun hno => ?_⟩,
    fun k => ?_, fun i => ?_, fun k => ?_, fun n => ?_, fun n hc => ?_, fun n hc => ?_, fun n b hb hbn => ?_,
    fun n hno => ?_, h.laneFlags_lost, fun f h1 h2 => ?_⟩
  · rw [hy]
    exact h.table.free i
  · rw [State.cached_congr hcache]
    exact h.lost.cached b l hb hl
  · rw [State.cached_congr hcache]
    exact h.lost.others b hb
  · exact hwalker.trans (h.lost.told.passed j b hj hb hp)
  · exact hwalker.trans (h.lost.told.still hno)
  · rw [show y.cups = cups by rw [hy], h.suspects, hwc]
  · rw [hstations, h.stations.get, if_pos (List.mem_finRange i)]
    exact congrArg (fun s => (s.get i).cleared) hws
  · rw [show y.lanes = z.lanes by rw [hy], h.lanes, h.stations_lanes]
  · rw [hn n]
  · rw [hn n]
    exact h.table.claim n ((h.claimed_lost n).2 hc)
  · rw [hn n]
    refine (h.table.keeps n fun hex => hc ((h.claimed_lost n).1 hex)).trans ?_
    rw [h.lost.nests n]
  · rw [hn n]
    exact h.lost.dirty n b hb hbn
  · rw [hn n]
    exact h.lost.same n hno
  · rw [h.flag_lost f h1 h2, hstations]

end CellClearSteps

theorem applyCellClear_eq (r : Run) : Machine.applyCellClear () r =
    let a := r.st.boardsInFlight.foldl (fun r b => r.changeBoard b (BoardHw.lostTrack .cleared)) r
    let b := (List.finRange 32).foldl (fun r i => r.image (.entry i)) (a.removeEntries a.st.order)
    let c := (List.finRange 4).foldl (fun r c => r.setCup c (r.st.cups.get c).cleared) b
    let d := (List.finRange 8).foldl Run.clearStation c
    let e := ((List.finRange 16).foldl (fun r l => r.setPending l 0) d).touchLanes
    if r.st.boardsInFlight.isEmpty then (e.drainTest .a).drainTest .b
    else ((e.drainTest .a).drainTest .b).raise .uncertain := rfl

theorem Run.foldl_clearStation_rest (l : List (Fin 8)) (r : Run) : r.SameRest (l.foldl Run.clearStation r) := by
  induction l generalizing r with
  | nil => exact .refl r
  | cons i l ih => exact (r.clearStation_rest i).trans (ih _)

theorem Run.Spares.setPending (r : Run) (i : Fin 16) (n : Nat) : r.Spares (r.setPending i n) :=
  .announce r i { r.st.lanes.get i with pending := n }

/-- UNCERTAIN is raised where a board was in flight (R70, R168). -/
theorem Run.Made.raiseUncertain {r : Run} {d : State} {ids : List ImageId} (h : r.Made d ids) (bs : List BoardRef) :
    ∃ y more, (if bs.isEmpty then r else r.raise .uncertain).Made y (ids ++ more) ∧ y = { d with flags := y.flags } ∧
      ∀ f, y.flag f = true ↔ d.flag f = true ∨ (f = .uncertain ∧ ∃ b, b ∈ bs) := by
  cases bs with
  | nil => exact ⟨d, [], h.congr (by simp), rfl, by simp⟩
  | cons b bs =>
    refine ⟨_, _, h.raise .uncertain, rfl, fun f => ?_⟩
    rw [State.flag_raised rfl]
    simp

theorem Run.Spares.raiseUncertain (r : Run) (bs : List BoardRef) :
    r.Spares (if bs.isEmpty then r else r.raise .uncertain) := by
  split
  · exact .refl r
  · exact .raise r _

/-- A CELL_CLEAR takes effect (R168). -/
theorem Run.Made.applyCellClear {r : Run} {u : State} {ids : List ImageId} (h : r.Made u ids)
    (hlist : TableListed u) :
    ∃ y more, (Machine.applyCellClear () r).Made y (ids ++ more) ∧ CellCleared u y ∧
      (∀ i, .entry i ∈ more) ∧ r.Leaves (Machine.applyCellClear () r) (marksOf u u.order) true := by
  obtain ⟨t, m1, hm, ht⟩ := h.loseBoards u.boardsInFlight (.refl u) (nodup_eraseDups _) fun _ _ => id
  have ht := ht.congr (lost' := fun b => u.flying b ∧ u.losable b) fun b => by
    rw [mem_boardsInFlight hlist, false_or]
  have hs1 := Run.Spares.foldl (fun r b => .changeBoard r b (BoardHw.lostTrack .cleared)) u.boardsInFlight r
  have hte : t.entries = u.entries := (congrArg State.entries ht.shape).trans rfl
  have hto : t.order = u.order := (congrArg State.order ht.shape).trans rfl
  have htd : t.due = u.due := (congrArg State.due ht.shape).trans rfl
  have hmarks : marksOf t t.order = marksOf u u.order := by rw [marksOf, marksOf, hte, hto]
  rw [applyCellClear_eq, h.shape]
  dsimp only
  generalize u.boardsInFlight.foldl (fun r b => r.changeBoard b (BoardHw.lostTrack .cleared)) r = ra at hm hs1 ⊢
  obtain ⟨w, m2, hm, hw, hr2⟩ := hm.removeAll (hlist.of_same hte hto htd)
  rw [hmarks] at hr2
  have hl := hs1.leaves hr2.leaves
  generalize ra.removeEntries ra.st.order = rb at hm hl ⊢
  have hm := hm.entryImages (List.finRange 32)
  have hl := hl.spares (Run.Spares.foldl (fun r i => .image r (.entry i)) (List.finRange 32) rb)
  generalize (List.finRange 32).foldl (fun r i => r.image (.entry i)) rb = rc at hm hl ⊢
  obtain ⟨cups, m3, hm, hcups⟩ := Run.Made.mapCups (g := fun _ c => c.cleared) (fun _ c => c.cleared_cleared)
    (step := fun r c => r.setCup c (r.st.cups.get c).cleared) (fun c h => h.clearCup c) (List.finRange 4) hm
  have hl := hl.spares (Run.Spares.foldl (fun r c => .setCup r c (r.st.cups.get c).cleared) (List.finRange 4) rc)
  generalize (List.finRange 4).foldl (fun r c => r.setCup c (r.st.cups.get c).cleared) rc = rd at hm hl ⊢
  obtain ⟨c, m4, hm, hc⟩ := hm.clearStations (List.finRange 8) (List.nodup_finRange 8)
  have hrest := Run.foldl_clearStation_rest (List.finRange 8) rd
  generalize (List.finRange 8).foldl Run.clearStation rd = re at hm hrest ⊢
  obtain ⟨z, m5, hm, hz, hget⟩ := hm.clearLanes (List.finRange 16) (List.nodup_finRange 16)
  have hrest := hrest.trans (Run.Spares.foldl (fun r l => .setPending r l 0) (List.finRange 16) re).rest
  have hl := hl.owes hrest.touchLanes
  have hm := hm.touchLanes
  generalize ((List.finRange 16).foldl (fun r l => r.setPending l 0) re).touchLanes = rf at hm hl ⊢
  have hzfree (i : Fin 32) : z.entries.get i = none := by
    rw [show z.entries = c.entries from (congrArg State.entries hz.shape).trans rfl,
      show c.entries = w.entries from (congrArg State.entries hc.shape).trans rfl]
    exact hw.free i
  obtain ⟨d, m6, hm, hd⟩ := hm.drainBoth hzfree
  have hl := (hl.spares (Run.Spares.drainTest rf .a)).spares (Run.Spares.drainTest _ .b)
  generalize (rf.drainTest .a).drainTest .b = rg at hm hl ⊢
  obtain ⟨y, m7, hm, hy, hyf⟩ := hm.raiseUncertain u.boardsInFlight
  simp only [List.append_assoc] at hm
  refine ⟨y, _, hm,
    CellClearSteps.cleared (t := t) (w := w) (c := c) (z := z) (d := d) (cups := cups) (more := m5)
      ⟨ht, hw, fun k => (hcups k).trans (if_pos (List.mem_finRange k)), hc, hz,
        fun k => (hget k).trans (if_pos (List.mem_finRange k)), hd, hy, fun f => ?_⟩, fun i => ?_,
    hl.spares (.raiseUncertain rg _)⟩
  · rw [hyf]
    simp only [mem_boardsInFlight hlist]
  · simp

end Sys2Proof.Machine
end

section
/-! PROOF. CELL_CLEAR as the statement tells it (R167, R168). -/

namespace Sys2Proof.Machine

open Sys2Proof.Claims

/-- The EMPTY marks of the whole table (R80, R168). -/
theorem clear_marks {s v : State} {p : Fin 18} (he : s.engine = .serving p) (hv : s.Beside v) (hlist : TableListed v) :
    (marksOf v v.order).map (fun p => (v.stackerRing.slotAddr p.1, presentWord0 0 p.2)) =
      emptyMarks s fun _ => true := by
  have hall : (v.order.filter fun i => (v.entries.get i).any fun _ => true) = v.order := by
    refine List.filter_eq_self.2 fun i hi => ?_
    obtain ⟨e, hs⟩ := Option.isSome_iff_exists.1 ((hlist.2.2.1 i).1 hi)
    rw [hs]
    rfl
  have hm := marksOf_filter v fun _ => true
  rw [hall] at hm
  refine hm.trans ?_
  unfold emptyMarks emptyMark
  rw [hv.order he, hv.entries he, hv.stackerRing he]

/-- The cell is cleared, its cursor advanced and its lanes settled. -/
structure CellSettled (v y x : State) (cur : Cursors) : Prop where
  cleared   : CellCleared v y
  shape     : x = { y with cursors := cur, lanes := x.lanes, flags := x.flags }
  lanes     : ∀ k, x.lanes.get k = reevaluated x (emptied0 (v.lanes.get k))
  laneFlags : LaneFlags v x v.lanes.get
  flags     : ∀ f, f ≠ .laneStopped → f ≠ .laneExhausted → x.flag f = y.flag f

theorem CellCleared.settled {v y x : State} {cur : Cursors} {more : List ImageId} (h : CellCleared v y)
    (hx : Relaned { y with cursors := cur } x more)
    (hget : ∀ k, x.lanes.get k = reevaluated { y with cursors := cur } (y.lanes.get k)) : CellSettled v y x cur := by
  refine ⟨h, hx.shape, fun k => ?_, ?_, fun f h1 h2 => hx.others f (by simp [h1, h2])⟩
  · rw [hget, h.lanes]
    exact reevaluated_congr hx.stations.symm _
  · refine laneFlags_settled h.laneFlags (fun k => ?_)
      (laneFlags_congr (u' := y) hx.flags (fun _ _ => rfl) (fun _ _ => rfl) rfl) hget
    rw [h.lanes]
    exact Lane.eases_emptied0 _

theorem CellSettled.shape_cleared {v y x : State} {cur : Cursors} (h : CellSettled v y x cur) : x = { v with
    cursors := cur, entries := x.entries, order := [], due := [], cache := x.cache, recency := x.recency
    walker := x.walker, nestA := x.nestA, nestB := x.nestB, cups := x.cups, stations := x.stations
    lanes := x.lanes, flags := x.flags } := by
  have hx := h.shape
  have hy := h.cleared.shape
  clear h
  generalize x.lanes = lanes, x.flags = flags at hx
  subst hx
  generalize y.entries = entries, y.cache = cache, y.recency = recency, y.walker = walker, y.nestA = a, y.nestB = b,
    y.cups = cups, y.stations = stations, y.lanes = lanes', y.flags = flags' at hy
  subst hy
  rfl

theorem CellSettled.nest {v y x : State} {cur : Cursors} (h : CellSettled v y x cur) (n : Nest) :
    x.nest n = y.nest n := by
  rw [h.shape]
  cases n <;> rfl

theorem CellSettled.flag {v y x : State} {cur : Cursors} (h : CellSettled v y x cur) (f : Flag)
    (h1 : f ≠ .laneStopped) (h2 : f ≠ .laneExhausted) : x.flag f = true ↔ v.flag f = true ∨
      (f = .stationChange ∧ ∃ i, (x.stations.get i).state = .full ∧ (v.stations.get i).state ≠ .full) ∨
      (∃ n, f = .nestStopped n ∧ (v.nest n).state = .stopping) ∨ (f = .uncertain ∧ ∃ b, v.flying b) := by
  rw [h.flags f h1 h2, h.cleared.flags f h1 h2, show x.stations = y.stations by rw [h.shape]]

/-- An accepted CELL_CLEAR leaves the cell cleared and ends (R168). -/
theorem cellClear_ends {s : State} {tag : Tag} {q : Request} {answers : List MemAnswer}
    (hp : Posted s .service tag q) (hrow : postRow .service q.data answers = some (.cellClear answers))
    (ha : Answered answers 5) (hlist : TableListed s) :
    ∃ y x t changed, exec (.cellClear answers) s = .next t ∧
      CellSettled (serviced s answers q) y x (advanced s .service) ∧
      .status ∈ changed ∧ (∀ i, .entry i ∈ changed) ∧
      Ends (emptiedAll x (answers.drop 5) (emptyMarks s fun _ => true)) t tag .done changed := by
  obtain ⟨p, he⟩ := serving_of_held hp.inHand
  have hj (r : Run) (hr : r.st = s.waited answers 3) :
      ServiceKind.judge .cellClear (word1 s answers q) r = (.pass (), r) :=
    judging_eq (judge := fun _ _ => .pass ()) (w1 := word1 s answers q) hr rfl
  have hexec := service_accepted (kind := .cellClear) (x := ()) hp hrow ha hj
  have hv : s.Beside (serviced s answers q) := serviced_beside s answers q
  have hlistv : TableListed (serviced s answers q) :=
    State.Beats.kept TableListed.beat (State.wroteAll_beats _ _ _)
      (State.Beats.kept TableListed.beat (s.waited_beats answers 3) hlist)
  generalize serviced s answers q = v at hexec hv hlistv ⊢
  obtain ⟨y, more, hm, hy, hentries, hduty⟩ :=
    (Run.Made.started ((hv.mode he).trans hp.guarded) (answers.drop 5)).applyCellClear hlistv
  have hm := hm.advance hp ((congrArg State.cursors hy.shape).trans (hv.cursors he))
    ((congrArg State.rings hy.shape).trans (hv.rings he))
  have hduty := hduty.spares (.advance _ .service)
  have hexec : exec (.cellClear answers) s = .next (((Machine.applyCellClear () (Run.start v (answers.drop 5))).advance
    .service).conclude.finishHeld tag .done) := hexec
  generalize (Machine.applyCellClear () (Run.start v (answers.drop 5))).advance .service = R at hm hduty hexec
  obtain ⟨x, m2, marked, hc, hx, hget, -, -⟩ := hm.concludes (p := p)
    ((congrArg State.engine hy.shape).trans (hv.engine he))
  have hends := hc.ends (by simp) tag .done
  have hring : (State.stackerRing { y with cursors := advanced s .service }) = v.stackerRing := by
    rw [State.stackerRing, State.stackerRing, hy.shape]
  have hmarks : R.marks v.stackerRing = emptyMarks s fun _ => true := by
    rw [Run.marks, hduty.empties]
    exact clear_marks he hv hlistv
  rw [hring, hmarks, hduty.events, hduty.answers] at hends
  exact ⟨y, x, _, _, hexec, hy.settled hx (hget hduty.lanes), by simp, fun i => by simp [hentries i], hends⟩

/-- Settles O33. -/
theorem cellClearDiscardsEveryEntry : Obligations.CellClearDiscardsEveryEntry := by
  unfold Obligations.CellClearDiscardsEveryEntry
  intro s tag q answers hp hrow ha hlist u flying lost
  obtain ⟨p, he⟩ := serving_of_held hp.inHand
  obtain ⟨y, x, t, changed, hexec, hx, hstatus, hentries, hends⟩ := cellClear_ends hp hrow ha hlist
  have hv : s.Beside (serviced s answers q) := serviced_beside s answers q
  have hu : u = { serviced s answers q with cursors := advanced s .service } := accepted_eq s answers q
  have hflying (b : BoardRef) : (serviced s answers q).flying b ↔ flying b := by
    rw [State.flying, hv.entries he]
  have hclaimed (n : Nest) : (serviced s answers q).claimed n ↔
      ∃ i e, s.entries.get i = some e ∧ e.board.nest = n ∧ (e.kind = .cut ∨ e.kind = .pick) := by
    rw [State.claimed, hv.entries he]
  have hcached (b : BoardRef) : u.cached b = (serviced s answers q).cached b := State.cached_congr rfl b
  have hlost (b : BoardRef) : (serviced s answers q).flying b ∧ (serviced s answers q).losable b ↔ lost b := by
    rw [hflying, State.losable, ← hcached]
  have hlosts : (fun b => (serviced s answers q).flying b ∧ (serviced s answers q).losable b) = lost :=
    funext fun b => propext (hlost b)
  have hlanes := hv.lanes he
  have hstations := hv.stations he
  have hcups := hv.cups he
  have hnest (n : Nest) : ((serviced s answers q).nest n).state = (s.nest n).state ∧
      ((serviced s answers q).nest n).claim = (s.nest n).claim ∧
      ((serviced s answers q).nest n).status = (s.nest n).status := by
    rw [hv.nest he n]
    exact ⟨rfl, rfl, rfl⟩
  have hun (n : Nest) : u.nest n = (serviced s answers q).nest n := by rw [hu]; cases n <;> rfl
  have huf (f : Flag) : u.flag f = (serviced s answers q).flag f := rfl
  have hut : u.time = (serviced s answers q).time := rfl
  have htold {x : State} (h : Told (serviced s answers q) x lost) : Told u x lost := ⟨h.passed, h.still⟩
  have hlf {x : State} {old : Fin 16 → Lane} (h : LaneFlags (serviced s answers q) x old) : LaneFlags u x old :=
    laneFlags_congr h (fun f _ => huf f) (fun _ _ => rfl) rfl
  clear_value u
  generalize serviced s answers q = v at *
  have hy := hx.cleared
  have hxy := hx.shape
  have hcache : x.cache = y.cache := by rw [hxy]
  have hwalker : x.walker = y.walker := by rw [hxy]
  have hstation : x.stations = y.stations := by rw [hxy]
  refine ⟨x, t, hexec, ?shape, ⟨changed, hstatus, hentries, hends⟩, fun i => ?free, fun b l hb hl => ?changed,
    fun b hb => ?others, ?told, fun k => ?cups, fun i => ?stations, fun k => ?lanes, fun n => ?nests,
    fun n b hb hbn => ?dirty, fun n hno => ?same, fun n => ?stopped, ?uncertain, ?stationChange, ?laneFlags,
    fun f hf => ?flags⟩
  case shape =>
    rw [hu]
    exact hx.shape_cleared
  case free =>
    rw [hxy]
    exact hy.free i
  case changed =>
    rw [State.cached_congr hcache, hut]
    exact hy.cached b l ((hlost b).2 hb) (hcached b ▸ hl)
  case others =>
    rw [State.cached_congr hcache, hcached]
    exact hy.others b fun h => hb ((hlost b).1 h)
  case told =>
    have h := hy.told
    rw [hlosts] at h
    exact htold ⟨fun j b hj hb hpass => hwalker.trans (h.passed j b hj hb hpass), fun hno => hwalker.trans (h.still hno)⟩
  case cups =>
    rw [show x.cups = y.cups by rw [hxy], hy.cups, hcups, Cup.cleared_eq]
  case stations =>
    rw [hstation, hy.stations, hstations]
    rfl
  case lanes =>
    rw [hx.lanes, hlanes]
    rfl
  case nests =>
    obtain ⟨hstate, hclaim, hstatus⟩ := hnest n
    have hc : (x.nest n).claim = if ∃ i e, s.entries.get i = some e ∧ e.board.nest = n ∧
        (e.kind = .cut ∨ e.kind = .pick) then .none else (s.nest n).claim := by
      rw [hx.nest]
      split
      · next h => exact hy.claim n ((hclaimed n).2 h)
      · next h => rw [hy.keeps n fun hc => h ((hclaimed n).1 hc), hclaim]
    rw [← hc, hun, ← hstate, hx.nest]
    exact hy.nests n
  case dirty =>
    rw [hx.nest]
    exact hy.dirty n b ((hlost b).2 hb) hbn
  case same =>
    rw [hx.nest, hy.same n fun b hb => hno b ((hlost b).1 hb)]
    exact (hnest n).2.2
  case stopped =>
    rw [hx.flag (.nestStopped n) nofun nofun, huf, ← (hnest n).1]
    simp
  case uncertain =>
    rw [hx.flag .uncertain nofun nofun, huf]
    simp [hflying]
  case stationChange =>
    rw [hx.flag .stationChange nofun nofun, huf, hstations]
    simp
  case laneFlags =>
    rw [← hlanes]
    exact hlf hx.laneFlags
  case flags =>
    simp only [List.mem_cons, List.not_mem_nil, or_false, not_or] at hf
    obtain ⟨ha, hb, hu, hst, h1, h2⟩ := hf
    rw [Bool.eq_iff_iff, hx.flag f h1 h2, huf]
    refine ⟨fun h => ?_, .inl⟩
    rcases h with h | ⟨h, -⟩ | ⟨n, h, -⟩ | ⟨h, -⟩
    · exact h
    · exact absurd h hst
    · cases n with
      | a => exact absurd h ha
      | b => exact absurd h hb
    · exact absurd h hu

end Sys2Proof.Machine
end

section
/-! PROOF. What the sections of a load replace, in OPEN_PATH mode and in GUARDED mode (R192 to R194). -/

namespace Sys2Proof.Machine

open Sys2Proof.Claims

/-! ### A run that gains images -/

/-- A run has kept its images, and what it carries besides. -/
structure Run.Gains (r r' : Run) : Prop where
  rest   : r.SameRest r'
  images : ∀ id ∈ r.images, id ∈ r'.images

namespace Run.Gains

theorem refl (r : Run) : r.Gains r := ⟨.refl r, fun _ h => h⟩

theorem trans {a b c : Run} (h : a.Gains b) (k : b.Gains c) : a.Gains c :=
  ⟨h.rest.trans k.rest, fun id hi => k.images id (h.images id hi)⟩

theorem image (r : Run) (id : ImageId) : r.Gains (r.image id) :=
  ⟨r.image_rest id, fun x hx => (r.mem_image id x).2 (.inl hx)⟩

theorem modify (r : Run) (f : State → State) : r.Gains (r.modify f) := ⟨⟨rfl, rfl, rfl⟩, fun _ h => h⟩

theorem touchLanes (r : Run) : r.Gains r.touchLanes := ⟨⟨rfl, rfl, rfl⟩, fun _ h => h⟩

theorem setNest (r : Run) (n : Nest) (c : NestContext) : r.Gains (r.setNest n c) := by
  unfold Run.setNest
  split
  · exact .refl r
  · exact (Gains.modify r _).trans (.image _ _)

theorem setCursors (r : Run) (c : Cursors) : r.Gains (r.setCursors c) := by
  unfold Run.setCursors
  split
  · exact .refl r
  · exact (Gains.modify r _).trans (.image _ _)

theorem setLane (r : Run) (i : Fin 16) (l : Lane) : r.Gains (r.setLane i l) := by
  unfold Run.setLane
  split
  · exact .refl r
  · exact (Gains.modify r _).trans (.image _ _)

theorem setStation (r : Run) (i : Fin 8) (st : Station) : r.Gains (r.setStation i st) := by
  unfold Run.setStation
  split
  · exact .refl r
  · exact ((Gains.modify r _).trans (.image _ _)).trans (.touchLanes _)

theorem foldl {α : Type} {f : Run → α → Run} (hf : ∀ (r : Run) x, r.Gains (f r x)) (l : List α) (r : Run) :
    r.Gains (l.foldl f r) := by
  induction l generalizing r with
  | nil => exact .refl r
  | cons x l ih => exact (hf r x).trans (ih _)

end Run.Gains

/-! ### The full image (R184, R194) -/

theorem Run.mem_foldl_image {r : Run} (h : r.st.guarded = true) (l : List ImageId) (id : ImageId) :
    id ∈ (l.foldl Run.image r).images ↔ id ∈ r.images ∨ id ∈ l := by
  induction l generalizing r with
  | nil => simp
  | cons x l ih =>
    rw [List.foldl_cons, ih (by rw [r.image_st]; exact h), r.mem_image, h, List.mem_cons]
    simp [or_assoc]

theorem Run.foldl_image_st (l : List ImageId) (r : Run) : (l.foldl Run.image r).st = r.st := by
  induction l generalizing r with
  | nil => rfl
  | cons x l ih => rw [List.foldl_cons, ih, r.image_st]

theorem mem_fullImageRecords {id : ImageId} (h : id ≠ .status) : id ∈ fullImageRecords := by
  cases id with
  | status => exact absurd rfl h
  | capture source => cases source <;> simp [fullImageRecords]
  | cup c => simp [fullImageRecords]
  | nest n => cases n <;> simp [fullImageRecords]
  | entry i => simp [fullImageRecords]
  | lane l => simp [fullImageRecords]
  | station s => simp [fullImageRecords]

/-- The status block leaves its place in the queue and among the collected images (R194). -/
def Run.statusLeaves (r : Run) : Run :=
  { r with st := { r.st with images := r.st.images.erase .status }, images := r.images.erase .status }

theorem Run.fullImage_eq (r : Run) :
    r.fullImage = (fullImageRecords.foldl Run.image r).statusLeaves.image .status := by
  unfold Run.fullImage
  generalize fullImageRecords.foldl Run.image r = r'
  rfl

theorem Run.fullImage_st (r : Run) :
    r.fullImage.st = { r.st with images := r.st.images.erase .status } := by
  rw [Run.fullImage_eq, Run.image_st, Run.statusLeaves, Run.foldl_image_st]

theorem Run.fullImage_rest (r : Run) : r.SameRest r.fullImage := by
  have h := (Run.Gains.foldl Run.Gains.image fullImageRecords r).rest
  rw [Run.fullImage_eq]
  generalize fullImageRecords.foldl Run.image r = r' at h ⊢
  exact h.trans (SameRest.trans (b := r'.statusLeaves) ⟨rfl, rfl, rfl⟩ (Run.image_rest _ _))

/-- In GUARDED mode every image is collected. -/
theorem Run.mem_fullImage {r : Run} (h : r.st.guarded = true) (id : ImageId) : id ∈ r.fullImage.images := by
  have hall := Run.mem_foldl_image h fullImageRecords
  have hst := Run.foldl_image_st fullImageRecords r
  rw [Run.fullImage_eq, Run.mem_image]
  generalize fullImageRecords.foldl Run.image r = r' at hall hst
  have hg : r'.statusLeaves.st.guarded = true := by
    show r'.st.guarded = true
    rw [hst]
    exact h
  by_cases hs : id = .status
  · exact .inr ⟨hg, hs⟩
  · exact .inl ((List.mem_erase_of_ne hs).2 ((hall id).2 (.inr (mem_fullImageRecords hs))))

/-! ### What a section replaces (R59, R132, R142, R192) -/

/-- A nest as a load leaves it (R59). -/
def NestContext.loaded (c : NestContext) (b : Body) (n : Nest) : NestContext :=
  if b.selects n.sect then
    { c with descriptor := some (descriptorOf (b.words n.sect)), state := .loading, loadResult := .none, firstBad := none }
  else c

/-- The LOAD job of a nest that a load selects (R59). -/
def Body.jobs (b : Body) (n : Nest) : List Job :=
  if b.selects n.sect then [.load n (descriptorOf (b.words n.sect))] else []

/-- A lane as S5 leaves it, before the re-evaluation (R142). -/
def Lane.loaded (l : Lane) (b : Body) (k : Fin 16) : Lane :=
  if b.selects 5 then l.configured (wordAt (b.words 5) k.val) else l

/-- A station as S6 leaves it (R132). -/
def Station.loaded (st : Station) (b : Body) (i : Fin 8) : Station :=
  if b.selects 6 then st.masked (maskOf (b.words 6) i) else st

/-- The state after a section, where the load selects it (R192). -/
def State.sectioned (u : State) (b : Body) : Nat → State
  | 0 => { u with roles := if b.selects 0 then some (rolesOf (b.words 0)) else u.roles }
  | 1 => { u with
      rings := if b.selects 1 then some (ringsOf (b.words 1)) else u.rings
      cursors := if b.selects 1 then ⟨0, 0, 0, 0⟩ else u.cursors }
  | 2 => { u with imageBase := if b.selects 2 then some (imageBaseOf (b.words 2)) else u.imageBase }
  | 3 => { u with nestA := u.nestA.loaded b .a, jobs := u.jobs ++ b.jobs .a }
  | 4 => { u with nestB := u.nestB.loaded b .b, jobs := u.jobs ++ b.jobs .b }
  | 5 => { u with lanes := Table.ofFn fun k => (u.lanes.get k).loaded b k }
  | 6 => { u with stations := Table.ofFn fun i => (u.stations.get i).loaded b i }
  | 7 => { u with magTypes := if b.selects 7 then Table.ofFn fun i => magTypeOf (wordAt (b.words 7) i.val) else u.magTypes }
  | 8 => { u with limits := if b.selects 8 then limitsOf (b.words 8) else u.limits }
  | _ => { u with
      routeA := if b.selects 9 then BitVec.ofNat 24 (bits (wordAt (b.words 9) 0) 0 24) else u.routeA
      routeB := if b.selects 9 then BitVec.ofNat 24 (bits (wordAt (b.words 9) 0) 32 24) else u.routeB }

/-- A section that the load does not select changes nothing. -/
theorem State.sectioned_unselected {u : State} {b : Body} {k : Nat} (hk : k < 10) (h : b.selects k = false) :
    u.sectioned b k = u := by
  have hlanes (h : b.selects 5 = false) : (Table.ofFn fun k => (u.lanes.get k).loaded b k) = u.lanes :=
    Table.ext_get fun k => by simp [Lane.loaded, h]
  have hstations (h : b.selects 6 = false) : (Table.ofFn fun i => (u.stations.get i).loaded b i) = u.stations :=
    Table.ext_get fun i => by simp [Station.loaded, h]
  match k, hk with
  | 0, _ => simp [State.sectioned, h]
  | 1, _ => simp [State.sectioned, h]
  | 2, _ => simp [State.sectioned, h]
  | 3, _ => simp [State.sectioned, NestContext.loaded, Body.jobs, Nest.sect, h]
  | 4, _ => simp [State.sectioned, NestContext.loaded, Body.jobs, Nest.sect, h]
  | 5, _ => simp only [State.sectioned, hlanes h]
  | 6, _ => simp only [State.sectioned, hstations h]
  | 7, _ => simp [State.sectioned, h]
  | 8, _ => simp [State.sectioned, h]
  | 9, _ => simp [State.sectioned, h]

/-! ### The state that a run stands at, but for the image queue -/

/-- The run stands at a state, but for the images that wait in the queue: the full image takes the status block
out of it (R194). -/
def Run.Bears (r : Run) (u : State) : Prop := r.st = { u with images := r.st.images }

theorem Run.setNest_st (r : Run) (n : Nest) (c : NestContext) : (r.setNest n c).st = r.st.withNest n c := by
  unfold Run.setNest
  split
  · next h =>
    rw [← h]
    cases n <;> rfl
  · rw [Run.image_st, Run.modify_st]

theorem Run.setCursors_st (r : Run) (c : Cursors) : (r.setCursors c).st = { r.st with cursors := c } := by
  unfold Run.setCursors
  split
  · next h => rw [← h]
  · rw [Run.image_st, Run.modify_st]

theorem Run.setLane_st (r : Run) (i : Fin 16) (l : Lane) :
    (r.setLane i l).st = { r.st with lanes := r.st.lanes.set i l } := by
  unfold Run.setLane
  split
  · next h => rw [← h, Table.set_get_self]
  · rw [Run.image_st, Run.modify_st]

theorem Run.setStation_st (r : Run) (i : Fin 8) (st : Station) :
    (r.setStation i st).st = { r.st with stations := r.st.stations.set i st } := by
  unfold Run.setStation
  split
  · next h => rw [← h, Table.set_get_self]
  · show ((r.modify _).image _).st = _
    rw [Run.image_st, Run.modify_st]

theorem Run.foldl_configureLane (ws : List Word) (l : List (Fin 16)) (hl : l.Nodup) (r : Run) :
    ∃ lanes, (l.foldl (configureLane ws) r).st = { r.st with lanes := lanes } ∧
      ∀ k, lanes.get k = if k ∈ l then (r.st.lanes.get k).configured (wordAt ws k.val) else r.st.lanes.get k := by
  induction l generalizing r with
  | nil => exact ⟨_, rfl, by simp⟩
  | cons i l ih =>
    obtain ⟨hi, hl⟩ := List.nodup_cons.1 hl
    obtain ⟨lanes, hst, hget⟩ := ih hl (configureLane ws r i)
    have hone : (configureLane ws r i).st =
        { r.st with lanes := r.st.lanes.set i ((r.st.lanes.get i).configured (wordAt ws i.val)) } := by
      rw [configureLane, Run.image_st, Run.setLane_st]
    refine ⟨lanes, by rw [List.foldl_cons, hst, hone], fun k => ?_⟩
    rw [hget, hone]
    by_cases hk : k = i
    · subst hk
      simp [hi]
    · simp [hk, Table.get_set_ne]

theorem Run.foldl_maskStation (ws : List Word) (l : List (Fin 8)) (hl : l.Nodup) (r : Run) :
    ∃ stations, (l.foldl (fun r i => r.setStation i ((r.st.stations.get i).masked (maskOf ws i))) r).st =
        { r.st with stations := stations } ∧
      ∀ k, stations.get k = if k ∈ l then (r.st.stations.get k).masked (maskOf ws k) else r.st.stations.get k := by
  induction l generalizing r with
  | nil => exact ⟨_, rfl, by simp⟩
  | cons i l ih =>
    obtain ⟨hi, hl⟩ := List.nodup_cons.1 hl
    obtain ⟨stations, hst, hget⟩ := ih hl (r.setStation i ((r.st.stations.get i).masked (maskOf ws i)))
    have hone := r.setStation_st i ((r.st.stations.get i).masked (maskOf ws i))
    refine ⟨stations, by rw [List.foldl_cons, hst, hone], fun k => ?_⟩
    rw [hget, hone]
    by_cases hk : k = i
    · subst hk
      simp [hi]
    · simp [hk, Table.get_set_ne]

theorem Run.loadNest_st (r : Run) (n : Nest) (d : Descriptor) : (r.loadNest n d).st =
    { r.st.withNest n { r.st.nest n with
        descriptor := some d, state := .loading, loadResult := .none, firstBad := none } with
      jobs := r.st.jobs ++ [.load n d] } := by
  unfold Run.loadNest
  rw [Run.modify_st, Run.setNest_st]
  cases n <;> rfl

theorem applySection_lanes (b : Body) (r : Run) : Machine.applySection b r 5 =
    ((List.finRange 16).foldl (configureLane (b.words 5)) r).touchLanes := by simp only [Machine.applySection]

theorem applySection_stations (b : Body) (r : Run) : Machine.applySection b r 6 = ((List.finRange 8).foldl
    (fun r i => r.setStation i ((r.st.stations.get i).masked (maskOf (b.words 6) i))) r).touchLanes := by
  simp only [Machine.applySection]

/-- A section that the load selects is applied as told (R192). -/
theorem Run.Bears.applySection {r : Run} {u : State} {b : Body} {k : Nat} (h : r.Bears u) (hk : k < 10)
    (hb : b.selects k = true) : (applySection b r k).Bears (u.sectioned b k) := by
  unfold Run.Bears at h ⊢
  generalize r.st.images = l at h
  match k, hk with
  | 0, _ =>
    simp only [State.sectioned, hb, if_true, Machine.applySection, Run.modify_st, h]
  | 1, _ =>
    simp only [State.sectioned, hb, if_true, Machine.applySection, Run.setCursors_st, Run.modify_st, h]
  | 2, _ =>
    simp only [State.sectioned, hb, if_true, Machine.applySection, Run.fullImage_st, Run.modify_st, h]
  | 3, _ =>
    have hb : b.selects Nest.a.sect = true := hb
    simp only [State.sectioned, NestContext.loaded, Body.jobs, hb, if_true, Machine.applySection, Run.loadNest_st, h]
    rfl
  | 4, _ =>
    have hb : b.selects Nest.b.sect = true := hb
    simp only [State.sectioned, NestContext.loaded, Body.jobs, hb, if_true, Machine.applySection, Run.loadNest_st, h]
    rfl
  | 5, _ =>
    obtain ⟨lanes, hst, hget⟩ := Run.foldl_configureLane (b.words 5) (List.finRange 16) (List.nodup_finRange 16) r
    have hlanes : lanes = Table.ofFn fun k => (u.lanes.get k).loaded b k := Table.ext_get fun k => by
      rw [hget, if_pos (List.mem_finRange k), Table.get_ofFn, Lane.loaded, if_pos hb, h]
    rw [applySection_lanes]
    generalize (List.finRange 16).foldl (configureLane (b.words 5)) r = r' at hst ⊢
    show r'.st = { u.sectioned b 5 with images := r'.st.images }
    rw [hst, hlanes, h]
    rfl
  | 6, _ =>
    obtain ⟨stations, hst, hget⟩ := Run.foldl_maskStation (b.words 6) (List.finRange 8) (List.nodup_finRange 8) r
    have hstations : stations = Table.ofFn fun i => (u.stations.get i).loaded b i := Table.ext_get fun i => by
      rw [hget, if_pos (List.mem_finRange i), Table.get_ofFn, Station.loaded, if_pos hb, h]
    rw [applySection_stations]
    generalize (List.finRange 8).foldl (fun r i => r.setStation i
      ((r.st.stations.get i).masked (maskOf (b.words 6) i))) r = r' at hst ⊢
    show r'.st = { u.sectioned b 6 with images := r'.st.images }
    rw [hst, hstations, h]
    rfl
  | 7, _ =>
    simp only [State.sectioned, hb, if_true, Machine.applySection, Run.modify_st, h]
  | 8, _ =>
    simp only [State.sectioned, hb, if_true, Machine.applySection, Run.modify_st, h]
  | 9, _ =>
    simp only [State.sectioned, hb, if_true, Machine.applySection, Run.modify_st, h]

/-- The run keeps what it carries, and where the section is not S2, the images that it has collected. -/
theorem Run.applySection_gains (b : Body) (r : Run) {k : Nat} (hk : k ≠ 2) : r.Gains (applySection b r k) := by
  have loads (n : Nest) (d : Descriptor) : r.Gains (r.loadNest n d) := (Gains.setNest r n _).trans (.modify _ _)
  match k with
  | 0 => exact .modify r fun s => { s with roles := some (rolesOf (b.words 0)) }
  | 1 => exact (Gains.modify r fun s => { s with rings := some (ringsOf (b.words 1)) }).trans (.setCursors _ _)
  | 2 => exact absurd rfl hk
  | 3 => exact loads .a _
  | 4 => exact loads .b _
  | 5 =>
    rw [applySection_lanes]
    exact (Gains.foldl (fun r i => (Gains.setLane r i _).trans (.image _ _)) (List.finRange 16) r).trans (.touchLanes _)
  | 6 =>
    rw [applySection_stations]
    exact (Gains.foldl (fun r i => .setStation r i _) (List.finRange 8) r).trans (.touchLanes _)
  | 7 => exact .modify r fun s => { s with magTypes := Table.ofFn fun i => magTypeOf (wordAt (b.words 7) i.val) }
  | 8 => exact .modify r fun s => { s with limits := limitsOf (b.words 8) }
  | k + 9 =>
    exact .modify r fun s =>
      { s with
        routeA := BitVec.ofNat 24 (bits (wordAt (b.words (k + 9)) 0) 0 24)
        routeB := BitVec.ofNat 24 (bits (wordAt (b.words (k + 9)) 0) 32 24) }

theorem Run.applySection_rest (b : Body) (r : Run) (k : Nat) : r.SameRest (applySection b r k) := by
  by_cases hk : k = 2
  · subst hk
    exact SameRest.trans (b := r.modify fun s => { s with imageBase := some (imageBaseOf (b.words 2)) })
      ⟨rfl, rfl, rfl⟩ (Run.fullImage_rest _)
  · exact (r.applySection_gains b hk).rest

/-! ### All the sections -/

theorem Run.Bears.applySections (ks : List Nat) (hks : ∀ k ∈ ks, k < 10) {r : Run} {u : State} {b : Body} (h : r.Bears u) :
    ((ks.filter b.selects).foldl (Machine.applySection b) r).Bears (ks.foldl (fun u k => u.sectioned b k) u) := by
  induction ks generalizing r u with
  | nil => exact h
  | cons k ks ih =>
    have hk := hks k List.mem_cons_self
    have ih {r : Run} {u : State} := ih (r := r) (u := u) fun k hk => hks k (List.mem_cons_of_mem _ hk)
    rw [List.foldl_cons, List.filter_cons]
    cases hb : b.selects k with
    | true => exact ih (h.applySection hk hb)
    | false => rw [State.sectioned_unselected hk hb]; exact ih h

theorem Run.applySections_rest (b : Body) (ks : List Nat) (r : Run) : r.SameRest (ks.foldl (applySection b) r) := by
  induction ks generalizing r with
  | nil => exact .refl r
  | cons k ks ih => exact (r.applySection_rest b k).trans (ih _)

theorem State.sectioned_mode (u : State) (b : Body) (k : Nat) : (u.sectioned b k).mode = u.mode := by
  unfold State.sectioned
  split <;> rfl

/-- In GUARDED mode every image is collected once S2 has been applied (R194). -/
theorem Run.applySections_full {b : Body} (ks : List Nat) (hks : ∀ k ∈ ks, k < 10 ∧ b.selects k = true) {r : Run}
    (hg : r.st.guarded = true) (h : 2 ∈ ks ∨ ∀ id, id ∈ r.images) (id : ImageId) :
    id ∈ (ks.foldl (applySection b) r).images := by
  induction ks generalizing r with
  | nil => exact h.elim nofun fun h => h id
  | cons k ks ih =>
    obtain ⟨hk, hb⟩ := hks k List.mem_cons_self
    have hmode : (applySection b r k).st.guarded = true := by
      have hbears : (applySection b r k).Bears (r.st.sectioned b k) := Run.Bears.applySection rfl hk hb
      rw [State.guarded_iff] at hg ⊢
      exact ((congrArg State.mode hbears).trans (State.sectioned_mode _ b k)).trans hg
    refine ih (fun k hk => hks k (List.mem_cons_of_mem _ hk)) hmode ?_
    by_cases h2 : k = 2
    · subst h2
      exact .inr fun id => Run.mem_fullImage
        (r := r.modify fun s => { s with imageBase := some (imageBaseOf (b.words 2)) }) hg id
    · rcases h with h | h
      · exact .inl ((List.mem_cons.1 h).resolve_left fun e => h2 e.symm)
      · exact .inr fun id => (r.applySection_gains b h2).images id (h id)

/-- A state as the sections of a load leave it (R192). -/
def State.loaded (u : State) (b : Body) : State :=
  { u with
    roles := if b.selects 0 then some (rolesOf (b.words 0)) else u.roles
    rings := if b.selects 1 then some (ringsOf (b.words 1)) else u.rings
    cursors := if b.selects 1 then ⟨0, 0, 0, 0⟩ else u.cursors
    imageBase := if b.selects 2 then some (imageBaseOf (b.words 2)) else u.imageBase
    jobs := u.jobs ++ b.jobs .a ++ b.jobs .b
    nestA := u.nestA.loaded b .a
    nestB := u.nestB.loaded b .b
    lanes := Table.ofFn fun k => (u.lanes.get k).loaded b k
    stations := Table.ofFn fun i => (u.stations.get i).loaded b i
    magTypes := if b.selects 7 then Table.ofFn fun i => magTypeOf (wordAt (b.words 7) i.val) else u.magTypes
    limits := if b.selects 8 then limitsOf (b.words 8) else u.limits
    routeA := if b.selects 9 then BitVec.ofNat 24 (bits (wordAt (b.words 9) 0) 0 24) else u.routeA
    routeB := if b.selects 9 then BitVec.ofNat 24 (bits (wordAt (b.words 9) 0) 32 24) else u.routeB }

theorem State.sectioned_all (u : State) (b : Body) :
    (List.range 10).foldl (fun u k => u.sectioned b k) u = u.loaded b := by
  simp only [show List.range 10 = [0, 1, 2, 3, 4, 5, 6, 7, 8, 9] from rfl, List.foldl_cons, List.foldl_nil,
    State.sectioned, State.loaded]

theorem bodyRead_sections (s : State) (answers : List MemAnswer) (ks : List Nat) :
    (bodyRead s answers ks).map (fun p => p.1) = ks := by
  induction ks generalizing s answers with
  | nil => rfl
  | cons k ks ih => rw [bodyRead, List.map_cons, ih]

theorem bodyOf_sections (s : State) (answers : List MemAnswer) (q : Request) :
    (bodyOf s answers q).map (fun p => p.1) = (List.range 10).filter (bodyOf s answers q).selects := by
  refine (bodyRead_sections s answers _).trans ?_
  rw [loadSections]
  refine List.filter_congr fun k hk => ?_
  rw [Bool.eq_iff_iff, bodyOf_selects]
  exact ⟨fun h => ⟨List.mem_range.1 hk, h⟩, And.right⟩

/-- The run before the part is made GUARDED, where a load applies its sections (R192). -/
structure Run.Sections (r r' : Run) (b : Body) : Prop where
  bears : r'.Bears (r.st.loaded b)
  rest  : r.SameRest r'
  full  : r.st.guarded = true → b.selects 2 = true → ∀ id, id ∈ r'.images

theorem Run.sections {b : Body} (hb : b.map (fun p => p.1) = (List.range 10).filter b.selects) (r : Run) :
    r.Sections ((b.map fun p => p.1).foldl (applySection b) r) b := by
  have hin (k : Nat) : k ∈ (List.range 10).filter b.selects ↔ k < 10 ∧ b.selects k = true := by simp
  rw [hb]
  refine ⟨?_, r.applySections_rest b _, fun hg h2 id => ?_⟩
  · rw [← State.sectioned_all]
    exact Run.Bears.applySections (List.range 10) (fun k hk => List.mem_range.1 hk) rfl
  · exact Run.applySections_full _ (fun k hk => (hin k).1 hk) hg (.inl ((hin 2).2 ⟨by decide, h2⟩)) id

end Sys2Proof.Machine
end

section
/-! PROOF. An accepted load (R59, R132, R142, R192 to R194). -/

namespace Sys2Proof.Machine

open Sys2Proof.Claims

/-! ### The part becomes GUARDED (R193) -/

/-- A load as it stands once the part is GUARDED, before the lanes settle. -/
structure Entered (u y : State) (b : Body) (ids : List ImageId) : Prop where
  shape : y = { u.loaded b with mode := .guarded, images := y.images }
  full  : b.selects 2 = true → ∀ id, id ∈ ids

theorem Run.Sections.enterGuarded {r r' : Run} {b : Body} (h : r.Sections r' b) :
    Entered r.st r'.enterGuarded.st b r'.enterGuarded.images ∧ r.SameRest r'.enterGuarded := by
  have hb := h.bears
  have hmode : r'.st.mode = r.st.mode := (congrArg State.mode (show r'.st = _ from hb)).trans rfl
  have hguarded : r'.st.guarded = r.st.guarded := by rw [State.guarded, State.guarded, hmode]
  unfold Run.Bears at hb
  unfold Run.enterGuarded
  cases hg : r.st.guarded with
  | true =>
    rw [if_pos (hguarded.trans hg)]
    refine ⟨⟨hb.trans ?_, h.full hg⟩, h.rest⟩
    rw [← show r.st.mode = .guarded from r.st.guarded_iff.1 hg]
    rfl
  | false =>
    rw [if_neg (by rw [hguarded, hg]; exact Bool.false_ne_true)]
    refine ⟨⟨?_, fun _ id => Run.mem_fullImage (by rfl) id⟩, h.rest.trans
      (SameRest.trans (b := r'.modify fun s => { s with mode := .guarded }) ⟨rfl, rfl, rfl⟩ (Run.fullImage_rest _))⟩
    rw [Run.fullImage_st, Run.modify_st]
    generalize r'.st.images = l at hb
    rw [hb]

/-! ### The lanes settle (R142, R144) -/

theorem Station.masked_usable (st : Station) (mask : BitVec 16) : (st.masked mask).usable = st.usable := by
  have unused (x : StationState) (h : x = .vacant ∨ x = .disabled) : (x == .ready || x == .filling) = false := by
    rcases h with rfl | rfl <;> rfl
  have hmask : (if mask = 0 then StationState.disabled else .vacant) = .vacant ∨
      (if mask = 0 then StationState.disabled else .vacant) = .disabled := by
    split
    · exact .inr rfl
    · exact .inl rfl
  unfold Station.usable Station.masked
  cases hs : st.state with
  | vacant => dsimp only; rw [unused _ hmask, unused _ (.inl rfl)]
  | disabled => dsimp only; rw [unused _ hmask, unused _ (.inr rfl)]
  | identifying => rfl
  | ready => rfl
  | filling => rfl
  | full => rfl
  | faulted c => rfl

theorem Station.loaded_usable (st : Station) (b : Body) (i : Fin 8) : (st.loaded b i).usable = st.usable := by
  unfold Station.loaded
  split
  · exact st.masked_usable _
  · rfl

theorem reevaluated_of_usable {s t : State} (h : ∀ i, (t.stations.get i).usable = (s.stations.get i).usable) (l : Lane) :
    reevaluated t l = reevaluated s l := by
  have hsome : t.someUsable l = s.someUsable l := by simp only [State.someUsable, h]
  have hcurrent : t.currentUsable l = s.currentUsable l := by simp only [State.currentUsable, h]
  simp [reevaluated, hsome, hcurrent]

/-- Once the lanes have settled (R142, R144). -/
structure LanesLoaded (u z : State) (b : Body) : Prop where
  shape : z = { u.loaded b with mode := .guarded, images := z.images, lanes := z.lanes, flags := z.flags }
  lanes : ∀ k, z.lanes.get k =
    if b.selects 5 then reevaluated z ((u.lanes.get k).configured (wordAt (b.words 5) k.val)) else u.lanes.get k
  flags : LaneFlags u z fun k => (u.lanes.get k).loaded b k
  others : FlagsBut u z [.laneExhausted]

theorem Entered.settled {u y z : State} {b : Body} {ids more : List ImageId} (h : Entered u y b ids)
    (hset : LanesSettled u) (hz : Relaned y z more) (hget : ∀ k, z.lanes.get k = reevaluated y (y.lanes.get k)) :
    LanesLoaded u z b := by
  have hlanes (k : Fin 16) : y.lanes.get k = (u.lanes.get k).loaded b k := by
    rw [h.shape]
    exact Table.get_ofFn _ _
  have hstations (i : Fin 8) : (y.stations.get i).usable = (u.stations.get i).usable := by
    rw [h.shape]
    refine (congrArg Station.usable (Table.get_ofFn _ _)).trans (Station.loaded_usable _ b i)
  have hflags : y.flags = u.flags := by rw [h.shape]; rfl
  have hsettled (hb : b.selects 5 = false) (k : Fin 16) : z.lanes.get k = u.lanes.get k := by
    rw [hget, hlanes, Lane.loaded, if_neg (by rw [hb]; exact nofun), reevaluated_of_usable hstations]
    exact State.reevaluated_of_settles (hset k)
  have hl := hz.flags
  rw [show y.lanes.get = fun k => (u.lanes.get k).loaded b k from funext hlanes] at hl
  have hl : LaneFlags u z fun k => (u.lanes.get k).loaded b k :=
    laneFlags_congr hl (fun f _ => (State.flag_congr hflags f).symm) (fun _ _ => rfl) rfl
  refine ⟨?_, fun k => ?_, hl, fun f hf => ?_⟩
  · have hys := h.shape
    have hzs := hz.shape
    clear h
    generalize z.lanes = lanes, z.flags = flags at hzs ⊢
    generalize y.images = images at hys
    subst hys
    subst hzs
    rfl
  · cases hb : b.selects 5 with
    | true => rw [hget, hlanes, Lane.loaded, if_pos hb, if_pos rfl, reevaluated_congr hz.stations]
    | false => rw [hsettled hb, if_neg nofun]
  · by_cases hs : f = .laneStopped
    · subst hs
      rw [Bool.eq_iff_iff, (laneFlags_iff.1 hl).1]
      refine ⟨fun h => h.elim id ?_, .inl⟩
      rintro ⟨k, hstop, hnone, hstate⟩
      cases hb : b.selects 5 with
      | true => exact absurd (by rw [Lane.loaded, if_pos hb]; rfl) hstop
      | false =>
        rw [Lane.loaded, if_neg (by rw [hb]; exact nofun), ← hsettled hb k] at hstop
        exact absurd hnone hstop
    · rw [hz.others f (by simp_all)]
      exact State.flag_congr hflags f

/-! ### The end of the load -/

/-- A load has been applied and ends (R192 to R194). -/
structure LoadEnds (u z : State) (q : Request) (b : Body) (t : State) (tag : Tag) (waits : List ImageId) : Prop where
  lanes  : LanesLoaded u z b
  shape  : t = { z with
    loadGen := loadGeneration q.data, loadStatus := .ok, flags := z.flags ||| Flag.loadDone.bits, images := t.images
    requests := z.requests.set tag none, engine := .finishing ⟨tag, .done, waits⟩ }
  status : .status ∈ waits
  queued : ∀ id ∈ waits, id ∈ t.images
  full   : b.selects 2 = true → ∀ id, id ∈ waits

theorem applyLoad_ends {u : State} {b : Body} (hset : LanesSettled u)
    (hb : b.map (fun p => p.1) = (List.range 10).filter b.selects) (q : Request) (rest : List MemAnswer) (tag : Tag) :
    ∃ z waits, LoadEnds u z q b (Served (.done, applyLoad q b (Run.start u rest)) tag) tag waits := by
  have hsect := Run.sections hb (Run.start u rest)
  unfold Served applyLoad
  dsimp only
  generalize (b.map fun p => p.1).foldl (applySection b) (Run.start u rest) = r1 at hsect ⊢
  obtain ⟨hent, hrest⟩ := hsect.enterGuarded
  generalize r1.enterGuarded = r2 at hent hrest ⊢
  have hent : Entered u r2.st b r2.images := hent
  have hm : r2.Made r2.st r2.images := ⟨rfl, fun _ => Iff.rfl, by rw [hent.shape]⟩
  obtain ⟨z, more, hm, hz, hget, hlanes, hrest'⟩ := hm.touchLanes.settleLanes rfl
  have hloaded := hent.settled hset hz hget
  have hempties : r2.touchLanes.settleLanes.empties = [] := hrest'.empties.trans hrest.empties
  have hevents : r2.touchLanes.settleLanes.events = [] := hrest'.events.trans hrest.events
  generalize r2.touchLanes.settleLanes = r3 at hm hlanes hempties hevents ⊢
  have hfree : r3.Free := ⟨hlanes, hempties, hevents⟩
  have hm := ((hm.modify (f := fun s => { s with loadGen := loadGeneration q.data, loadStatus := .ok })
    hm.guarded).raise .loadDone).image .status
  have hfree := ((hfree.modify fun s => { s with loadGen := loadGeneration q.data, loadStatus := .ok }).raise
    .loadDone).image .status
  obtain ⟨waits, images, ht, hwaits, himages⟩ := hm.ends hfree (by simp) tag .done
  refine ⟨z, waits, hloaded, ht.trans (by rw [ht]), (hwaits _).2 (by simp), fun id hid => ?_, fun h2 id => ?_⟩
  · rw [ht]
    exact (himages id).2 (.inr ((hwaits id).1 hid))
  · exact (hwaits id).2 (by simp [hent.full h2 id])

theorem Body.jobs_both (b : Body) : ([Nest.a, Nest.b].filter fun n => b.selects n.sect).map (fun n =>
    Job.load n (descriptorOf (b.words n.sect))) = b.jobs .a ++ b.jobs .b := by
  have hone (n : Nest) (l : List Nest) : ((n :: l).filter fun n => b.selects n.sect).map (fun n =>
      Job.load n (descriptorOf (b.words n.sect))) = b.jobs n ++ (l.filter fun n => b.selects n.sect).map (fun n =>
      Job.load n (descriptorOf (b.words n.sect))) := by
    rw [List.filter_cons, Body.jobs]
    split
    · rfl
    · rfl
  rw [hone, hone]
  simp

/-- A load that passes its judgement is applied once its load word has been forwarded (R192). -/
theorem serveLoad_applied {s : State} {tag : Tag} {q : Request} {answers : List MemAnswer}
    (hl : lateLoad tag q s = false) (ha : Answered answers (bodySize q + 1))
    (hj : (loadRead s answers q).judgeLoad (bodyOf s answers q) = none) :
    serveLoad tag q (Run.start s answers) = (.done, applyLoad q (bodyOf s answers q) (Run.start
      ((loadRead s answers q).wroteAll (answers.drop (bodySize q)) [(q.word 0, q.data)])
      (answers.drop (bodySize q + 1)))) := by
  obtain ⟨hread, hwrite⟩ := Answered.add_iff.1 ha
  rw [serveLoad_passed hl hread hj, Run.writing_done (by exact hwrite)]
  refine congrArg (fun r => (Ack.done, applyLoad q (bodyOf s answers q) r)) ?_
  rw [← List.drop_drop]
  rfl

/-- What a load configures does not change beside a request. -/
theorem State.Beside.configured {s u : State} {p : Fin 18} (h : s.Beside u) (e : s.engine = .serving p) :
    u.roles = s.roles ∧ u.rings = s.rings ∧ u.cursors = s.cursors ∧ u.imageBase = s.imageBase ∧
      u.magTypes = s.magTypes ∧ u.limits = s.limits ∧ u.routeA = s.routeA ∧ u.routeB = s.routeB := by
  have field {α : Type} (f : State → α) : f u.steady = f s.steady := congrArg f (h p e)
  exact ⟨field State.roles, field State.rings, field State.cursors, field State.imageBase, field State.magTypes,
    field State.limits, field State.routeA, field State.routeB⟩

/-- Settles O48. -/
theorem acceptedLoadAppliesItsSections : Obligations.AcceptedLoadAppliesItsSections := by
  unfold Obligations.AcceptedLoadAppliesItsSections
  intro s tag q answers hq hc ha v hj hset hp b u
  obtain ⟨p, he⟩ := serving_of_held hq
  have hu : s.Beside u := (s.waited_beside answers (bodySize q)).trans
    (State.wroteAll_beside v (answers.drop (bodySize q)) [(q.word 0, q.data)])
  have hwrote : (loadRead s answers q).wroteAll (answers.drop (bodySize q)) [(q.word 0, q.data)] = u := rfl
  have hx := serves_load (answers := answers) hq hc
  unfold Serves at hx
  rw [serveLoad_applied (lateLoad_false hp) ha hj, hwrote, show bodyOf s answers q = b from rfl] at hx
  have hb : b.map (fun p => p.1) = (List.range 10).filter b.selects := bodyOf_sections s answers q
  clear_value u b
  clear hwrote
  obtain ⟨z, waits, hend⟩ := applyLoad_ends (hu.lanesSettled he hset) hb q (answers.drop (bodySize q + 1)) tag
  generalize Served (.done, applyLoad q b (Run.start u (answers.drop (bodySize q + 1)))) tag = t at hend hx
  have hz := hend.lanes.shape
  obtain ⟨hroles, hrings, hcursors, hbase, htypes, hlimits, hrouteA, hrouteB⟩ := hu.configured he
  have hlanes := hu.lanes he
  have hstations := hu.stations he
  have hflag (f : Flag) : t.flag f = true ↔ z.flag f = true ∨ f = .loadDone :=
    State.flag_raised (by rw [hend.shape]) f
  have htl : t.lanes = z.lanes := by rw [hend.shape]
  have hts : t.stations = z.stations := by rw [hend.shape]
  have htj : t.jobs = z.jobs := by rw [hend.shape]
  have hold : (fun k => if b.selects 5 then (s.lanes.get k).configured (wordAt (b.words 5) k.val) else s.lanes.get k) =
      fun k => (u.lanes.get k).loaded b k := by
    rw [hlanes]
    rfl
  refine ⟨t, waits, hx, ?shape, hend.status, hend.queued, hend.full, fun n => ?nests, ?jobs, fun i => ?stations,
    fun k => ?lanes, (hflag .loadDone).2 (.inr rfl), ?laneFlags, fun f hf => ?flags⟩
  case shape =>
    have ht := hend.shape
    rw [← hroles, ← hrings, ← hcursors, ← hbase, ← htypes, ← hlimits, ← hrouteA, ← hrouteB]
    generalize t.images = images at ht
    generalize z.images = images', z.lanes = lanes, z.flags = flags at hz
    subst hz
    subst ht
    rfl
  case nests =>
    have ht : t.nest n = z.nest n := by rw [hend.shape]; cases n <;> rfl
    rw [ht, hz]
    cases n <;> rfl
  case jobs =>
    rw [htj, hz, Body.jobs_both]
    exact List.append_assoc _ _ _
  case stations =>
    rw [hts, hz, ← hstations]
    refine (Table.get_ofFn _ _).trans ?_
    unfold Station.loaded Station.masked
    congr 2
    cases (u.stations.get i).state <;> rfl
  case lanes =>
    rw [htl, hend.lanes.lanes, hlanes, reevaluated_congr hts]
  case laneFlags =>
    rw [hold]
    refine laneFlags_congr hend.lanes.flags (fun _ _ => rfl) (fun f hf => ?_) htl
    rw [Bool.eq_iff_iff, hflag]
    rcases hf with rfl | rfl <;> simp
  case flags =>
    simp only [List.mem_cons, List.not_mem_nil, or_false, not_or] at hf
    obtain ⟨hdone, hex⟩ := hf
    rw [Bool.eq_iff_iff, hflag, hend.lanes.others f (by simpa using hex)]
    simp [hdone]

end Sys2Proof.Machine
end
